-- ==== Sys2Proof/Word.lean ====
section
/-! DEFINITION. The word types of the model: bytes, the 32-bit codes of FP32 and INT32 values, and the
64-bit counters' values. Only the plainest names stand here; every helper that a rule of the spec
shapes is in a file under Machine/. -/

namespace Sys2Proof

/-- One byte of storage. -/
abbrev Byte := BitVec 8

/-- A 32-bit code, read as FP32 or INT32 by the operation that names it (R83). -/
abbrev Word32 := BitVec 32

/-- A run of bytes, lowest address first (R10). -/
abbrev Bytes := List Byte

/-- A 512-bit die slice (R30). -/
abbrev Slice := BitVec 512

/-- A compute die CD0 to CD7 (R14). -/
abbrev DieId := Fin 8

/-- A tun, 0 to 31. -/
abbrev TunId := Fin 32

/-- A MAC index 4k + j (R283). -/
abbrev MacId := Fin 64

/-- A global keeper number (R25, R26): 40n + k on CDn, 320 + k on HD. -/
abbrev KeeperId := Fin 352

/-- A die-to-die link: 0 to 7 hub link n, 8 to 15 ring link n − 8 (LNK_RP_LINK of R330). -/
abbrev LinkId := Fin 16

/-- A sparse table: entries by key, keys strictly rising, one entry a key. What an unlisted key reads
as is the default its reader names. -/
abbrev Tbl (α : Type) := List (Nat × α)

/-- A byte memory: the listed bytes by address, addresses strictly rising, none of them zero. -/
abbrev Mem := List Host.Cell

end Sys2Proof
end

