-- ==== Sys2Proof/Machine/Tables.lean ====
section
/-! DEFINITION. Sparse tables and the sparse byte memory: reading, writing, and the canonical form.
A table holds what a numbered family of like things holds (windows, tokens, slots); a memory holds
bytes by address, and a byte that is not listed reads as zero. -/

namespace Sys2Proof

/-- The entry of key k, or the default d where none is listed. -/
def Tbl.get {α : Type} (d : α) : Tbl α → Nat → α
  | [], _ => d
  | (j, a) :: t, k => if k = j then a else Tbl.get d t k

/-- The entry of key k, if one is listed. -/
def Tbl.find {α : Type} : Tbl α → Nat → Option α
  | [], _ => none
  | (j, a) :: t, k => if k = j then some a else Tbl.find t k

/-- The table with key k holding a. -/
def Tbl.put {α : Type} : Tbl α → Nat → α → Tbl α
  | [], k, a => [(k, a)]
  | (j, b) :: t, k, a =>
    if k < j then (k, a) :: (j, b) :: t
    else if k = j then (k, a) :: t
    else (j, b) :: Tbl.put t k a

/-- The table with no entry of key k. -/
def Tbl.erase {α : Type} : Tbl α → Nat → Tbl α
  | [], _ => []
  | (j, b) :: t, k => if k = j then t else (j, b) :: Tbl.erase t k

/-- The table with the entry of key k changed by f. -/
def Tbl.modify {α : Type} (d : α) (t : Tbl α) (k : Nat) (f : α → α) : Tbl α :=
  t.put k (f (Tbl.get d t k))

/-- Every listed entry changed by f. -/
def Tbl.mapVals {α β : Type} (f : α → β) (t : Tbl α) : Tbl β :=
  t.map fun e => (e.1, f e.2)

/-- The byte at address a; an address that is not listed reads as zero. -/
def Mem.read : Mem → Nat → Byte
  | [], _ => 0
  | (j, b) :: t, a => if a = j then b else Mem.read t a

/-- The memory with byte v at address a. Writing zero removes the entry. -/
def Mem.write : Mem → Nat → Byte → Mem
  | [], a, v => if v = 0 then [] else [(a, v)]
  | (j, b) :: t, a, v =>
    if a < j then (if v = 0 then (j, b) :: t else (a, v) :: (j, b) :: t)
    else if a = j then (if v = 0 then t else (a, v) :: t)
    else (j, b) :: Mem.write t a v

/-- The canonical form: addresses strictly above the bound lo, rising, and no listed byte zero. -/
def Mem.wfFrom : Nat → Mem → Bool
  | _, [] => true
  | lo, (j, b) :: t => decide (lo ≤ j) && decide (b ≠ 0) && Mem.wfFrom (j + 1) t

/-- The canonical form of a memory. -/
def Mem.wf (m : Mem) : Bool := Mem.wfFrom 0 m

/-- n bytes from address a, lowest address first. -/
def Mem.readBytes (m : Mem) (a n : Nat) : Bytes :=
  (List.range n).map fun i => Mem.read m (a + i)

/-- The memory with the bytes bs from address a on. -/
def Mem.writeBytes : Mem → Nat → Bytes → Mem
  | m, _, [] => m
  | m, a, b :: bs => Mem.writeBytes (Mem.write m a b) (a + 1) bs

/-- The memory with every byte from address a to a + n − 1 zero (zeroisation, R384). -/
def Mem.zeroRange (m : Mem) (a n : Nat) : Mem :=
  m.filter fun c => !(decide (a ≤ c.1) && decide (c.1 < a + n))

/-- The little-endian number of a run of bytes (R10). -/
def Bytes.toNat : Bytes → Nat
  | [] => 0
  | b :: bs => b.toNat + 256 * Bytes.toNat bs

/-- The n low bytes of x, little-endian (R10). -/
def bytesOfNat : Nat → Nat → Bytes
  | 0, _ => []
  | n + 1, x => BitVec.ofNat 8 x :: bytesOfNat n (x / 256)

/-- The n low bytes of x, big-endian, as network headers carry them (R10). -/
def bytesOfNatBE (n x : Nat) : Bytes := (bytesOfNat n x).reverse

/-- Bits [lo + w − 1 : lo] of x as a number (R9). -/
def bitsOf (x lo w : Nat) : Nat := x / 2 ^ lo % 2 ^ w

/-- x with bits [lo + w − 1 : lo] set to the low w bits of v. -/
def setBitsOf (x lo w v : Nat) : Nat :=
  x - bitsOf x lo w * 2 ^ lo + (v % 2 ^ w) * 2 ^ lo

/-- Bits [lo + w − 1 : lo] of a slice, table entry or record. -/
def field {n : Nat} (x : BitVec n) (lo w : Nat) : Nat := bitsOf x.toNat lo w

/-- One bit of a slice, table entry or record. -/
def flag {n : Nat} (x : BitVec n) (lo : Nat) : Bool := x.getLsbD lo

/-- Bits [lo + w − 1 : lo] of x replaced by v. -/
def setField {n : Nat} (x : BitVec n) (lo w v : Nat) : BitVec n :=
  BitVec.ofNat n (setBitsOf x.toNat lo w v)

/-- The two's complement value of the low w bits of x. -/
def signed (w x : Nat) : Int :=
  if x % 2 ^ w < 2 ^ (w - 1) then (x % 2 ^ w : Nat) else (x % 2 ^ w : Nat) - (2 ^ w : Nat)

/-- The value held between lo and hi. -/
def clampNat (lo hi x : Nat) : Nat := if x < lo then lo else if hi < x then hi else x

/-- The value held between lo and hi. -/
def clampInt (lo hi x : Int) : Int := if x < lo then lo else if hi < x then hi else x

/-- ⌈a / b⌉, and 0 where b is 0. -/
def ceilDiv (a b : Nat) : Nat := (a + b - 1) / b

end Sys2Proof
end

