-- ==== Sys2Proof/Machine/Formats.lean ====
section
/-! DEFINITION. The seventeen formats of R83 to R87, exact values, and rounding (R91, R92, R99 to R103,
R105). A value is held exactly, as a sign and a fraction of naturals, and is rounded once into a format. -/

namespace Sys2Proof

/-- The format codes of R83. -/
inductive Fmt where
  | fp32 | bf16 | fp16 | e4m3 | e5m2 | e3m2 | e2m3 | e2m1 | e1m1
  | int8 | int4 | int3 | uint8 | t2 | e8m0 | ue4m3 | int32
  deriving DecidableEq, Repr

/-- The format a code names; codes 0x11 to 0x1F are reserved (R83). -/
def Fmt.ofCode : Nat → Option Fmt
  | 0x00 => some .fp32 | 0x01 => some .bf16 | 0x02 => some .fp16 | 0x03 => some .e4m3
  | 0x04 => some .e5m2 | 0x05 => some .e3m2 | 0x06 => some .e2m3 | 0x07 => some .e2m1
  | 0x08 => some .e1m1 | 0x09 => some .int8 | 0x0A => some .int4 | 0x0B => some .int3
  | 0x0C => some .uint8 | 0x0D => some .t2 | 0x0E => some .e8m0 | 0x0F => some .ue4m3
  | 0x10 => some .int32 | _ => none

/-- The code of a format (R83). -/
def Fmt.code : Fmt → Nat
  | .fp32 => 0x00 | .bf16 => 0x01 | .fp16 => 0x02 | .e4m3 => 0x03 | .e5m2 => 0x04 | .e3m2 => 0x05
  | .e2m3 => 0x06 | .e2m1 => 0x07 | .e1m1 => 0x08 | .int8 => 0x09 | .int4 => 0x0A | .int3 => 0x0B
  | .uint8 => 0x0C | .t2 => 0x0D | .e8m0 => 0x0E | .ue4m3 => 0x0F | .int32 => 0x10

/-- The width of an element in bits (R83). -/
def Fmt.bits : Fmt → Nat
  | .fp32 | .int32 => 32
  | .bf16 | .fp16 => 16
  | .e4m3 | .e5m2 | .int8 | .uint8 | .e8m0 | .ue4m3 => 8
  | .e3m2 | .e2m3 => 6
  | .e2m1 | .int4 => 4
  | .e1m1 | .int3 => 3
  | .t2 => 2

/-- An exact value: a NaN, an infinity, or ± num / den with den positive. A zero carries its sign. -/
inductive Val where
  | nan
  | inf (neg : Bool)
  | fin (neg : Bool) (num den : Nat)
  deriving DecidableEq, Repr

/-- ± k × 2^e, exactly. -/
def Val.dyadic (neg : Bool) (k : Nat) (e : Int) : Val :=
  if 0 ≤ e then .fin neg (k * 2 ^ e.toNat) 1 else .fin neg k (2 ^ (-e).toNat)

/-- An integer as a value. -/
def Val.ofInt (x : Int) : Val := .fin (decide (x < 0)) x.natAbs 1

/-- Whether a value is a NaN or an infinity. -/
def Val.nonfinite : Val → Bool
  | .fin _ _ _ => false
  | _ => true

/-- The sign of a value. -/
def Val.negative : Val → Bool
  | .nan => false
  | .inf s | .fin s _ _ => s

/-- Whether a value is a zero of either sign. -/
def Val.isZero : Val → Bool
  | .fin _ n _ => n == 0
  | _ => false

/-- Whether a value is a NaN. -/
def Val.isNan : Val → Bool
  | .nan => true
  | _ => false

/-- The value with its sign flipped. -/
def Val.neg : Val → Val
  | .nan => .nan
  | .inf s => .inf !s
  | .fin s n d => .fin (!s) n d

/-- The magnitude of a value. -/
def Val.abs : Val → Val
  | .nan => .nan
  | .inf _ => .inf false
  | .fin _ n d => .fin false n d

/-- The exact sum; an exact zero is +0 but for two zeros of one sign (R92). ∞ − ∞ is a NaN (R117). -/
def Val.add : Val → Val → Val
  | .nan, _ | _, .nan => .nan
  | .inf a, .inf b => if a = b then .inf a else .nan
  | .inf a, _ => .inf a
  | _, .inf b => .inf b
  | .fin a n d, .fin b m e =>
    if n = 0 ∧ m = 0 then .fin (a && b) 0 1
    else
      let x : Int := (if a then -(n * e : Int) else (n * e : Int)) + (if b then -(m * d : Int) else (m * d : Int))
      .fin (decide (x < 0)) x.natAbs (d * e)

/-- The exact difference. -/
def Val.sub (x y : Val) : Val := x.add y.neg

/-- The exact product, with the exclusive OR of the signs (R92); 0 × ∞ is a NaN (R117). -/
def Val.mul : Val → Val → Val
  | .nan, _ | _, .nan => .nan
  | .inf a, .inf b => .inf (a != b)
  | .inf a, .fin b m _ => if m = 0 then .nan else .inf (a != b)
  | .fin a n _, .inf b => if n = 0 then .nan else .inf (a != b)
  | .fin a n d, .fin b m e => .fin (a != b) (n * m) (d * e)

/-- The exact quotient, with the exclusive OR of the signs (R92); 0 / 0 and ∞ / ∞ are NaNs. -/
def Val.div : Val → Val → Val
  | .nan, _ | _, .nan => .nan
  | .inf _, .inf _ => .nan
  | .inf a, .fin b _ _ => .inf (a != b)
  | .fin a _ _, .inf b => .fin (a != b) 0 1
  | .fin a n d, .fin b m e =>
    if m = 0 then (if n = 0 then .nan else .inf (a != b)) else .fin (a != b) (n * e) (d * m)

/-- The value as an integer fraction's comparison: x < y, false where either is a NaN. -/
def Val.lt : Val → Val → Bool
  | .nan, _ | _, .nan => false
  | .inf a, .inf b => a && !b
  | .inf a, _ => a
  | _, .inf b => !b
  | .fin a n d, .fin b m e =>
    decide ((if a then -(n * e : Int) else (n * e : Int)) < (if b then -(m * d : Int) else (m * d : Int)))

/-- Equal values; the two zeros are equal and a NaN equals nothing. -/
def Val.eq : Val → Val → Bool
  | .nan, _ | _, .nan => false
  | .inf a, .inf b => a == b
  | .inf _, _ | _, .inf _ => false
  | .fin a n d, .fin b m e =>
    decide ((if a then -(n * e : Int) else (n * e : Int)) = (if b then -(m * d : Int) else (m * d : Int)))

/-- The larger value; a NaN where either is one, and MAX(−0, +0) = +0 (R113). -/
def Val.max (x y : Val) : Val :=
  if x.isNan || y.isNan then .nan
  else if x.lt y then y
  else if y.lt x then x
  else match x with
    | .fin true 0 _ => y
    | _ => x

/-- The smaller value; a NaN where either is one, and MIN(−0, +0) = −0 (R113). -/
def Val.min (x y : Val) : Val :=
  if x.isNan || y.isNan then .nan
  else if x.lt y then x
  else if y.lt x then y
  else match x with
    | .fin false 0 _ => y
    | _ => x

/-- The fields and limits of a floating-point format (R84): fraction bits, exponent bits, bias, and
whether it holds infinities and NaNs as IEEE formats do. -/
structure FloatSpec where
  ebits : Nat
  fbits : Nat
  bias : Nat
  ieee : Bool
  deriving DecidableEq, Repr

/-- The floating-point formats with a sign, an exponent and a fraction (R84), and UE4M3 (R87), which is
E4M3 without its sign. -/
def Fmt.float? : Fmt → Option FloatSpec
  | .fp32 => some ⟨8, 23, 127, true⟩
  | .bf16 => some ⟨8, 7, 127, true⟩
  | .fp16 => some ⟨5, 10, 15, true⟩
  | .e4m3 | .ue4m3 => some ⟨4, 3, 7, false⟩
  | .e5m2 => some ⟨5, 2, 15, true⟩
  | .e3m2 => some ⟨3, 2, 3, false⟩
  | .e2m3 => some ⟨2, 3, 1, false⟩
  | .e2m1 => some ⟨2, 1, 1, false⟩
  | _ => none

/-- The largest finite magnitude of a float format (R84): a numerator over 1 or over the power it needs. -/
def Fmt.maxMag (f : Fmt) : Val :=
  match f with
  | .fp32 => .dyadic false (2 ^ 24 - 1) 104
  | .bf16 => .dyadic false (2 ^ 8 - 1) 120
  | .fp16 => .fin false 65504 1
  | .e4m3 | .ue4m3 => .fin false 448 1
  | .e5m2 => .fin false 57344 1
  | .e3m2 => .fin false 28 1
  | .e2m3 => .fin false 15 2
  | .e2m1 => .fin false 6 1
  | .e1m1 => .fin false 3 1
  | .int8 => .fin false 127 1
  | .int4 => .fin false 7 1
  | .int3 => .fin false 3 1
  | .uint8 => .fin false 255 1
  | .t2 => .fin false 1 1
  | .e8m0 => .dyadic false 1 127
  | .int32 => .fin false (2 ^ 31 - 1) 1

/-- The exponent emax of the block scale rule (R106). -/
def Fmt.emax : Fmt → Int
  | .e4m3 => 8 | .e5m2 => 15 | .e3m2 => 4 | .e2m3 => 2 | .e2m1 => 2 | .e1m1 => 1
  | .int8 => 6 | .int4 => 2 | .int3 => 1 | .t2 => 0 | _ => 0

/-- The value a code reads as, subnormals read as zeros of their sign (R84 to R87, R91). -/
def Fmt.decode (f : Fmt) (c : Nat) : Val :=
  match f with
  | .e1m1 =>
    let m := c % 4
    .fin (c / 4 % 2 == 1) (if m < 2 then m else m) 1
  | .int32 => .ofInt (signed 32 c)
  | .int8 => .ofInt (signed 8 c)
  | .int4 => .ofInt (signed 4 c)
  | .int3 => .ofInt (signed 3 c)
  | .uint8 => .fin false (c % 256) 1
  | .t2 => match c % 4 with
    | 1 => .fin false 1 1
    | 3 => .fin true 1 1
    | _ => .fin false 0 1
  | .e8m0 => if c % 256 = 255 then .nan else .dyadic false 1 ((c % 256 : Nat) - 127)
  | .ue4m3 =>
    let x := c % 256
    if x / 128 = 1 ∨ x = 0x7F then .nan
    else if x < 8 then .fin false 0 1
    else .dyadic false (8 + x % 8) ((x / 8 : Nat) - 10)
  | g =>
    match g.float? with
    | none => .nan
    | some p =>
      let s := c / 2 ^ (p.ebits + p.fbits) % 2 == 1
      let e := c / 2 ^ p.fbits % 2 ^ p.ebits
      let m := c % 2 ^ p.fbits
      if p.ieee && e == 2 ^ p.ebits - 1 then (if m = 0 then .inf s else .nan)
      else if g == .e4m3 && e == 15 && m == 7 then .nan
      else if e = 0 then .fin s 0 1
      else .dyadic s (2 ^ p.fbits + m) ((e : Int) - p.bias - p.fbits)

/-- ⌊log2 (n / d)⌋ of a positive fraction. -/
def floorLog2 (n d : Nat) : Int :=
  let g : Int := (Nat.log2 n : Int) - (Nat.log2 d : Int)
  if 0 ≤ g then (if d * 2 ^ g.toNat ≤ n then g else g - 1)
  else (if d ≤ n * 2 ^ (-g).toNat then g else g - 1)

/-- The rounding modes of R99; a stochastic rounding carries its random word (R100). -/
inductive Rnd where
  | nearest
  | stochastic (r : Nat)
  | odd
  deriving DecidableEq, Repr

/-- The integer a fraction n / d rounds to: nearest with ties to even or away from zero (R99),
stochastic (R100), or to odd (R101). -/
def Rnd.int (m : Rnd) (tiesAway : Bool) (n d : Nat) : Nat :=
  let q := n / d
  let r := n % d
  if r = 0 then q
  else match m with
    | .nearest =>
      if d < 2 * r then q + 1
      else if 2 * r = d then (if tiesAway || q % 2 == 1 then q + 1 else q)
      else q
    | .stochastic w => if 65536 * r / d + w < 65536 then q else q + 1
    | .odd => if q % 2 = 0 then q + 1 else q

/-- n / d over 2^e, as a fraction. -/
def overPow2 (n d : Nat) (e : Int) : Nat × Nat :=
  if 0 ≤ e then (n, d * 2 ^ e.toNat) else (n * 2 ^ (-e).toNat, d)

/-- A positive fraction rounded to fbits fraction bits with no lower bound on the exponent (R92 stage 1):
the significand and the exponent of its least significant bit. Rounding to odd leaves a magnitude that
truncates to the largest of the format as it is (R101). -/
def roundSig (m : Rnd) (fbits : Nat) (top : Val) (n d : Nat) : Nat × Int :=
  let e := floorLog2 n d - fbits
  let p := overPow2 n d e
  let q := p.1 / p.2
  if m = .odd ∧ (Val.dyadic false q e).eq top = true then (q, e)
  else (m.int false p.1 p.2, e)

/-- What a conversion writes and what it counts (R102, R103, R110). -/
structure Conv where
  code : Nat
  sat : Bool := false
  inf : Bool := false
  flush : Bool := false
  nanLost : Bool := false
  nonfinite : Bool := false
  deriving DecidableEq, Repr

/-- The code of an exactly held magnitude k × 2^e of a float format. -/
def FloatSpec.pack (p : FloatSpec) (neg : Bool) (k : Nat) (e : Int) : Nat :=
  let k' := if k = 2 ^ (p.fbits + 1) then 2 ^ p.fbits else k
  let e' := if k = 2 ^ (p.fbits + 1) then e + 1 else e
  let x := (e' + p.fbits + p.bias).toNat
  (if neg then 2 ^ (p.ebits + p.fbits) else 0) + x * 2 ^ p.fbits + (k' - 2 ^ p.fbits)

/-- The code of the largest finite value of a format, with a sign (R84, R102). -/
def Fmt.maxCode (f : Fmt) (neg : Bool) : Nat :=
  match f with
  | .fp32 => if neg then 0xFF7FFFFF else 0x7F7FFFFF
  | .bf16 => if neg then 0xFF7F else 0x7F7F
  | .fp16 => if neg then 0xFBFF else 0x7BFF
  | .e4m3 => if neg then 0xFE else 0x7E
  | .e5m2 => if neg then 0xFB else 0x7B
  | .e3m2 | .e2m3 => if neg then 0x3F else 0x1F
  | .e2m1 => if neg then 0xF else 0x7
  | .e1m1 => if neg then 0x7 else 0x3
  | .int32 => if neg then 0x80000000 else 0x7FFFFFFF
  | .int8 => if neg then 0x80 else 0x7F
  | .int4 => if neg then 0x8 else 0x7
  | .int3 => if neg then 0x4 else 0x3
  | .uint8 => if neg then 0 else 0xFF
  | .t2 => if neg then 0x3 else 0x1
  | .e8m0 => 0xFE
  | .ue4m3 => if neg then 0 else 0x7E

/-- The canonical NaN of a format that has one (R84, R87). -/
def Fmt.nanCode : Fmt → Option Nat
  | .fp32 => some 0x7FC00000 | .bf16 => some 0x7FC0 | .fp16 => some 0x7E00
  | .e4m3 => some 0x7F | .e5m2 => some 0x7E | .e8m0 => some 0xFF | .ue4m3 => some 0x7F
  | _ => none

/-- The infinity of a format that has one (R84). -/
def Fmt.infCode : Fmt → Bool → Option Nat
  | .fp32, s => some (if s then 0xFF800000 else 0x7F800000)
  | .bf16, s => some (if s then 0xFF80 else 0x7F80)
  | .fp16, s => some (if s then 0xFC00 else 0x7C00)
  | .e5m2, s => some (if s then 0xFC else 0x7C)
  | _, _ => none

/-- The code of a zero with a sign; integer formats and scales have no negative zero (R86). -/
def Fmt.zeroCode (f : Fmt) (neg : Bool) : Nat :=
  match f with
  | .e1m1 => if neg then 4 else 0
  | .ue4m3 => 0
  | g => match g.float? with
    | some p => if neg then 2 ^ (p.ebits + p.fbits) else 0
    | none => 0

/-- The integer range of an integer format (R86). -/
def Fmt.intRange? : Fmt → Option (Int × Int)
  | .int32 => some (-(2 ^ 31), 2 ^ 31 - 1)
  | .int8 => some (-128, 127)
  | .int4 => some (-8, 7)
  | .int3 => some (-4, 3)
  | .uint8 => some (0, 255)
  | .t2 => some (-1, 1)
  | _ => none

/-- A finite value converted to an integer format: rounded with ties away from zero, then saturated
(R99, R102). Rounding to odd does not increase a magnitude that already stands at the target's largest, which the
lower end 0 of an unsigned range is not (R101). -/
def Fmt.convInt (f : Fmt) (lo hi : Int) (m : Rnd) (neg : Bool) (n d : Nat) : Conv :=
  let t := n / d
  let atTop := decide (m = .odd) && (if neg then decide (lo ≠ 0) && decide (-(t : Int) = lo) else decide ((t : Int) = hi))
  let k := if atTop then t else m.int true n d
  let x : Int := if neg then -(k : Int) else k
  let y := clampInt lo hi x
  { code := (y % (2 ^ f.bits : Nat)).toNat, sat := decide (x ≠ y) }

/-- A finite value converted to E8M0: the exponent of its magnitude (R105). -/
def convE8M0 (n d : Nat) : Conv :=
  if n = 0 then { code := 0 } else { code := (clampInt 0 254 (floorLog2 n d + 127)).toNat }

/-- A finite value converted to E1M1: rounded directly to 0, ±1, ±2, ±3, ties to the code whose mantissa
bit is 0 (R92, R99). -/
def convE1M1 (m : Rnd) (neg : Bool) (n d : Nat) : Conv :=
  let t := n / d
  let k := if m = .odd ∧ t = 3 then t else m.int false n d
  { code := (if neg then 4 else 0) + (if 3 < k then 3 else k), sat := decide (3 < k) }

/-- The formats with an IEEE overflow mode (R102). -/
def Fmt.ieee (f : Fmt) : Bool := f == .fp32 || f == .bf16 || f == .fp16

/-- A finite value converted to a float format: rounded, then overflow by the mode (R102), then the flush
(R92). ieee is OVF = 1. -/
def Fmt.convFloat (f : Fmt) (p : FloatSpec) (m : Rnd) (ieee : Bool) (neg : Bool) (n d : Nat) : Conv :=
  if n = 0 then { code := f.zeroCode neg }
  else
    let r := roundSig m p.fbits f.maxMag n d
    let v := Val.dyadic false r.1 r.2
    if f.maxMag.lt v then
      match (if ieee && f.ieee then f.infCode neg else none) with
      | some c => { code := c, inf := true }
      | none => { code := f.maxCode neg, sat := true }
    else if f = .ue4m3 ∧ neg = true then { code := 0, sat := true }
    else if v.lt (Val.dyadic false 1 (1 - (p.bias : Int))) then { code := f.zeroCode neg, flush := true }
    else { code := p.pack neg r.1 r.2 }

/-- A value converted to a format under a rounding mode and an overflow mode (R92, R99 to R103, R105). -/
def Fmt.conv (f : Fmt) (m : Rnd) (ieee : Bool) (v : Val) : Conv :=
  match v with
  | .nan =>
    match f.nanCode with
    | some c => { code := c }
    | none => { code := 0, nanLost := true, nonfinite := true }
  | .inf s =>
    match f.infCode s with
    | some c => { code := c }
    | none => { code := f.maxCode s, sat := true, nonfinite := true }
  | .fin s n d =>
    match f with
    | .e8m0 => convE8M0 n d
    | .e1m1 => convE1M1 m s n d
    | g => match g.intRange? with
      | some r => g.convInt r.1 r.2 m s n d
      | none => match g.float? with
        | some p => g.convFloat p m ieee s n d
        | none => { code := 0 }

/-- A value rounded to FP32 to nearest even with IEEE overflow, the rule of every step that names no
other (R95, R123, R195). -/
def f32 (v : Val) : Word32 := BitVec.ofNat 32 (Fmt.conv .fp32 .nearest true v).code

/-- The value of an FP32 code, subnormals read as zero (R91). -/
def Val.of32 (w : Word32) : Val := Fmt.fp32.decode w.toNat

/-- The FP32 code of a copy of w after R91, NaNs in canonical form (R104). -/
def flush32 (w : Word32) : Word32 := f32 (Val.of32 w)

/-- a + b in FP32, nearest even. -/
def fadd (a b : Word32) : Word32 := f32 ((Val.of32 a).add (Val.of32 b))
/-- a − b in FP32, nearest even. -/
def fsub (a b : Word32) : Word32 := f32 ((Val.of32 a).sub (Val.of32 b))
/-- a × b in FP32, nearest even. -/
def fmul (a b : Word32) : Word32 := f32 ((Val.of32 a).mul (Val.of32 b))
/-- a / b in FP32, nearest even. -/
def fdiv (a b : Word32) : Word32 := f32 ((Val.of32 a).div (Val.of32 b))
/-- A natural number converted to FP32, nearest even. -/
def fofNat (n : Nat) : Word32 := f32 (.fin false n 1)
/-- FP32 1.0. -/
def fone : Word32 := 0x3F800000
/-- The canonical FP32 NaN (R84). -/
def fnan : Word32 := 0x7FC00000

/-- Whether an FP32 code is a NaN or an infinity. -/
def fnonfinite (w : Word32) : Bool := (Val.of32 w).nonfinite

end Sys2Proof
end

