-- ==== Sys2Proof/Machine/StateDie.lean ====
section
/-! DEFINITION. The state of a compute die: its domains, array, vector units, movers, memories and status
blocks, and the context it keeps for each resident tun (chapters 01 to 07, and the update engine of 08). -/

namespace Sys2Proof.Machine

/-- The power state of a domain (R395). -/
inductive Power where
  | on | clockGated | powerGated
  deriving DecidableEq, Repr

/-- A demand to gate a domain that its keeper holds (R27, R48). -/
inductive GateReq where
  | release | clock | power
  deriving DecidableEq, Repr

/-- A domain keeper (R25 to R27, R395). A domain that is fenced or held by a stop reads as HELD. -/
structure Keeper where
  power : Power := .on
  waking : Bool := false
  fenced : Bool := false
  stopHeld : Bool := false
  gateReq : Option GateReq := none
  /-- the state before the emergency stop, restored by its release (R403) -/
  preStop : Power := .on
  deriving DecidableEq, Repr

/-- A ready token (R40). -/
inductive Tok where
  | empty | pending | present
  deriving DecidableEq, Repr

/-- One loop level (R33): open or closed, its counter, and its head. -/
structure Loop where
  isOpen : Bool := false
  count : Nat := 0
  head : Nat := 0
  deriving DecidableEq, Repr

/-- The seal record (R47). -/
structure SealRecord where
  next : Nat := 0
  loops : Tbl Loop := []
  rep : Nat := 0
  awake : List Nat := []
  issue : Nat := 0
  deriving DecidableEq, Repr

/-- The stall block (R50); CDS_SLICE_DEBT is debt. -/
structure Stall where
  fetch : Nat := 0
  wake : Nat := 0
  sealed : Nat := 0
  slip : Nat := 0
  src : Nat := 0
  dst : Nat := 0
  remote : Nat := 0
  array : Nat := 0
  mover : Nat := 0
  cellar : Nat := 0
  hubCr : Nat := 0
  ringCr : Nat := 0
  issued : Nat := 0
  debt : Nat := 0
  switchCycles : Nat := 0
  deriving DecidableEq, Repr

/-- The numeric status block (R110). -/
structure NumStat where
  elems : Nat := 0
  sat : Nat := 0
  inf : Nat := 0
  flush : Nat := 0
  nanLost : Nat := 0
  intSat : Nat := 0
  stepNonfinite : Bool := false
  genPosition : Nat := 0
  deriving DecidableEq, Repr

/-- The vector status block (R130). -/
structure VecStat where
  rows : Nat := 0
  stallBusy : Nat := 0
  portWait : Nat := 0
  invalid : Nat := 0
  divZero : Nat := 0
  intSat : Nat := 0
  smEmpty : Nat := 0
  smInf : Nat := 0
  smNan : Nat := 0
  deriving DecidableEq, Repr

/-- The narrow arithmetic status block (R151). -/
structure NarrowStat where
  recomputes : Nat := 0
  over2 : Nat := 0
  scaleLow : Nat := 0
  scaleHigh : Nat := 0
  recomputeCycles : Nat := 0
  zpPasses : Nat := 0
  silentEvents : Nat := 0
  deriving DecidableEq, Repr

/-- A statistics slot (R133). STAT_CURRENT is (valid < 16). -/
structure StatSlot where
  amax : Word32 := 0
  hmax : Word32 := 0
  valid : Nat := 0
  head : Nat := 0
  nan : Bool := false
  pushed : Bool := false
  prevValid : Nat := 0
  overs : Nat := 0
  over2 : Nat := 0
  under : Nat := 0
  disp0 : Word32 := 0
  disp1 : Word32 := 0
  hist : Tbl Word32 := []
  deriving DecidableEq, Repr

/-- A watch record (R148). -/
structure Watch where
  run : Nat := 0
  seen : Bool := false
  live : Bool := false
  raised : Bool := false
  deriving DecidableEq, Repr

/-- The step record (R188). -/
structure StepRecord where
  t : Nat := 0
  eta : Word32 := 0
  lsScale : Word32 := 0x3F800000
  lsInv : Word32 := 0x3F800000
  k : Nat := 1
  attempt : Nat := 0
  prevNf : Bool := false
  lsClean : Nat := 0
  deriving DecidableEq, Repr

/-- A reduced gradient segment for the update engine (R190 to R192, R203): elements widened to FP32, from
element first of the tensor on, or, in the row form of an embedding, for the rows named. -/
structure GradSegment where
  tensor : Nat
  first : Nat
  rows : List Nat := []
  elems : List Word32
  nonfinite : Bool := false
  /-- the last segment of a row-form result -/
  last : Bool := false
  deriving DecidableEq, Repr

/-- One side of a factor slot pair (R198): its header and its row and column factors. -/
structure FactorSlot where
  fbar : Word32 := 0
  folds : Nat := 0
  fr : Tbl Word32 := []
  fc : Tbl Word32 := []
  deriving DecidableEq, Repr

/-- The factor slots and sum buffers of an M entry on a die (R198 to R200). -/
structure Factors where
  even : FactorSlot := {}
  odd : FactorSlot := {}
  rowSum : Tbl Word32 := []
  colSum : Tbl Word32 := []
  total : Word32 := 0
  folded : Bool := false
  flushed : Bool := false
  deriving DecidableEq, Repr

/-- A bucket on a die in the current step (R193). -/
structure Bucket where
  armed : Bool := false
  closed : Bool := false
  deriving DecidableEq, Repr

/-- The update status block (R221) with UPD_RACK_HOLD (R282). -/
structure UpdStat where
  blocks : Nat := 0
  records : Nat := 0
  frozenElems : Nat := 0
  freezeCopies : Nat := 0
  nfSegments : Nat := 0
  nfResults : Nat := 0
  clipped : Nat := 0
  orderWait : Nat := 0
  stallBlocks : Nat := 0
  regenBytes : Nat := 0
  granaryBytes : Nat := 0
  rackHold : Nat := 0
  deriving DecidableEq, Repr

/-- The racking coder of a die for a tun (R259 to R262): the open segment and the next numbers. -/
structure Coder where
  isOpen : Bool := false
  entry : Nat := 0
  first : Nat := 0
  count : Nat := 0
  payload : Bytes := []
  seqData : Nat := 0
  deriving DecidableEq, Repr

/-- A granary page on its way to the host (R176): its host address and ciphertext, and its tag record and where it goes. -/
structure PageOut where
  host : Nat
  page : Bytes
  tagAt : Nat
  tag : BitVec 256
  deriving DecidableEq, Repr

/-- A segment of a granary entry being forwarded (R214): the keys of its blocks, its payload bytes and its pages. -/
structure Forward where
  keys : List Nat
  bytes : Nat
  posted : List PageOut
  deriving DecidableEq, Repr

/-- What a die keeps of a tun in loft and its update engine (R148, R189, R193, R198): the update table,
the buckets and blocks of the step, the staged segments, the factor slots and the racking coder. -/
structure UpdCtx where
  table : Tbl (BitVec 512) := []
  buckets : Tbl Bucket := []
  /-- blocks in flight: entry × 2^32 + block, with the bytes to write -/
  inFlight : Tbl Bytes := []
  /-- blocks updated or discarded in the step: entry × 2^32 + block -/
  done : List Nat := []
  staged : List GradSegment := []
  /-- staged segments of which some blocks have been taken, with the keys of those (R191) -/
  begun : List (GradSegment × List Nat) := []
  /-- last segments of row-form results taken, by entry (R203, R237) -/
  lasts : Tbl Nat := []
  /-- segments of granary entries on their way to host memory, oldest first (R214) -/
  forwards : List Forward := []
  watch : Tbl Watch := []
  /-- the column sums of the last regeneration read of an entry with UT_ZP: by entry, chunk × 2^32 + column (R206) -/
  colSums : Tbl (Tbl Int) := []
  factors : Tbl Factors := []
  /-- entries whose freezing copy is still to be made (R205) -/
  toFreeze : List Nat := []
  coder : Coder := {}
  stat : UpdStat := {}
  deriving DecidableEq, Repr

/-- The context of a resident tun on a die (chapter 02). -/
structure Ctx where
  resident : Bool := false
  stopped : Bool := false
  halted : Bool := false
  /-- a step end has issued and the step outcome has not arrived (R187) -/
  hold : Bool := false
  stream : Tbl Slice := []
  streamLen : Nat := 0
  stepStart : Nat := 0
  pc : Nat := 0
  /-- repetitions still to issue of the repeat slice at pc; 0 where none is begun -/
  rep : Nat := 0
  loops : Tbl Loop := []
  fetchWait : Nat := 0
  loopCounts : Tbl Nat := []
  loopCountsNext : Tbl Nat := []
  tokens : Tbl Tok := []
  /-- the tokens the last slice to issue consumed, and the cycle after its issue (R42) -/
  consumed : List Nat := []
  consumedAt : Nat := 0
  windows : Tbl (BitVec 128) := []
  descs : Tbl (BitVec 512) := []
  masks : Tbl Nat := []
  /-- credits of the remote windows of the cross-die table, by die × 1,024 + window; listed false when spent -/
  crossDie : List Nat := []
  spent : List Nat := []
  /-- who last wrote each window from outside the die, and is owed a credit at its consume: die 0–7, or 8
  for the hub -/
  owed : Tbl Nat := []
  /-- consumed windows whose credit is on its way back to the writer -/
  returning : List Nat := []
  issue : Nat := 0
  peers : Tbl Nat := []
  sinceSeal : Nat := 0
  sealRec : SealRecord := {}
  arrives : Nat := 0
  passed : Nat := 0
  spoil : Bool := false
  /-- the context is rebuilt from the job image before the replay (R170) -/
  rebuild : Bool := false
  /-- the step close of the current attempt has issued -/
  closed : Bool := false
  refused : Nat := 0
  stall : Stall := {}
  genKey : Nat := 0
  genPos : Nat := 0
  num : NumStat := {}
  vec : VecStat := {}
  narrow : NarrowStat := {}
  stats : Tbl StatSlot := []
  stepRec : StepRecord := {}
  upd : UpdCtx := {}
  deriving DecidableEq, Repr

/-- The states of an accumulator bank (R63). -/
inductive BankState where
  | zero | preloaded | accumulating | holding | draining
  deriving DecidableEq, Repr

/-- The class of values a bank holds (R58). -/
inductive AccClass where
  | fp | int
  deriving DecidableEq, Repr

/-- An accumulator bank (R57, R63): accumulator (row, column) is the listed entry of 512 × row + column,
or the base value of its column. -/
structure Bank where
  state : BankState := .zero
  cls : Option AccClass := none
  base : Tbl Word32 := []
  acc : Tbl Word32 := []
  /-- the pass end of the last pass since the bank was ZERO -/
  passEnd : Option Nat := none
  amaxSlot : Option Nat := none
  /-- the cycle in which a drain's last row is read -/
  lastRead : Nat := 0
  deriving DecidableEq, Repr

/-- A replay log entry (R77): the array and ACC_SRC vector fields and the generator position taken. -/
structure LogEntry where
  array : BitVec 96
  vec0 : BitVec 64
  vec1 : BitVec 64
  genPos : Nat
  genPos0 : Nat := 0
  genPos1 : Nat := 0
  /-- the tun's issue count at its issue, which orders the log -/
  seq : Nat := 0
  deriving DecidableEq, Repr

/-- Counter increments of a vector operation, added when it completes. -/
structure VecDelta where
  elems : Nat := 0
  sat : Nat := 0
  inf : Nat := 0
  flush : Nat := 0
  nanLost : Nat := 0
  nonfinite : Bool := false
  rows : Nat := 0
  invalid : Nat := 0
  divZero : Nat := 0
  intSat : Nat := 0
  smEmpty : Nat := 0
  smInf : Nat := 0
  smNan : Nat := 0
  deriving DecidableEq, Repr

/-- An open tile (R76, R77, R137 to R142). -/
structure Tile where
  id : Nat := 0
  tun : Nat
  bank : Nat
  log : List LogEntry := []
  held : List Nat := []
  /-- windows consumed while held, whose credits return at the close -/
  owedWins : List Nat := []
  delayed : Bool := false
  scaleHigh : Option Nat := none
  recomputed : Bool := false
  /-- the exponent D of a delayed drain, once drained -/
  expD : Int := 0
  fmt : Nat := 0
  slot : Option Nat := none
  amax : Word32 := 0
  amaxNan : Bool := false
  drained : Bool := false
  lastRead : Bool := false
  /-- tokens set at the close: DST windows of the units that are done, and, of a delayed tile, all of them with the scale
  companions -/
  dst : List Nat := []
  /-- scale bytes written at the close, by local address -/
  scaleWrites : List (Nat × Bytes) := []
  /-- drain operations whose rows are still to be written -/
  unitsLeft : Nat := 0
  /-- the cycle after the last row is written (R138) -/
  zCycle : Nat := 0
  /-- conversion counts of a delayed drain, added at its close (R141) -/
  delta : VecDelta := {}
  deriving DecidableEq, Repr

/-- A max-abs on its way to a statistics slot (R134, R135). -/
structure Fold where
  slot : Nat
  amax : Word32
  nan : Bool
  deriving DecidableEq, Repr

/-- A vector operation in flight (R115, R116). -/
structure VecJob where
  tun : Nat
  op : Nat
  unit : Nat := 0
  /-- the memory domains its windows lie in (R25) -/
  doms : List Nat := []
  /-- the tile a drain delivers, by its id -/
  drain : Option Nat := none
  writes : List (Nat × Bytes) := []
  /-- tokens set at completion; those of a delayed drain are its tile's -/
  dst : List Nat := []
  delta : VecDelta := {}
  folds : List Fold := []
  /-- the cycle in which its last row begins -/
  lastBegin : Nat
  /-- the cycles it spends on a row -/
  rowCycles : Nat
  /-- the cycle after its last row is written -/
  doneAt : Nat
  /-- abandoned by an emergency stop: completes void (R403) -/
  void : Bool := false
  deriving DecidableEq, Repr

/-- An outstanding mover launch (R49, R160). -/
structure MovJob where
  tun : Nat
  slot : Nat
  mover : Nat
  desc : BitVec 512
  /-- the step in which it was launched -/
  step : Nat := 0
  void : Bool := false
  /-- the domains it uses beside its mover's (R41) -/
  doms : List Nat := []
  /-- MOV_OP 0b10: slots of the earlier launches on the mover still to complete -/
  after : List Nat := []
  /-- elements of a contribution piece taken into hub staging memory (R229, R230) -/
  taken : Nat := 0
  /-- the remote window has its data and token -/
  delivered : Bool := false
  /-- the pages of a granary write are out and the zero-length read is behind them (R177) -/
  pagesOut : Bool := false
  /-- those pages: posted, and not yet known to stand in host memory -/
  posted : List PageOut := []
  /-- pages of a granary read whose read has gone out; the others are held at the bound (R161) -/
  sent : List Nat := []
  /-- pages of a granary read that have returned, by page index -/
  pages : Tbl Bytes := []
  deriving DecidableEq, Repr

/-- The array status block (R82). -/
structure ArrStat where
  presented : Nat := 0x80
  sparesFree : Nat := 4
  fenced : Bool := false
  passes : Nat := 0
  discards : Nat := 0
  residueFaults : Nat := 0
  transients : Nat := 0
  replays : Nat := 0
  replayCycles : Nat := 0
  lastCol : Nat := 0
  lastRow : Nat := 0
  lastPerm : Bool := false
  deriving DecidableEq, Repr

/-- A column fault being handled (R78). -/
structure ColFault where
  col : Nat
  tun : Nat
  stoppedAt : Nat
  /-- the device's time at the stop, in ps -/
  stoppedPs : Nat := 0
  /-- the spare under test, once the column is bypassed -/
  spare : Option Nat := none
  deriving DecidableEq, Repr

/-- The memory status block (R180); the parity group's state and percentage are the group's. -/
structure MemStat where
  spCe : Nat := 0
  spUe : Nat := 0
  loftCe : Nat := 0
  loftUe : Nat := 0
  cellarCe : Nat := 0
  cellarUe : Nat := 0
  reconstructs : Nat := 0
  degradedReads : Nat := 0
  stripeFills : Nat := 0
  rebuiltStripes : Nat := 0
  failedCi : Nat := 0x3F
  rebuildShare : Nat := 2
  lastUeAddr : Nat := 0
  deriving DecidableEq, Repr

/-- A row waiting for its repair copy at a seal point (R174), or a row with one corrected error (R169). -/
structure RowRepair where
  lvl : Nat
  unit : Nat
  row : Nat
  deriving DecidableEq, Repr

/-- The time-slice state of a die (R52 to R55, R81). Times are die cycles. -/
structure SliceState where
  /-- the tun that may issue, once its switch has ended -/
  cur : Option Nat := none
  switching : Bool := false
  /-- index in the plan of the running slice, or of the next one -/
  idx : Nat := 0
  start : Nat := 0
  nominalEnd : Nat := 0
  target : Nat := 0
  reached : Bool := false
  /-- the outgoing tun has stopped and the die is clock-gated until the next slice -/
  idle : Bool := true
  bushelAt : Nat := 0
  bushel : Nat := 0
  suspended : Bool := false
  deriving DecidableEq, Repr

/-- A compute die. -/
structure Die where
  keepers : Tbl Keeper := []
  cycle : Nat := 0
  /-- scratchpad and loft bytes, by local address (Windows.lean) -/
  mem : Mem := []
  ctxs : Tbl Ctx := []
  bank0 : Bank := {}
  bank1 : Bank := {}
  tiles : List Tile := []
  tileSeq : Nat := 0
  vec0 : List VecJob := []
  vec1 : List VecJob := []
  movs : List MovJob := []
  badMap : List Nat := []
  transients : Tbl Nat := []
  arr : ArrStat := {}
  colFaults : List ColFault := []
  memStat : MemStat := {}
  rowsQueued : List RowRepair := []
  /-- rows with one corrected error, and when it was, in ps -/
  ceSeen : List (RowRepair × Nat) := []
  /-- spare rows used, by level × 64 + bank (R174) -/
  sparesUsed : Tbl Nat := []
  /-- cellar row fences: interface position 0–5 and row (R174) -/
  rowFences : List (Nat × Nat) := []
  /-- open stripes of the parity assembler, oldest first: stripe, mask of written units (R166) -/
  stripes : List (Nat × Nat) := []
  slice : SliceState := {}
  /-- the loop buffer: the slices most recently fetched, by tun × 2^22 + address, newest first (R33) -/
  loopBuf : List Nat := []
  /-- consecutive cycles the gate failed on conditions 1, 3 or 6, and the domains gated while it did (R247) -/
  waiting : Nat := 0
  idleGated : List Nat := []
  /-- scrub positions (R169): next scratchpad line, line of each loft die, cellar unit -/
  scrubSp : Nat := 0
  scrubLoftA : Nat := 0
  scrubLoftB : Nat := 0
  scrubCellar : Nat := 0
  lost : Bool := false
  deriving DecidableEq, Repr

end Sys2Proof.Machine
end

