-- ==== Sys2Proof/Syntax.lean ====
section
/-! DEFINITION. The commands the block takes, one constructor for each row of the opcode table, and the plain
structures that stand for what a command brings from outside: a job image, a layout package, a flash copy, a
sensor reading. A command names the unit it acts on: a die, a tun, a MAC, a link, a keeper. -/

namespace Sys2Proof

/-- What a job image holds for one die: its stream and its context tables (R29, R33, R40, R43, R118, R155,
R159, R206, R210). -/
structure DieJob where
  stream : List Slice := []
  stepStart : Nat := 0
  windows : Tbl (BitVec 128) := []
  descs : Tbl (BitVec 512) := []
  masks : Tbl Nat := []
  loopCounts : Tbl Nat := []
  /-- tokens PRESENT in the step-start state -/
  present : List Nat := []
  /-- the cross-die table: die × 1,024 + window -/
  crossDie : List Nat := []
  /-- the cellar address of the quantisation table of an entry's tensor (R206) -/
  quant : Tbl Nat := []
  /-- the presented width the stream was compiled for (R73) -/
  width : Nat := 128
  deriving DecidableEq, Repr

/-- A signed job image as the hub manager reads it (chapters 02 to 14). -/
structure JobImage where
  /-- SHA3-512 of the image and of its job key (R367) -/
  digest : Bytes := []
  jobKey : Bytes := []
  /-- whether its ML-DSA-87 signature verifies under the job key -/
  sigOk : Bool := true
  feature : Nat := 0
  seed : Bytes := []
  /-- by rank: the tun on that device, and the digest of its identity certificate (R223) -/
  cluster : List (Nat × Bytes) := []
  groups : Tbl (BitVec 128) := []
  /-- the tensor table, by tensor id -/
  tensors : Tbl (BitVec 256) := []
  shards : List (BitVec 256) := []
  colls : Tbl (BitVec 256) := []
  dlvs : Tbl (BitVec 128) := []
  /-- update table entries by die × 16,384 + entry -/
  entries : Tbl (BitVec 512) := []
  coefs : Tbl (BitVec 512) := []
  /-- the schedule record; its reset values give SC_PERIOD_MULT and SC_PEAK_MULT 1.0 (R201) -/
  schedule : BitVec 512 := 0x3F8000003F80000000000000000000000000000000000000000000000000000000000000
  gravity : BitVec 512 := 0x3F7AE148000000000003200008000880
  limits : Option (BitVec 512) := none
  silentLimit : Nat := 256
  lossScaling : Bool := false
  caskPeriod : Nat := 4
  /-- the bound on the wall time between seal points is recorded (R55) -/
  sealedBound : Bool := false
  closedStatus : Bool := false
  macsec : Bool := false
  replayWindow : Nat := 0
  /-- the ends of pecks by which each destination is reached: a rank, or 64 + the endpoint of a receiver; an end is an endpoint
  index, or 256 + m for the peer of the direct link of MAC m (log entry 136) -/
  ends : Tbl (List Nat) := []
  /-- MACsec rekey interval in bushels (R375) -/
  rekey : Nat := 0
  /-- statistics slots declared unchanged, by die × 512 + slot (R250, R281) -/
  keepStats : List Nat := []
  dies : Tbl DieJob := []
  deriving DecidableEq, Repr

/-- An object of a restore list as its receiver serves it: the segment header and the ciphertext (R261). -/
structure RestoreObject where
  header : BitVec 512
  payload : Bytes
  deriving DecidableEq, Repr

/-- A layout package (R249): the new tables and streams, in the form of a job image, its rank map, and the tun's new layouts by new
rank. -/
structure LayoutPackage where
  job : JobImage
  rankMap : Tbl Nat := []
  layouts : Tbl (BitVec 1024) := []
  digest : Bytes := []
  sigOk : Bool := true
  deriving DecidableEq, Repr

/-- A failover delta (R306): the failed MAC by rank and index, and the peck entries, each with its MAC index,
that replace this device's. -/
structure Delta where
  rank : Nat
  mac : Nat
  pecks : List (Nat × BitVec 32)
  deriving DecidableEq, Repr

/-- A gauge plan (R291): its header, its endpoints and each MAC's pecks, by MAC index × 256 + peck. -/
structure GaugePlan where
  header : BitVec 160
  endpoints : List (BitVec 64)
  pecks : Tbl (BitVec 32) := []
  deltas : List Delta := []
  /-- the length its tap gives, in bytes -/
  bytes : Nat := 0
  deriving DecidableEq, Repr

/-- A copy of the Ninik image as the flash holds it (R353, R354): its header, its records and its signature, with what the signature checks
of R364 and R365 and the PUF find of it. What no record's body states byte by byte stands beside: the plan of a MAC_GAUGE record (R291), the
PTP domain and attributes (R288), and the hub die's feature levels (R322). -/
structure FlashCopy where
  /-- its header and its first record can be read, and so can the rest (R358, R356) -/
  readable : Bool := false
  whole : Bool := true
  header : Bytes := []
  records : Bytes := []
  signature : Bytes := []
  /-- what the ML-DSA-87 checks find: the endorsement, the copy's signature, and each firmware record's -/
  endorseOk : Bool := false
  signatureOk : Bool := false
  hubFwOk : Bool := false
  cdsFwOk : Bool := false
  /-- its helper data yields S (R358) -/
  pufOk : Bool := false
  gaugePlan : Option GaugePlan := none
  ptpDomain : Nat := 0
  /-- the attributes by which the image makes the device capable of being grandmaster: a data set in the order of comparison (R288) -/
  ptpOwn : Option (List Nat) := none
  hubFeature : Nat := 0
  hubMinDie : Nat := 0
  deriving DecidableEq, Repr

/-- How wide the CXL link trains (R334). -/
inductive CxlWidth where
  | x2 | x4 | x8
  deriving DecidableEq, Repr

/-- What the hardware tests and training of a start find (R71, R361). -/
structure StartFinds where
  selfTestOk : Bool := true
  /-- columns found bad, by die -/
  badColumns : Tbl (List Nat) := []
  /-- an array, vector or update fault the tests cannot repair, by die -/
  dieFaults : List Nat := []
  /-- lanes found bad: LNK_RP link × 2 + direction, group, lane -/
  badLanes : List (Nat × Nat × Nat) := []
  /-- dies that give no answer to discovery -/
  silent : List Nat := []
  /-- MACs whose port has trained by the start's end -/
  portsUp : List Nat := []
  /-- interfaces that do not train -/
  badInterfaces : List Nat := []
  testMode : Bool := false
  serial : Nat := 0
  /-- the hub manager's firmware faults (R356) -/
  fwFault : Bool := false
  /-- the 48 V input is lost: during the program of the start-begun record, between its two pages, or after it (R356, R357) -/
  lost : Option Bool := none
  deriving DecidableEq, Repr

/-- A vote's payload (R239): its bits, its step, and L and G of the gravity groups. -/
structure VoteData where
  spoiled : Bool := false
  nf : Bool := false
  step : Nat := 0
  grav : Tbl (Word32 × Word32) := []
  deriving DecidableEq, Repr

/-- A piece's sketch sums from another device (R238): its member index and die, column sums and total. -/
structure SketchPart where
  member : Nat
  die : Nat
  cols : List Word32
  total : Word32
  deriving DecidableEq, Repr

/-- A reading of the sensors (R393, R394, R411). -/
structure Sensors where
  inV : Nat := 4800
  inI : Nat := 0
  w1ms : Nat := 0
  w10ms : Nat := 0
  w1s : Nat := 0
  tCd : Nat := 0
  tHd : Nat := 0
  tCellar : Nat := 0
  energyMj : Nat := 0
  deriving DecidableEq, Repr

/-- Why a frame of a protected tun is faulty (R305): its ICV or the replay check fails, it names an SCI and an association number, or it
carries no SecTAG. -/
inductive SecFault where
  | icv | replay | sa (sci : BitVec 64) (an : BitVec 2) | untagged
  deriving DecidableEq, Repr

/-- Who acknowledges a segment or returns credits (R302): a rank, or the storage receiver at an endpoint. -/
inductive Peer where
  | rank (r : Fin 64) | receiver (ep : Fin 256)
  deriving DecidableEq, Repr

/-- Why a port fails, beside the timeouts of R302 (R306). -/
inductive PortFault where
  | blockLock | fec | localFault | remoteFault
  deriving DecidableEq, Repr

/-- Where an uncorrectable word was found (R170). -/
inductive UeSite where
  | scratchpad | loft | sketchCache | fetch | context | cellar | staging
  deriving DecidableEq, Repr

/-- Why an interface, port or clock failed. -/
inductive ClockLost where
  | reference | coreHd | coreDie (d : DieId)
  deriving DecidableEq, Repr

/-- The commands, one for each row of the opcode table. -/
inductive Instr where
  | nextSlice (d : DieId) | loopStart (d : DieId) | loopEnd (d : DieId) | repeatSlice (d : DieId) | jump (d : DieId)
  | stepEnd (d : DieId) | halt (d : DieId) | dieBarrierArrive (d : DieId) | dieBarrierWait (d : DieId)
  | generatorAdvance (d : DieId) | stepClose (d : DieId) | sealPoint (d : DieId)
  | pass (d : DieId) | preload (d : DieId) | drain (d : DieId)
  | passEnd (d : DieId) (b : Fin 2) | drainLastRowRead (d : DieId) (b : Fin 2)
  | add (d : DieId) (v : Fin 2) | sub (d : DieId) (v : Fin 2) | mul (d : DieId) (v : Fin 2) | max (d : DieId) (v : Fin 2)
  | min (d : DieId) (v : Fin 2) | abs (d : DieId) (v : Fin 2) | neg (d : DieId) (v : Fin 2) | copy (d : DieId) (v : Fin 2)
  | exp (d : DieId) (v : Fin 2) | log (d : DieId) (v : Fin 2) | recip (d : DieId) (v : Fin 2) | rsqrt (d : DieId) (v : Fin 2)
  | tanh (d : DieId) (v : Fin 2) | relu (d : DieId) (v : Fin 2) | gelu (d : DieId) (v : Fin 2) | silu (d : DieId) (v : Fin 2)
  | cmpLt (d : DieId) (v : Fin 2) | cmpLe (d : DieId) (v : Fin 2) | cmpEq (d : DieId) (v : Fin 2) | cmpNe (d : DieId) (v : Fin 2)
  | mand (d : DieId) (v : Fin 2) | mor (d : DieId) (v : Fin 2) | mnot (d : DieId) (v : Fin 2)
  | iadd (d : DieId) (v : Fin 2) | isub (d : DieId) (v : Fin 2) | imul (d : DieId) (v : Fin 2)
  | iotaCol (d : DieId) (v : Fin 2) | iotaRow (d : DieId) (v : Fin 2)
  | rsum (d : DieId) (v : Fin 2) | rmax (d : DieId) (v : Fin 2) | ramax (d : DieId) (v : Fin 2)
  | cvt (d : DieId) (v : Fin 2) | cvtBlk (d : DieId) (v : Fin 2) | cvtBlkS (d : DieId) (v : Fin 2) | cvtUnblk (d : DieId) (v : Fin 2)
  | epi (d : DieId) (v : Fin 2) | epiRelu (d : DieId) (v : Fin 2) | epiGelu (d : DieId) (v : Fin 2) | epiSilu (d : DieId) (v : Fin 2)
  | epia (d : DieId) (v : Fin 2) | epiaRelu (d : DieId) (v : Fin 2) | epiaGelu (d : DieId) (v : Fin 2) | epiaSilu (d : DieId) (v : Fin 2)
  | smInit (d : DieId) (v : Fin 2) | smStep (d : DieId) (v : Fin 2) | smRescale (d : DieId) (v : Fin 2) | smNorm (d : DieId) (v : Fin 2)
  | vectorOpDone (d : DieId) (v : Fin 2) | delayedDrainEnd (d : DieId) (b : Fin 2)
  | launch (d : DieId) (m : Fin 4) | launchAfter (d : DieId) (m : Fin 4)
  | moverCompletion (d : DieId) (u : TunId) (slot : Fin 512)
  | tokenCompletion (d : DieId) (u : TunId) (tok : Fin 4096) (remote : Bool)
  | granaryFlushReadReturn (d : DieId) (u : TunId) (slot : Fin 512)
  | granaryPageReadReturn (d : DieId) (u : TunId) (slot : Fin 512) (page : Nat) (ct : Bytes) (tagRec : BitVec 256) (error : Bool)
  | armBucket (d : DieId) | closeBucket (d : DieId) | flushSketchSums (d : DieId)
  | hintWakeClock (d : DieId) (h : Fin 2) | hintWakePower (d : DieId) (h : Fin 2) | hintRelease (d : DieId) (h : Fin 2)
  | domainWakeDone (k : KeeperId) | domainGateRequest (k : KeeperId) (power : Bool)
  | faultReport (owner : Fin 9) (unit : Fin 256) (cls : Fin 14) (u : Option TunId)
  | columnFault (d : DieId) (col : Fin 132) (row : Fin 128) | bBusParityError (d : DieId) (col : Fin 132)
  | aBusParityError (d : DieId) | columnTestDone (d : DieId) (col : Fin 132) (ok : Bool)
  | bushelStart (n : Nat) | sliceTargetReached (d : DieId) | switchDone (d : DieId) | sealedNominalEnd (d : DieId)
  | idleGate (d : DieId) | idlePowerGate (d : DieId)
  | dataFlit (l : LinkId) (dir : Fin 2) (g : Fin 16) (framing : BitVec 64) (payload : Bytes)
  | dataLastFlit (l : LinkId) (dir : Fin 2) (g : Fin 16) (framing : BitVec 64) (payload : Bytes)
  | idleFlit (l : LinkId) (dir : Fin 2) (g : Fin 16) (framing : BitVec 64)
  | tokenSetFlit (l : LinkId) (dir : Fin 2) (g : Fin 16) (framing : BitVec 64)
  | windowCreditReturn (l : LinkId) (dir : Fin 2) (g : Fin 16) (framing : BitVec 64) (wins : List (Fin 1024))
  | linkCreditReturn (l : LinkId) (dir : Fin 2) (g : Fin 16) (framing : BitVec 64)
  | memoryReadRequest (l : LinkId) (dir : Fin 2) (g : Fin 16) (framing : BitVec 64) (addr len : Nat)
  | memoryReadData (l : LinkId) (dir : Fin 2) (g : Fin 16) (framing : BitVec 64) (data : Bytes)
  | memoryWrite (l : LinkId) (dir : Fin 2) (g : Fin 16) (framing : BitVec 64) (addr : Nat) (data : Bytes)
  | stepOutcome (d : DieId) (u : TunId) (g : Fin 16) (framing : BitVec 64)
  | issueCount (l : LinkId) (dir : Fin 2) (g : Fin 16) (framing : BitVec 64) (count : Nat)
  | replayRequest (l : LinkId) (dir : Fin 2) (g : Fin 16) (framing : BitVec 64)
  | flitCrcError (l : LinkId) (dir : Fin 2) (g : Fin 16) (seq : BitVec 8)
  | controlFlit (l : LinkId) (dir : Fin 2) (copyA copyB : Bytes)
  | laneGroupFault (l : LinkId) (dir : Fin 2) (g : Fin 16)
  | laneTestDone (l : LinkId) (dir : Fin 2) (g : Fin 16) (bad : BitVec 74) (pausedNs : Nat)
  | discoverySeed (d : DieId) (c : Fin 8) | ringToken (d : DieId) (side : Fin 2) (h : Fin 8) | directSeedTimer
  | identityReport (d : DieId) (rec : BitVec 512) (nonce : Bytes)
  | segmentArrival (d : DieId) (u : TunId) (seg : Machine.GradSegment)
  | stagedSegmentResume (d : DieId) (u : TunId)
  | blockWriteAck (d : DieId) (u : TunId) (entry : Fin 16384) (block : Nat)
  | sketchSegmentReturn (d : DieId) (u : TunId) (entry : Fin 16384) (others : List SketchPart)
  | voteGive (u : TunId) | vote (m : MacId) (u : TunId) (src : Fin 64) (v : VoteData)
  | voteResult (m : Option MacId) (u : TunId) (v : VoteData)
  | voteTimeout (u : TunId) | bungDrive (u : TunId)
  | digestExchange (m : MacId) (u : TunId) (src : Fin 64) (step : Nat) (digest : Bytes)
  | hostCommitWord (u : TunId) (word : BitVec 256) | granaryTimeout (u : TunId)
  | segmentSlotTake (d : DieId) (u : TunId) (slot : Fin 512)
  | data (m : MacId) (header : BitVec 256) (payload : Bytes)
  | delivery (u : TunId) (rec : Fin 4096)
  | acknowledgement (m : MacId) (u : TunId) (src : Peer) (entry : BitVec 64)
  | segmentCredit (m : MacId) (u : TunId) (src : Peer) (entry : BitVec 32)
  | windowCredit (m : MacId) (u : TunId) (src : Fin 64) (entry : BitVec 32)
  | closeMarker (m : MacId) (u : TunId) (src : Fin 64) (bucket : BitVec 16) (nf : Bool) (segments : BitVec 32)
  | hello (m : MacId) (u : TunId) (src : Fin 64) (key : BitVec 64) | helloSend (m : MacId) (u : TunId)
  | portDown (m : MacId) (rank : Fin 64) (failed : MacId) (at' : Nat)
  | widthChange (m : MacId) (lanes : Fin 9)
  | restoreComplete (m : MacId) (u : TunId) (src : Fin 64)
  | padding (m : MacId) (u : TunId)
  | segmentResendTimeout (m : MacId) (u : TunId) (dest : Nat) (kind : Fin 4) (seq : Nat)
  | segmentPartialDrop (m : MacId) (u : TunId) (src : Fin 64) (kind : Fin 4) (seq : Nat)
  | reshardStep (u : TunId)
  | rackingCoderIdleClose (d : DieId) (u : TunId) | rackingBufferTake (d : DieId) (u : TunId)
  | commitSegmentSend (u : TunId) | caskPieceRead (d : DieId) (u : TunId)
  | powerLoss
  | rxFrameDiscard (m : MacId) (frame : Bytes) (fcsOk : Bool)
  | macsecFrameDiscard (m : MacId) (u : TunId) (why : SecFault) (len : Nat)
  | pause (m : MacId) (quanta : BitVec 16) | pfc (m : MacId) (quanta : Tbl (BitVec 16)) | pauseExpiry (m : MacId)
  | ptpSync (m : MacId) (dom : BitVec 8) (twoStep : Bool) (offset : Int) | ptpDelayResponse (m : MacId) (dom : BitVec 8) (delay : Nat)
  | ptpPeerDelay (m : MacId) (dom : BitVec 8) (delay : Nat) | ptpSyncLoss | holdoverExpiry
  | lldpReceive (m : MacId) (chassis port : Bytes) | lldpTransmit (m : MacId)
  | peckStart (m : MacId) (i : Fin 256) | peckLastFrameEnd (m : MacId)
  | sealedControlFrame (m : MacId) (u : TunId) | portFailure (m : MacId) (why : PortFault)
  | failoverDeltaApply (rank : Fin 64) (m : MacId)
  | shedStretchStart (m : MacId) (unit : Fin 256) | laneWake (m : MacId)
  | wakePatternMatch (m : MacId) (frame : Bytes) | macHalfClear (m : MacId) (w : BitVec 56)
  | hubTapBaseWrite (v : BitVec 64) | hubTapOnWrite (v : Bool) | hubStopAll (v : Bool) | hubDoorbell (t : Fin 1024) (entry : BitVec 1024)
  | cxlLinkReset | cxlLinkUp (table : Tbl (BitVec 1024)) (width : CxlWidth) (half skid : Bool)
  | tapSnoop (t : Fin 1024) (entry : BitVec 1024) | tapTornTimeout (t : Fin 1024)
  | inputRecord (u : TunId) (rec : BitVec 512) | outputRecord (u : TunId)
  | ringIndexAdvance (t : Fin 1024) (area : Fin 2) (idx : BitVec 64)
  | rackingTap (u : TunId) (entry : BitVec 1024) | caskTap (u : TunId) (entry : BitVec 1024)
  | evaluationCaskRequest (u : TunId) (entry : BitVec 1024)
  | restore (u : TunId) (entry : BitVec 1024) (job : JobImage) (objs : List RestoreObject)
  | granaryMap (u : TunId) (entry : BitVec 1024) (map : List (BitVec 256))
  | coefficientTap (u : TunId) (sets : List (BitVec 512))
  | gaugeTap (plan : GaugePlan) | layoutTap (u : TunId) (pkg : LayoutPackage)
  | statusTap (u : TunId) (entry : BitVec 1024) | closedStatusWrite (u : TunId)
  | loadJob (u : TunId) (cmdSeq : BitVec 32) (job : JobImage)
  | stopTheTun (u : TunId) (cmdSeq : BitVec 32) | tearDown (u : TunId) (cmdSeq : BitVec 32)
  | writeScheduleRecord (u : TunId) (cmdSeq : BitVec 32) (rec : BitVec 512)
  | writeSilentLimit (u : TunId) (cmdSeq : BitVec 32) (limit : BitVec 16)
  | writeGravityRecord (u : TunId) (cmdSeq : BitVec 32) (rec : BitVec 512)
  | writeLoopCountEntry (u : TunId) (cmdSeq : BitVec 32) (entry : Fin 16) (count : BitVec 20)
  | writeLimitsRecord (u : TunId) (cmdSeq : BitVec 32) (rec : BitVec 512)
  | unknownCommand (u : TunId) (cmdSeq : BitVec 32) (op : BitVec 8)
  | statusWindowWrite (off : Nat) (w : BitVec 64) (bytes : Fin 9)
  | start (finds : StartFinds) | startWatchdog
  | bmcFlashWrite (copy : Bool) (image : FlashCopy) | bmcCountClearRestart (finds : StartFinds) | bmcReadBootRecords
  | bmcWriteRebuildShare (d : DieId) (share : BitVec 2) | bmcWriteHoldover (ms : BitVec 16) | bmcOrderDeepIdle
  | autoIdleTimer | pullPreparation | carrierFit (mv : Nat) (finds : StartFinds)
  | getVersion | getCapabilities | negotiateAlgorithms (ok : Bool) | getDigests | getCertificate (slot : Fin 8) (off len : Nat)
  | challenge (slot : Fin 8) (nonce : Bytes) | getMeasurements (index : Fin 256) (sign : Bool) (nonce : Bytes)
  | keyExchange (nonce : Bytes) | finish (session : Fin 8) (ok : Bool) | heartbeat (session : Fin 8)
  | keyUpdate (session : Fin 8) | endSession (session : Fin 8)
  | chunkSend (handle : Fin 256) (chunk : Bytes) (last : Bool) | chunkGet (handle : Fin 256) (seq : Nat)
  | setTunSecret (session : Fin 8) (u : TunId) (ts : Bytes) (imports : List Bytes) (sigOk : Bool)
  | ideKm (session : Fin 8) (keyProgram : Bool) | drbgReseed
  | tamper | inputBelow40V (mv : Nat) | inputBelow36V (mv : Nat) | inputOverCurrent (ma : Nat) | supplyCollapse (mv : Nat)
  | railOverCurrent | psAlert | estopPin | bmcOrderEstop | estopRelease (ns : Nat) (byBmc : Bool)
  | thermalSample (x : Sensors) (tripped : Bool) | throttleRaise | throttleLower | clockLoss (c : ClockLost)
  | dieLoss (d : DieId) (cause : Fin 16) (mgmtLost : Bool) | reductionEngineFault (e : Fin 4)
  | uncorrectableError (d : DieId) (u : TunId) (site : UeSite) (addr : Nat) (second : Bool)
  | correctableError (d : DieId) (lvl : Fin 4) (unit : Fin 64) (row : Nat)
  | scrubTick (d : DieId) (lvl : Fin 4)
  | cellarInterfaceFailure (i : Fin 48) | rebuildGranule (pg : Fin 4)
  | ppsInEdge (ns : Nat) | ppsOutPulse (ns : Nat) | i3cEntdaa (addr : BitVec 7)
  | idcode | bypass (tdi : Bool) | extest (outs : List Bool) | samplePreload (ins : List Bool)
  | extestPulse (lanes : List Bool) | extestTrain (lanes : List Bool)
  | ptpAnnounce (m : MacId) (dom : BitVec 8) (prio1 cls accuracy variance prio2 : Nat) (identity : BitVec 64) (steps : Nat)
  | ptpFollowUp (m : MacId) (dom : BitVec 8) (offset : Int) | portLinkUp (m : MacId) (lanes : Fin 9)
  | inputAbove40V (mv : Nat) | hubManagerWatchdog | bmcOrderRestart (finds : StartFinds) | bmcOrderWake
  | spdmUnsupportedRequest (code : BitVec 8)
  deriving DecidableEq, Repr

end Sys2Proof
end

