-- ==== Sys2Proof/Decode.lean ====
section
/-! DEFINITION. The command a word spells. The opcode table gives no row any bits: the block takes its commands
from outside and has no decoder of words, so no word spells a command. -/

namespace Sys2Proof

/-- The command that a word of the table's bits spells: none, for no row of the table has bits. -/
def decodeTableWord (_nbits _w : Nat) : Option Instr := none

end Sys2Proof
end

