-- ==== Sys2Proof/Machine/Crypto.lean ====
section
/-! DEFINITION. The hash, tag, cipher and check functions the spec names: SHA3-512 (FIPS 202), KMAC256
(NIST SP 800-185), AES-256-XTS with ciphertext stealing (IEEE 1619), the CRC-32 of IEEE 802.3 (R308) and
the CRC-16 of a flit (R314). Outputs are byte strings, byte 0 first (R427). -/

namespace Sys2Proof

/-- The round constants of Keccak-f[1600]. -/
def keccakRc : List (BitVec 64) :=
  [0x1, 0x8082, 0x800000000000808a, 0x8000000080008000, 0x808b, 0x80000001, 0x8000000080008081,
   0x8000000000008009, 0x8a, 0x88, 0x80008009, 0x8000000a, 0x8000808b, 0x800000000000008b,
   0x8000000000008089, 0x8000000000008003, 0x8000000000008002, 0x8000000000000080, 0x800a,
   0x800000008000000a, 0x8000000080008081, 0x8000000000008080, 0x80000001, 0x8000000080008008]

/-- The rotation of lane x + 5y in the ρ step. -/
def keccakRot : List Nat :=
  [0, 1, 62, 28, 27, 36, 44, 6, 55, 20, 3, 10, 43, 25, 39, 41, 45, 15, 21, 8, 18, 2, 61, 56, 14]

/-- Lane i of a Keccak state. -/
def lane (a : List (BitVec 64)) (i : Nat) : BitVec 64 := a.getD i 0

/-- The θ step. -/
def keccakTheta (a : List (BitVec 64)) : List (BitVec 64) :=
  let c := (List.range 5).map fun x =>
    lane a x ^^^ lane a (x + 5) ^^^ lane a (x + 10) ^^^ lane a (x + 15) ^^^ lane a (x + 20)
  (List.range 25).map fun i =>
    lane a i ^^^ lane c ((i + 4) % 5) ^^^ (lane c ((i + 1) % 5)).rotateLeft 1

/-- The ρ and π steps: lane (x, y) of the result is lane (x + 3y, x) of the source, rotated. -/
def keccakRhoPi (a : List (BitVec 64)) : List (BitVec 64) :=
  (List.range 25).map fun i =>
    let x := i % 5
    let y := i / 5
    let j := (x + 3 * y) % 5 + 5 * x
    (lane a j).rotateLeft (keccakRot.getD j 0)

/-- The χ and ι steps. -/
def keccakChiIota (a : List (BitVec 64)) (rc : BitVec 64) : List (BitVec 64) :=
  (List.range 25).map fun i =>
    let x := i % 5
    let y := i - x
    let v := lane a i ^^^ (~~~(lane a ((x + 1) % 5 + y)) &&& lane a ((x + 2) % 5 + y))
    if i = 0 then v ^^^ rc else v

/-- Keccak-f[1600]. -/
def keccakF (a : List (BitVec 64)) : List (BitVec 64) :=
  keccakRc.foldl (fun b rc => keccakChiIota (keccakRhoPi (keccakTheta b)) rc) a

/-- A run of 8 bytes as a lane. -/
def lanesOf : Nat → Bytes → List (BitVec 64)
  | 0, _ => []
  | n + 1, bs => BitVec.ofNat 64 (Bytes.toNat (bs.take 8)) :: lanesOf n (bs.drop 8)

/-- One block of rate bytes absorbed. -/
def keccakAbsorb (a : List (BitVec 64)) (block : Bytes) : List (BitVec 64) :=
  keccakF (a.zipWith (· ^^^ ·) (lanesOf 25 block))

/-- n blocks of the rate absorbed in order. -/
def keccakAbsorbAll (rate : Nat) : Nat → Bytes → List (BitVec 64) → List (BitVec 64)
  | 0, _, a => a
  | n + 1, m, a => keccakAbsorbAll rate n (m.drop rate) (keccakAbsorb a (m.take rate))

/-- The message padded with a domain byte and 0x80 to whole blocks. -/
def keccakPad (rate : Nat) (domain : Byte) (m : Bytes) : Bytes :=
  let q := rate - m.length % rate
  if q = 1 then m ++ [domain ||| 0x80]
  else m ++ [domain] ++ List.replicate (q - 2) 0 ++ [0x80]

/-- The output of a Keccak sponge, at most one block long. -/
def keccak (rate : Nat) (domain : Byte) (m : Bytes) (out : Nat) : Bytes :=
  let p := keccakPad rate domain m
  let a := keccakAbsorbAll rate (p.length / rate) p (List.replicate 25 0)
  (a.flatMap fun w => bytesOfNat 8 w.toNat).take out

/-- SHA3-512: 64 bytes. -/
def sha3_512 (m : Bytes) : Bytes := keccak 72 0x06 m 64

/-- The low 64 bits of an output string (R427). -/
def low64 (bs : Bytes) : Nat := Bytes.toNat (bs.take 8)

/-- The number of bytes of the shortest base-256 writing of x, at least 1. -/
def byteLen (x : Nat) : Nat := Nat.log2 x / 8 + 1

/-- left_encode of SP 800-185. -/
def leftEncode (x : Nat) : Bytes := BitVec.ofNat 8 (byteLen x) :: bytesOfNatBE (byteLen x) x

/-- right_encode of SP 800-185. -/
def rightEncode (x : Nat) : Bytes := bytesOfNatBE (byteLen x) x ++ [BitVec.ofNat 8 (byteLen x)]

/-- encode_string of SP 800-185. -/
def encodeString (s : Bytes) : Bytes := leftEncode (8 * s.length) ++ s

/-- bytepad of SP 800-185. -/
def bytepad (x : Bytes) (w : Nat) : Bytes :=
  let y := leftEncode w ++ x
  y ++ List.replicate ((w - y.length % w) % w) 0

/-- KMAC256 with an empty customisation string, out bytes (at most one block of 136). -/
def kmac256 (key m : Bytes) (out : Nat) (custom : Bytes := []) : Bytes :=
  let name : Bytes := [0x4B, 0x4D, 0x41, 0x43]
  keccak 136 0x04
    (bytepad (encodeString name ++ encodeString custom) 136 ++ bytepad (encodeString key) 136 ++ m
      ++ rightEncode (8 * out)) out

/-- Multiplication by x in the field of AES. -/
def gfX (a : Byte) : Byte := (a <<< 1) ^^^ (if a.msb then 0x1B else 0)

/-- The product in the field of AES. -/
def gfMul (a b : Byte) : Byte :=
  (List.range 8).foldr (fun i r => gfX r ^^^ (if b.getLsbD i then a else 0)) 0

/-- a^254, the inverse in the field of AES (0 at 0). -/
def gfInv (a : Byte) : Byte :=
  let a2 := gfMul a a
  let a4 := gfMul a2 a2
  let a8 := gfMul a4 a4
  let a16 := gfMul a8 a8
  let a32 := gfMul a16 a16
  let a64 := gfMul a32 a32
  let a128 := gfMul a64 a64
  gfMul a2 (gfMul a4 (gfMul a8 (gfMul a16 (gfMul a32 (gfMul a64 a128)))))

/-- The S-box of AES (FIPS 197). -/
def aesSbox (a : Byte) : Byte :=
  let b := gfInv a
  b ^^^ b.rotateLeft 1 ^^^ b.rotateLeft 2 ^^^ b.rotateLeft 3 ^^^ b.rotateLeft 4 ^^^ 0x63

/-- The inverse S-box of AES. -/
def aesInvSbox (a : Byte) : Byte :=
  gfInv (a.rotateLeft 1 ^^^ a.rotateLeft 3 ^^^ a.rotateLeft 6 ^^^ 0x05)

/-- The XOR of two byte strings. -/
def xorBytes (a b : Bytes) : Bytes := a.zipWith (· ^^^ ·) b

/-- The words of the AES-256 key schedule from word i on; prev holds the 8 words before, oldest first. -/
def aesSchedule : Nat → Nat → List Bytes → List Bytes
  | 0, _, _ => []
  | fuel + 1, i, prev =>
    let t := prev.getD 7 []
    let t' :=
      if i % 8 = 0 then
        xorBytes ((t.drop 1 ++ t.take 1).map aesSbox) [BitVec.ofNat 8 (2 ^ (i / 8 - 1)), 0, 0, 0]
      else if i % 8 = 4 then t.map aesSbox
      else t
    let w := xorBytes (prev.getD 0 []) t'
    w :: aesSchedule fuel (i + 1) (prev.drop 1 ++ [w])

/-- A byte string in words of 4 bytes. -/
def words4 : Nat → Bytes → List Bytes
  | 0, _ => []
  | n + 1, bs => bs.take 4 :: words4 n (bs.drop 4)

/-- The 15 round keys of 16 bytes of an AES-256 key. -/
def aesRoundKeys (key : Bytes) : List Bytes :=
  let w := words4 8 key
  let all := (w ++ aesSchedule 52 8 w).flatten
  (List.range 15).map fun r => (all.drop (16 * r)).take 16

/-- Byte i of a 16-byte block after ShiftRows. -/
def aesShiftRows (b : Bytes) : Bytes :=
  (List.range 16).map fun i => b.getD ((i + 4 * (i % 4)) % 16) 0

/-- Byte i of a 16-byte block after InvShiftRows. -/
def aesInvShiftRows (b : Bytes) : Bytes :=
  (List.range 16).map fun i => b.getD ((i + 12 * (i % 4)) % 16) 0

/-- One column product with the circulant row c0 c1 c2 c3. -/
def aesMixWith (c : List Byte) (b : Bytes) : Bytes :=
  (List.range 16).map fun i =>
    let base := i - i % 4
    (List.range 4).foldl (fun r k => r ^^^ gfMul (c.getD k 0) (b.getD (base + (i + k) % 4) 0)) 0

/-- AES-256 encryption of one block. -/
def aesEnc (key block : Bytes) : Bytes :=
  let ks := aesRoundKeys key
  let b := (List.range 13).foldl
    (fun b r => xorBytes (aesMixWith [2, 3, 1, 1] (aesShiftRows (b.map aesSbox))) (ks.getD (r + 1) []))
    (xorBytes block (ks.getD 0 []))
  xorBytes (aesShiftRows (b.map aesSbox)) (ks.getD 14 [])

/-- AES-256 decryption of one block. -/
def aesDec (key block : Bytes) : Bytes :=
  let ks := aesRoundKeys key
  let b := (List.range 13).foldl
    (fun b r => aesMixWith [14, 11, 13, 9] (xorBytes ((aesInvShiftRows b).map aesInvSbox) (ks.getD (13 - r) [])))
    (xorBytes block (ks.getD 14 []))
  xorBytes ((aesInvShiftRows b).map aesInvSbox) (ks.getD 0 [])

/-- A tweak multiplied by x in the field of XTS. -/
def xtsNext (t : Bytes) : Bytes :=
  let x := 2 * Bytes.toNat t
  bytesOfNat 16 (if x < 2 ^ 128 then x else (x - 2 ^ 128) ^^^ 0x87)

/-- One XTS block. -/
def xtsBlock (f : Bytes → Bytes) (t b : Bytes) : Bytes := xorBytes (f (xorBytes b t)) t

/-- The whole blocks of an XTS data unit, with the tweak after them. -/
def xtsBlocks (f : Bytes → Bytes) : Nat → Bytes → Bytes → Bytes × Bytes
  | 0, t, _ => ([], t)
  | n + 1, t, m =>
    let r := xtsBlocks f n (xtsNext t) (m.drop 16)
    (xtsBlock f t (m.take 16) ++ r.1, r.2)

/-- AES-256-XTS encryption under a data key and a tweak key, with ciphertext stealing. -/
def xtsEnc (k1 k2 : Bytes) (tweak : Nat) (m : Bytes) : Bytes :=
  let t0 := aesEnc k2 (bytesOfNat 16 tweak)
  let n := m.length / 16
  let r := m.length % 16
  if r = 0 then (xtsBlocks (aesEnc k1) n t0 m).1
  else
    let h := xtsBlocks (aesEnc k1) (n - 1) t0 m
    let last := m.drop (16 * (n - 1))
    let cc := xtsBlock (aesEnc k1) h.2 (last.take 16)
    let pp := (last.drop 16) ++ cc.drop r
    h.1 ++ xtsBlock (aesEnc k1) (xtsNext h.2) pp ++ cc.take r

/-- AES-256-XTS decryption under a data key and a tweak key, with ciphertext stealing. -/
def xtsDec (k1 k2 : Bytes) (tweak : Nat) (m : Bytes) : Bytes :=
  let t0 := aesEnc k2 (bytesOfNat 16 tweak)
  let n := m.length / 16
  let r := m.length % 16
  if r = 0 then (xtsBlocks (aesDec k1) n t0 m).1
  else
    let h := xtsBlocks (aesDec k1) (n - 1) t0 m
    let last := m.drop (16 * (n - 1))
    let pp := xtsBlock (aesDec k1) (xtsNext h.2) (last.take 16)
    let cc := (last.drop 16) ++ pp.drop r
    h.1 ++ xtsBlock (aesDec k1) h.2 cc ++ pp.take r

/-- One byte into a reflected CRC register of 32 bits. -/
def crc32Byte (c : BitVec 32) (b : Byte) : BitVec 32 :=
  (List.range 8).foldl (fun c _ => if c.getLsbD 0 then (c >>> 1) ^^^ 0xEDB88320 else c >>> 1)
    (c ^^^ (b.setWidth 32))

/-- The CRC-32 of IEEE 802.3 over the bytes in ascending order (R308). -/
def crc32 (bs : Bytes) : BitVec 32 := (bs.foldl crc32Byte 0xFFFFFFFF) ^^^ 0xFFFFFFFF

/-- One byte into a CRC-16 register with polynomial 0x1021, most significant bit first. -/
def crc16Byte (c : BitVec 16) (b : Byte) : BitVec 16 :=
  (List.range 8).foldl (fun c _ => if c.msb then (c <<< 1) ^^^ 0x1021 else c <<< 1)
    (c ^^^ ((b.setWidth 16) <<< 8))

/-- The CRC-16 of R314: polynomial 0x1021, initial value 0xFFFF. -/
def crc16 (bs : Bytes) : BitVec 16 := bs.foldl crc16Byte 0xFFFF

end Sys2Proof
end

