-- ==== Sys2Proof/Machine/StateTun.lean ====
section
/-! DEFINITION. What HD keeps of a tun: its job and its staged changes (R194, R201, R212, R255), its step and
vote (R185 to R213), its collectives and staging (R228 to R258), its racking, casks and restore (R259 to
R282), its taps and rings (R337 to R345) and its keys (R374, R375). -/

namespace Sys2Proof.Machine

/-- A bung word's fields (R185). Its tun and its check are formed from them. -/
structure Bung where
  step : Nat := 0
  keg : Nat := 0
  granary : Bool := false
  valid : Bool := false
  deriving DecidableEq, Repr

/-- HUB_STEP_STATE (R222). -/
inductive StepState where
  | running | awaitingDies | awaitingHost | voteOpen | awaitingRacking | stopped
  deriving DecidableEq, Repr

/-- What a vote's delivered result says (R208). -/
inductive Outcome where
  | clean | spoiled (nf : Bool)
  deriving DecidableEq, Repr

/-- The counters of the hub commit block (R222). -/
structure CommitStat where
  lastSpoiled : Bool := false
  lastNf : Bool := false
  committed : Nat := 0
  spoiled : Nat := 0
  voteTimeouts : Nat := 0
  granaryDebt : Nat := 0
  granaryTagFail : Nat := 0
  digestMismatches : Nat := 0
  deriving DecidableEq, Repr

/-- The collective status block (R257). -/
structure CollStat where
  segSent : Nat := 0
  segRecv : Nat := 0
  stallSegment : Nat := 0
  stallGranary : Nat := 0
  redElems : Nat := 0
  longAdds : Nat := 0
  bucketHold : Nat := 0
  stale : Nat := 0
  resends : Nat := 0
  reshards : Nat := 0
  permuteBytes : Nat := 0
  gravDiscards : Nat := 0
  idleGates : Nat := 0
  deriving DecidableEq, Repr

/-- The racking status block (R282); UPD_RACK_HOLD is summed over the dies. -/
structure RackStat where
  stood : Nat := 0
  segments : Nat := 0
  bytes : Nat := 0
  resends : Nat := 0
  spilled : Nat := 0
  stall : Nat := 0
  lagEvents : Nat := 0
  abandoned : Nat := 0
  caskPieces : Nat := 0
  caskBytes : Nat := 0
  caskWait : Nat := 0
  restores : Nat := 0
  restoreRefused : Nat := 0
  deriving DecidableEq, Repr

/-- A gravity entry (R258). -/
structure GravEntry where
  l : Word32 := 0
  g : Word32 := 0
  nbar : Word32 := 0
  dbar : Word32 := 0
  deriving DecidableEq, Repr

/-- What a segment in a hub staging slot waits for (R230). -/
inductive SegRole where
  /-- on its way to another device: its rank -/
  | out (rank : Nat)
  /-- a result for a delivery record -/
  | deliver (rec : Nat)
  /-- a reduced gradient for the update engine of a die -/
  | update (die : Nat)
  /-- the reduced sums of a sketch for the update engine of a die (R200, R238) -/
  | sketch (die : Nat)
  deriving DecidableEq, Repr

/-- A segment in a hub staging slot (R230): codes in the collective's format from element first on. -/
structure Seg where
  role : SegRole
  /-- the slot it stands in; the parts of one segment share it -/
  slot : Nat := 0
  coll : Nat
  round : Nat
  step : Nat
  attempt : Nat
  first : Nat
  codes : List Nat
  scales : List Nat := []
  /-- row form: the rows the codes belong to (R237) -/
  rows : List Nat := []
  nf : Bool := false
  last : Bool := false
  seq : Nat := 0
  mac : Option Nat := none
  sentAt : Option Nat := none
  /-- frames that have left (R303) -/
  out : Nat := 0
  /-- sent before without an acknowledgement: it holds its credit and goes again with TP_RESEND -/
  resent : Bool := false
  deriving DecidableEq, Repr

/-- The rounds of a collective on this device (R234): the round open and what each die has contributed in
it, by element. -/
structure Round where
  no : Nat := 0
  got : Tbl (Tbl Nat) := []
  /-- the segments taken of contributions that wait for other dies: first element, last, and the slot (R230) -/
  segs : List (Nat × Nat × Nat) := []
  deriving DecidableEq, Repr

/-- The partials of a collective's round at this reducing member (R234, R236): by element, each member's
partial as FP32; and the elements already reduced. -/
structure Reduction where
  parts : Tbl (Tbl Word32) := []
  /-- the segments whose data waits to be added: first element, last, and the slot (R230) -/
  segs : List (Nat × Nat × Nat) := []
  deriving DecidableEq, Repr

/-- A segment arriving over the network, frames placed so far (R303): key of its series and number. -/
structure Partial where
  src : Nat
  kind : Nat
  seq : Nat
  header : BitVec 256
  frames : List Nat := []
  data : Tbl Bytes := []
  since : Nat
  deriving DecidableEq, Repr

/-- A bucket's close on this device (R236): dies that have closed it, markers by rank, and segments received
by rank. -/
structure BucketHub where
  dies : List Nat := []
  nf : Bool := false
  sent : Tbl Nat := []
  markers : Tbl (Bool × Nat) := []
  got : Tbl Nat := []
  markerSent : Bool := false
  released : Bool := false
  deriving DecidableEq, Repr

/-- Where a racking or cask segment is (R264). -/
inductive RackPlace where
  | slot | buffer (die : Nat)
  /-- held by a die's coder: the spill limit is reached or the buffer is full -/
  | coder (die : Nat)
  /-- formed by HD itself while no slot is free -/
  | hub
  deriving DecidableEq, Repr

/-- A racking, cask or evaluation segment not yet acknowledged (R261 to R264). -/
structure RackSeg where
  header : BitVec 512
  payload : Bytes
  place : RackPlace := .slot
  /-- of an evaluation cask: it goes to the evaluation tap -/
  evaluation : Bool := false
  seq : Nat := 0
  /-- it has its number towards the receiver (R303) -/
  numbered : Bool := false
  mac : Option Nat := none
  sentAt : Option Nat := none
  /-- frames that have left (R303) -/
  out : Nat := 0
  /-- sent before without an acknowledgement: it holds its credit and goes again with TP_RESEND -/
  resent : Bool := false
  deriving DecidableEq, Repr

/-- A cask or evaluation piece being read and sent (R270, R274). -/
structure CaskPiece where
  die : Nat
  piece : Nat
  entry : Nat
  /-- the update table entry, as the layout of its step had it -/
  ut : BitVec 512 := 0
  firstBlock : Nat
  blocks : Nat
  base : Nat
  /-- the attempt of the base step -/
  attempt : Nat := 0
  evaluation : Bool := false
  /-- the whole payload, once a late read has taken it (R270) -/
  snapshot : Option Bytes := none
  /-- payload bytes sent, and their ciphertext, which CK_DIGEST covers -/
  sent : Nat := 0
  cipher : Bytes := []
  unacked : Nat := 0
  done : Bool := false
  deriving DecidableEq, Repr

/-- A die's evaluation cask that has not ended (R274): its base step, that step's attempt, and the digests of the pieces
committed, by piece. -/
structure EvalCask where
  die : Nat
  base : Nat
  attempt : Nat := 0
  digests : Tbl Bytes := []
  deriving DecidableEq, Repr

/-- The step of a tun at the hub (R186 to R217). -/
structure StepHub where
  attempt : Nat := 0
  k : Nat := 1
  lsScale : Word32 := 0x3F800000
  lsClean : Nat := 0
  prevNf : Bool := false
  spoils : Nat := 0
  /-- dies whose step close of the attempt has issued -/
  closed : List Nat := []
  spoil : Bool := false
  nfSeen : Bool := false
  applied : Bool := false
  /-- a segment or block of the step was forwarded to the granary: the time of the last one, in ps -/
  forwarded : Option Nat := none
  hostWord : Option Bool := none
  votes : Tbl VoteData := []
  given : Option VoteData := none
  givenAt : Nat := 0
  /-- the result member 0 has formed -/
  result : Option VoteData := none
  outcome : Option Outcome := none
  /-- dies to which the step outcome is still to come -/
  toTell : List Nat := []
  state : StepState := .running
  /-- since when the bung has waited for racking (R2), in ps -/
  lagSince : Option Nat := none
  deriving DecidableEq, Repr

/-- Where a re-sharding step is (R250): none; the step-start slice held for it; its records moved. -/
inductive Reshard where
  | no | held | moved
  deriving DecidableEq, Repr

/-- Records on their way to another device by the permutation collective (R220, R250): to a rank and a die, from a byte of
that die's record stream on (log entry 38). -/
structure Perm where
  rank : Nat
  die : Nat
  at' : Nat
  data : Bytes
  seq : Nat := 0
  mac : Option Nat := none
  sentAt : Option Nat := none
  /-- frames that have left (R303) -/
  out : Nat := 0
  resent : Bool := false
  deriving DecidableEq, Repr

/-- A control message of a tun that waits for a control frame (R232, R236, R239, R278, R295, R301). Of an acknowledgement and of segment
credits the destination is a rank, or 64 + the endpoint of a receiver. -/
inductive CtlMsg where
  | ack (dest kind status seq : Nat)
  | segmentCredit (dest kind count : Nat)
  | hello (key : Nat)
  | portDown (ep rank mac at' : Nat)
  | widthChange (lanes : Nat)
  | marker (rank bucket : Nat) (nf : Bool) (segments : Nat)
  | windowCredit (rank die win : Nat)
  | vote (v : VoteData)
  | voteResult (rank : Nat) (v : VoteData)
  | digest (rank : Nat) (d : Bytes)
  | restoreComplete (rank : Nat)
  deriving DecidableEq, Repr

/-- Gravity accumulators of a group (R253): 192-bit fixed point, least bit 2^−96. -/
structure GravAcc where
  l : Nat := 0
  g : Nat := 0
  deriving DecidableEq, Repr

/-- Racking and casks of a tun (R259 to R276). -/
structure Racking where
  segs : List RackSeg := []
  /-- the steps whose bung is driven and whose commit segment is still to be sent, with their last attempt -/
  pending : List (Nat × Nat) := []
  chain : Bytes := []
  /-- difference and factor segments of the step by die, and the embedding ones with their headers -/
  counts : Tbl Nat := []
  embCounts : Tbl Nat := []
  embHeaders : Tbl Bytes := []
  /-- commit records formed, by step -/
  commits : Tbl (BitVec 6144) := []
  commitSent : List Nat := []
  pieces : List CaskPiece := []
  evalReq : Bool := false
  evals : List EvalCask := []
  /-- spill traffic in the bushel by die, in bytes (R264) -/
  spill : Tbl Nat := []
  deriving DecidableEq, Repr

/-- A ring of the tun's taps: slots posted by the device, and the indices (R340, R345). -/
structure Ring where
  slots : List (BitVec 512) := []
  devIdx : Nat := 0
  hostIdx : Nat := 0
  seq : Nat := 0
  dropped : Nat := 0
  deriving DecidableEq, Repr

/-- A tun at the hub. -/
structure Tun where
  loaded : Bool := false
  /-- the tun layout that a re-sharding step has put in the place of the configuration image's (R249) -/
  layNow : Option (BitVec 1024) := none
  stopped : Bool := false
  /-- the dies whose stream has ended, as their stewards have reported (R33) -/
  halted : List Nat := []
  job : JobImage := {}
  rank : Nat := 0
  /-- the job's tables as they now stand -/
  limits : BitVec 512 := 0x3D09001F40010000075300000EA60
  limitsNext : Option (BitVec 512) := none
  coefs : Tbl (BitVec 512) := []
  coefsNext : Option (Tbl (BitVec 512)) := none
  schedule : BitVec 512 := 0x3F8000003F80000000000000000000000000000000000000000000000000000000000000
  scheduleNext : Option (BitVec 512) := none
  gravity : BitVec 512 := 0x3F7AE148000000000003200008000800
  gravityNext : Option (BitVec 512) := none
  silent : Nat := 256
  silentNext : Option Nat := none
  loopNext : Tbl Nat := []
  granMap : List (BitVec 256) := []
  granMapNext : Option (List (BitVec 256)) := none
  /-- entries 0x8's kind parameters: gradient area and working-copy buffers (R343) -/
  granArea : Nat := 0
  granWc : Nat × Nat := (0, 0)
  /-- the pages of the gradient area that the attempt has used (R214) -/
  gradPages : Nat := 0
  /-- the generation table by tun-local page (R176) -/
  generations : Tbl Nat := []
  bung : Bung := {}
  step : StepHub := {}
  commit : CommitStat := {}
  coll : CollStat := {}
  grav : Tbl GravEntry := []
  gravAcc : Tbl GravAcc := []
  rounds : Tbl Round := []
  reductions : Tbl Reduction := []
  buckets : Tbl BucketHub := []
  segs : List Seg := []
  /-- slots taken so far: the number of the newest -/
  slotNo : Nat := 0
  partials : List Partial := []
  /-- the last 4,096 segment numbers received, by source × 16 + kind -/
  received : Tbl (List Nat) := []
  /-- next TP_SEQ by destination × 16 + kind; a destination is a rank, or 64 + the endpoint of a receiver (R303) -/
  seqs : Tbl Nat := []
  /-- segment credits held, by destination (R302) -/
  segCredits : Tbl Nat := []
  /-- the slots that segments from other devices take, with their rank and kind, until they are released (R302) -/
  recvSlots : List (Nat × Nat × Nat) := []
  /-- credits of delivery windows spent by the hub: die × 1,024 + window (R232) -/
  dlvSpent : List Nat := []
  /-- credits of RING and STAGE windows on other devices spent: rank × 8,192 + die × 1,024 + window -/
  farSpent : List Nat := []
  /-- the rank that is owed the credit of a window a RING or STAGE result was written into, by die × 1,024 + window (R232) -/
  farOwed : Tbl Nat := []
  /-- control messages that wait for a control frame, oldest first (R295) -/
  ctlOut : List CtlMsg := []
  /-- the collective that a delivery record is being written by, and the elements written since its credit was spent -/
  dlvCount : Tbl (Nat × Nat) := []
  /-- the next round of a collective to be written by a delivery record, by collective × 4,096 + record (R234) -/
  dlvRound : Tbl Nat := []
  rack : Racking := {}
  rackStat : RackStat := {}
  rackTap : Option (BitVec 1024) := none
  rackTapNext : Option (BitVec 1024) := none
  caskTap : Option (BitVec 1024) := none
  caskTapNext : Option (BitVec 1024) := none
  evalTap : Option (BitVec 1024) := none
  statusTap : Option (BitVec 1024) := none
  statusDue : Nat := 0
  /-- the newest closed status slots written -/
  statusOut : List Bytes := []
  /-- their tags (R351, R375) -/
  statusTags : List Bytes := []
  /-- the rings of the racking, cask, evaluation, output and status taps (R340, R341) -/
  rackRing : Ring := {}
  caskRing : Ring := {}
  evalRing : Ring := {}
  outRing : Ring := {}
  /-- the device's indices of the rings that the host fills: commands and input records (R340) -/
  cmdIdx : Nat := 0
  inIdx : Nat := 0
  statusRing : Ring := {}
  inputTap : Bool := false
  /-- evaluation segments delivered to the tun's input tap by another tun (R274) -/
  evalIn : List Bytes := []
  /-- input records standing in the ring: step and attempt -/
  inputs : List (Nat × Nat) := []
  outputPosted : Nat := 0
  outputs : List Nat := []
  evReq : Nat := 0
  rsGo : Nat := 0
  events : Ring := {}
  /-- a layout package staged, and whether every rank has reported it (R249) -/
  package : Option LayoutPackage := none
  restoring : Bool := false
  /-- the step restored to, whose racking commit the receiver held already -/
  restoredTo : Nat := 0
  /-- ranks whose restore-complete has come (R278) -/
  restored : List Nat := []
  /-- the replica digests of the step by rank (R219, R220), and the ranks whose shard is under repair -/
  digests : Tbl Bytes := []
  digestBad : List Nat := []
  /-- digests of a step whose bung this device has still to drive: the step and the digest, by rank (R220) -/
  digestsAhead : Tbl (Nat × Bytes) := []
  /-- the blocks that the digest step wrote, by die (R219) -/
  written : Tbl (List Nat) := []
  /-- the re-sharding step, the ranges of the dies' record streams still to arrive, each a die, its first byte and its end, and
  the records on their way to other devices (R250) -/
  reshard : Reshard := .no
  permDue : List (Nat × Nat × Nat) := []
  perms : List Perm := []
  refusedLaunch : Bool := false
  refusedBefore : Bool := false
  /-- places where an uncorrectable error spoiled the step, and the attempt (R170) -/
  ueSeen : List (Nat × Nat) := []
  ts : Option Bytes := none
  secretTaken : Bool := false
  nonce : Bytes := []
  imports : List Bytes := []
  tmr : Bytes := []
  helloKey : Tbl Nat := []
  deriving DecidableEq, Repr

/-- Messages handed over for a control frame (R295). -/
def Tun.sendCtl (t : Tun) (ms : List CtlMsg) : Tun := { t with ctlOut := t.ctlOut ++ ms }

end Sys2Proof.Machine
end

