-- ==== Sys2Proof/Machine/Keys.lean ====
section
/-! DEFINITION. The keys of a tun (R375), derived from its secret TS. -/

namespace Sys2Proof.Machine

/-- A name as bytes. -/
def strBytes (x : String) : Bytes := x.toList.map fun c => BitVec.ofNat 8 c.toNat

/-- A key derived from TS with KMAC256; an unkeyed tun has none, and the empty key stands for it. -/
def Tun.derive (t : Tun) (name : String) (input : Bytes) (bits : Nat) : Bytes :=
  kmac256 (t.ts.getD []) input (bits / 8) (strBytes name)

/-- The racking key, 512 bits. -/
def Tun.rackKey (t : Tun) : Bytes := t.derive "racking" [] 512
/-- The evaluation export key. -/
def Tun.evalKey (t : Tun) : Bytes := t.derive "evaluation" [] 512
/-- The exchange key. -/
def Tun.exchangeKey (t : Tun) : Bytes := t.derive "exchange" [] 512
/-- The granary key of this load. -/
def Tun.granaryKey (t : Tun) (serial : Nat) : Bytes := t.derive "granary" (bytesOfNat 8 serial ++ t.nonce) 512
/-- The cellar key of this load. -/
def Tun.cellarKey (t : Tun) (serial : Nat) : Bytes := t.derive "cellar" (bytesOfNat 8 serial ++ t.nonce) 512
/-- The status key. -/
def Tun.statusKey (t : Tun) : Bytes := t.derive "status" [] 512

end Sys2Proof.Machine
end

