-- ==== Sys2Proof/Config.lean ====
section
/-! DEFINITION. The free values: what the spec leaves open. Each is a constant with no body, so nothing proved
here rests on a value of it. A value drawn afresh is applied to the counter State.draws, which the drawing
command advances. -/

namespace Sys2Proof

/-- What an unstated scale format of a pass multiplies by, as an FP32 code (R61 names E8M0 and UE4M3 only). -/
opaque Config.openScale (fmt code : Nat) : Word32

/-- The n-th output of the device's CTR_DRBG (R371). -/
opaque Config.drbg (n : Nat) : BitVec 256

/-- The device seed S of the PUF on HD (R368). -/
opaque Config.seedS : BitVec 256

/-- The die key of the PUF of die n (R370). -/
opaque Config.dieKey (n : Nat) : BitVec 256

/-- An ML-DSA-87 signature by the named device key over a message (R366 to R373). -/
opaque Config.mlDsaSign (key : Nat) (msg : Bytes) : Bytes

/-- The shared secret and ciphertext of ML-KEM-1024 for draw n (R372). -/
opaque Config.mlKem (n : Nat) : BitVec 256

/-- The learning rate of a reserved schedule shape 4–7 (R201). -/
opaque Config.openSchedule (shape s : Nat) (peak : Word32) : Word32

/-- A 32-bit value the spec does not state, by the place it stands in and an argument. -/
opaque Config.openWord (place arg : Nat) : Word32

/-- A byte the spec does not state, by the place it stands in and an argument. -/
opaque Config.openByte (place arg : Nat) : Byte

/-- A natural number the spec does not state, by the place it stands in and an argument. -/
opaque Config.openNat (place arg : Nat) : Nat

end Sys2Proof
end

