-- ==== Sys2Proof/Machine/Special.lean ====
section
/-! DEFINITION. The special functions of R122 and the cosines of the learning-rate table (R202): each is formed in
fixed point with 400 fraction bits and rounded once to FP32. DEDUCED (log 12): no FP32 argument lies so near
a rounding boundary that an error below 2^-250 relative changes the rounded result, so the rounded result is
that of the exact mathematical value. -/

namespace Sys2Proof

/-- The fraction bits of the fixed-point work. -/
def fxBits : Nat := 400

/-- 1 in fixed point. -/
def fxOne : Int := 2 ^ fxBits

/-- The fixed-point product. -/
def fxMul (a b : Int) : Int := a * b / fxOne

/-- A fraction in fixed point, rounded toward minus infinity. -/
def fxOf (neg : Bool) (n d : Nat) : Int :=
  (if neg then -(n : Int) else (n : Int)) * fxOne / (d : Int)

/-- Σ x^k / k! from the k-th term on. -/
def fxExpSum (x : Int) : Nat → Int → Nat → Int
  | 0, _, _ => 0
  | fuel + 1, term, k => term + fxExpSum x fuel (fxMul term x / (k + 1 : Nat)) (k + 1)

/-- e^x of a fixed-point x below 1 in magnitude. -/
def fxExp (x : Int) : Int := fxExpSum x 110 fxOne 0

/-- Σ z^(2k+1) / (2k+1), half the logarithm of (1 + z) / (1 − z). -/
def fxAtanhSum (z2 : Int) : Nat → Int → Nat → Int
  | 0, _, _ => 0
  | fuel + 1, term, k => term / (2 * k + 1 : Nat) + fxAtanhSum z2 fuel (fxMul term z2) (k + 1)

/-- ln m of a fixed-point m from 1 to 2. -/
def fxLn (m : Int) : Int :=
  let z := (m - fxOne) * fxOne / (m + fxOne)
  2 * fxAtanhSum (fxMul z z) 140 z 0

/-- ln 2 in fixed point. -/
def fxLn2 : Int := fxLn (2 * fxOne)

/-- A fixed-point value as an exact value. -/
def fxVal (x : Int) : Val := .fin (decide (x < 0)) x.natAbs (2 ^ fxBits)

/-- e^x as a value, for |x| below 256. -/
def expFx (x : Int) : Val :=
  let k := x / fxLn2
  (fxVal (fxExp (x - k * fxLn2))).mul (.dyadic false 1 k)

/-- The exact mathematical e^v to well beyond FP32 precision. Arguments beyond ±256 leave the FP32 range by
far and are held there. -/
def Val.exp : Val → Val
  | .nan => .nan
  | .inf s => if s then .fin false 0 1 else .inf false
  | .fin s n d =>
    if n = 0 then .fin false 1 1
    else if 256 * d < n then .dyadic false 1 (if s then -300 else 300)
    else expFx (fxOf s n d)

/-- ln v (R122): ln(±0) = −∞, a negative argument gives NaN, ln 1 = +0. -/
def Val.log : Val → Val
  | .nan => .nan
  | .inf s => if s then .nan else .inf false
  | .fin s n d =>
    if n = 0 then .inf true
    else if s then .nan
    else if n = d then .fin false 0 1
    else
      let k := floorLog2 n d
      let p := overPow2 n d k
      fxVal (k * fxLn2 + fxLn (fxOf false p.1 p.2))

/-- 1 / v. -/
def Val.recip (v : Val) : Val := (Val.fin false 1 1).div v

/-- The integer square root of x, by Newton's steps from above; fuel bounds the steps. -/
def isqrtFrom : Nat → Nat → Nat → Nat
  | 0, _, r => r
  | fuel + 1, x, r =>
    let r' := (r + x / r) / 2
    if r' < r then isqrtFrom fuel x r' else r

/-- ⌊√x⌋. -/
def isqrt (x : Nat) : Nat :=
  if x = 0 then 0 else isqrtFrom (Nat.log2 x + 8) x (2 ^ (Nat.log2 x / 2 + 1))

/-- √(n / d) of a non-negative fraction, exact where it is a ratio of squares at the working precision, and
otherwise a value strictly between its neighbours, which rounds as the root does. -/
def sqrtFrac (n d : Nat) : Val :=
  let x := n * 2 ^ (2 * fxBits) / d
  let r := isqrt x
  if r * r * d = n * 2 ^ (2 * fxBits) then .fin false r (2 ^ fxBits)
  else .fin false (2 * r + 1) (2 ^ (fxBits + 1))

/-- √v; a negative argument gives NaN. -/
def Val.sqrt : Val → Val
  | .nan => .nan
  | .inf s => if s then .nan else .inf false
  | .fin s n d => if n = 0 then .fin s 0 1 else if s then .nan else sqrtFrac n d

/-- 1 / √v (R122): RSQRT(±0) = ±∞, and a negative argument gives NaN. -/
def Val.rsqrt : Val → Val
  | .nan => .nan
  | .inf s => if s then .nan else .fin false 0 1
  | .fin s n d => if n = 0 then .inf s else if s then .nan else sqrtFrac d n

/-- tanh v (R122). Beyond ±64 the value is within 2^-180 of ±1 and is taken as ±1, as it rounds. -/
def Val.tanh : Val → Val
  | .nan => .nan
  | .inf s => .fin s 1 1
  | .fin s n d =>
    if n = 0 then .fin s 0 1
    else if 64 * d < n then .fin s 1 1
    else
      let e := expFx (2 * fxOf false n d)
      let t := (e.sub (.fin false 1 1)).div (e.add (.fin false 1 1))
      if s then t.neg else t

/-- The series of atan(1/q), from the k-th term on. -/
def fxAtanInvSum (q2 : Nat) : Nat → Int → Nat → Int
  | 0, _, _ => 0
  | fuel + 1, term, k =>
    (if k % 2 = 0 then term / (2 * k + 1 : Nat) else -(term / (2 * k + 1 : Nat)))
      + fxAtanInvSum q2 fuel (term / (q2 : Int)) (k + 1)

/-- atan(1/q) in fixed point. -/
def fxAtanInv (q : Nat) : Int := fxAtanInvSum (q * q) 180 (fxOne / (q : Int)) 0

/-- π in fixed point, by Machin's formula 16 atan(1/5) − 4 atan(1/239). -/
def fxPi : Int := 16 * fxAtanInv 5 - 4 * fxAtanInv 239

/-- Σ (−1)^k x^(2k) / (2k)!. -/
def fxCosSum (x2 : Int) : Nat → Int → Nat → Int
  | 0, _, _ => 0
  | fuel + 1, term, k => term - fxCosSum x2 fuel (fxMul term x2 / ((2 * k + 1) * (2 * k + 2) : Nat)) (k + 1)

/-- cos x of a fixed-point x of magnitude at most 4. -/
def fxCos (x : Int) : Int := fxCosSum (fxMul x x) 90 fxOne 0

end Sys2Proof
end

