-- ==== Sys2Proof/Machine/Windows.lean ====
section
/-! DEFINITION. Windows (R111, R155, R156, R158): their attributes, where their bytes lie in scratchpad and
loft, and reading and packing elements (R88). Local address of a die: scratchpad from 0, loft die A from
2^32 and loft die B from 2^32 + 2^31, each laid out as R162 lays out its device address range. -/

namespace Sys2Proof.Machine

/-- A tun's share of a die's scratchpad and loft lines (R163, R378). -/
structure Share where
  spLine0 : Nat := 0
  spLines : Nat := 0
  loftLine0 : Nat := 0
  loftLines : Nat := 0
  deriving DecidableEq, Repr

/-- WIN_LVL. -/
def winLvl (w : BitVec 128) : Nat := field w 0 2
/-- WIN_BANK0. -/
def winBank0 (w : BitVec 128) : Nat := field w 2 6
/-- WIN_NBANKS. -/
def winNBanks (w : BitVec 128) : Nat := field w 8 7
/-- WIN_LINE. -/
def winLine (w : BitVec 128) : Nat := field w 15 20
/-- WIN_ROWS. -/
def winRows (w : BitVec 128) : Nat := field w 35 16
/-- WIN_FMT as a code. -/
def winFmt (w : BitVec 128) : Nat := field w 51 5
/-- Whether the format attribute of a window is a code that R83 gives. -/
def fmtOk (w : BitVec 128) : Bool := (Fmt.ofCode (winFmt w)).isSome
/-- WIN_LAYOUT: feed layout. -/
def winFeed (w : BitVec 128) : Bool := flag w 56
/-- The tile width TW (R111, WIN_TW). -/
def winTw (w : BitVec 128) : Nat := 1024 / 2 ^ (field w 57 3)
/-- The feed depth (WIN_D). -/
def winDepth (w : BitVec 128) : Nat := 2 ^ (field w 60 2)
/-- The block size (WIN_BS). -/
def winBs (w : BitVec 128) : Nat := if flag w 62 then 16 else 32
/-- WIN_COR, consume on read. -/
def winCor (w : BitVec 128) : Bool := flag w 63
/-- Rows of A or columns of B present. -/
def winExtMn (w : BitVec 128) : Nat := field w 64 9 + 1
/-- Inner elements present. -/
def winExtK (w : BitVec 128) : Nat := field w 73 14 + 1
/-- The statistics slot converts into the window fold into, if set. -/
def winStatSlot (w : BitVec 128) : Option Nat := if flag w 87 then some (field w 88 9) else none
/-- The scale companion, if any. -/
def winComp (w : BitVec 128) : Option Nat := if flag w 97 then some (field w 98 10) else none
/-- WIN_BYTE. -/
def winByte (w : BitVec 128) : Nat := field w 108 6

/-- The bits of a format code's element; 32 for a reserved code. -/
def fmtBits (c : Nat) : Nat := match Fmt.ofCode c with
  | some f => f.bits
  | none => 32

/-- The bytes a window holds (R156). -/
def winBytes (w : BitVec 128) : Nat := winRows w * 128 * fmtBits (winFmt w)

/-- The window's memory: 0 scratchpad, 1 loft die A, 2 loft die B. -/
def winMem (w : BitVec 128) : Nat := winLvl w - 1

/-- The local address of bank b, line l of the tun's share in memory m (0 scratchpad, 1 loft die A, 2 loft
die B), byte 0 (R156, R162). -/
def lineAddr (sh : Share) (m b l : Nat) : Nat :=
  if m = 0 then 4096 * (sh.spLine0 + l) + 64 * b
  else 2 ^ 32 + (m - 1) * 2 ^ 31 + 2048 * (sh.loftLine0 + l) + 64 * b

/-- The local address of byte x of a window (R156). -/
def winAddr (sh : Share) (w : BitVec 128) (x : Nat) : Nat :=
  let y := x + winByte w
  let l := y / 64
  lineAddr sh (winMem w) (winBank0 w + l % winNBanks w) (winLine w + l / winNBanks w) + y % 64

/-- Word i (32 bits) of a statistics slot's record (R133). -/
def statWord (t : StatSlot) (i : Nat) : Nat :=
  match i with
  | 0 => t.amax.toNat
  | 1 => t.hmax.toNat
  | 2 => t.valid + 32 * t.head + (if t.valid < 16 then 512 else 0) + (if t.nan then 1024 else 0)
      + (if t.pushed then 2048 else 0) + 4096 * t.prevValid
  | 3 => t.overs
  | 4 => t.over2
  | 5 => t.under
  | 6 => t.disp0.toNat
  | 7 => t.disp1.toNat
  | _ => if 16 ≤ i ∧ i < 32 then (Tbl.get 0 t.hist (i - 16)).toNat else 0

/-- Word i (32 bits) of the step record (R188). -/
def stepWord (r : StepRecord) (i : Nat) : Nat :=
  match i with
  | 0 => bitsOf r.t 0 32
  | 1 => bitsOf r.t 32 16 + (r.t % 2) * 2 ^ 16
  | 2 => r.eta.toNat
  | 3 => r.lsScale.toNat
  | 4 => r.lsInv.toNat
  | 5 => r.k
  | 6 => r.attempt + (if r.prevNf then 2 ^ 16 else 0)
  | 7 => r.lsClean
  | _ => 0

/-- Byte j of a word of 32 bits. -/
def wordByte (w j : Nat) : Byte := BitVec.ofNat 8 (w / 2 ^ (8 * j))

/-- The byte at a local address as the tun sees it: lines 0 to 15 of its scratchpad share are the statistics
table and line 16 of bank 0 the step record (R156, R188); everything else is the die's memory. -/
def readLocal (sh : Share) (m : Mem) (c : Ctx) (a : Nat) : Byte :=
  let l := a / 4096 - sh.spLine0
  let b := a / 64 % 64
  if a < 2 ^ 32 ∧ sh.spLine0 ≤ a / 4096 ∧ l < 16 then
    let off := (64 * l + b) * 64 + a % 64
    wordByte (statWord (Tbl.get {} c.stats (off / 128)) (off % 128 / 4)) (off % 4)
  else if a < 2 ^ 32 ∧ sh.spLine0 ≤ a / 4096 ∧ l = 16 ∧ b = 0 then
    wordByte (stepWord c.stepRec (a % 64 / 4)) (a % 4)
  else m.read a

/-- Byte x of a window. -/
def readWin (sh : Share) (m : Mem) (c : Ctx) (w : BitVec 128) (x : Nat) : Byte :=
  readLocal sh m c (winAddr sh w x)

/-- The bits of a window from bit position p on. -/
def readBits (sh : Share) (m : Mem) (c : Ctx) (w : BitVec 128) (bits p : Nat) : Nat :=
  let lo := p / 8
  let hi := (p + bits - 1) / 8
  let x := Bytes.toNat ((List.range (hi - lo + 1)).map fun k => readWin sh m c w (lo + k))
  bitsOf x (p % 8) bits

/-- The code at element i of a window whose elements have the given width in bits, packed from bit 0 of the
window's first byte (R88). -/
def readElem (sh : Share) (m : Mem) (c : Ctx) (w : BitVec 128) (bits i : Nat) : Nat := readBits sh m c w bits (i * bits)

/-- The window table entry of window n. -/
def Ctx.win (c : Ctx) (n : Nat) : BitVec 128 := Tbl.get 0 c.windows n

/-- The code of element i of window n in its own format. -/
def elemOf (sh : Share) (m : Mem) (c : Ctx) (n i : Nat) : Nat :=
  readElem sh m c (c.win n) (fmtBits (winFmt (c.win n))) i

/-- The value of element i of window n. -/
def valOf (sh : Share) (m : Mem) (c : Ctx) (n i : Nat) : Val :=
  match Fmt.ofCode (winFmt (c.win n)) with
  | some f => f.decode (elemOf sh m c n i)
  | none => .nan

/-- The linear element index of element (i, κ) of a feed-layout window (R158). -/
def feedIndex (w : BitVec 128) (i k : Nat) : Nat :=
  let d := winDepth w
  ((k / d) * winExtMn w + i) * d + k % d

/-- A bit stream of codes of one width, packed little-endian into bytes (R88). -/
def packCodes (bits : Nat) (codes : List Nat) : Bytes :=
  let x := codes.foldr (fun c acc => c % 2 ^ bits + acc * 2 ^ bits) 0
  bytesOfNat ((codes.length * bits + 7) / 8) x

/-- The bytes from byte x of a window on, as writes at local addresses. -/
def winWrites (sh : Share) (w : BitVec 128) (x : Nat) (bs : Bytes) : List (Nat × Bytes) :=
  (List.range bs.length).map fun i => (winAddr sh w (x + i), [bs.getD i 0])

/-- The memory after a list of writes, in order. -/
def applyWrites (m : Mem) (ws : List (Nat × Bytes)) : Mem :=
  ws.foldl (fun m p => m.writeBytes p.1 p.2) m

/-- Whether a window reaches into the statistics table (R133, R156): scratchpad lines below 16. -/
def winOverStats (w : BitVec 128) : Bool :=
  winLvl w == 1 && decide (winLine w < 16)

end Sys2Proof.Machine
end

