-- ==== Sys2Proof/Machine/PassArith.lean ====
section
/-! DEFINITION. The arithmetic of a pass: depth and class (R58), products, alignment, sums, scales and
accumulation (R93 to R98), block-scale sums out of range (R144) and zero points (R145, R146). -/

namespace Sys2Proof

/-- Whether a format is one of the 3-bit class's operands (R58). -/
def Fmt.is3 : Fmt → Bool
  | .e1m1 | .t2 => true
  | _ => false

/-- Whether a format is one of the 4-bit class's operands (R58). -/
def Fmt.is4 : Fmt → Bool
  | .e2m1 | .e1m1 | .int3 | .t2 => true
  | _ => false

/-- Whether a format is one of the 8-bit class's own operands (R58). -/
def Fmt.is8 : Fmt → Bool
  | .e3m2 | .e2m3 | .e4m3 | .e5m2 | .int4 => true
  | _ => false

/-- Whether a format is BF16 or FP16. -/
def Fmt.is16 : Fmt → Bool
  | .bf16 | .fp16 => true
  | _ => false

/-- Whether an operand format carries a zero point (R145, R147). -/
def Fmt.hasZp : Fmt → Bool
  | .int4 | .int3 => true
  | _ => false

end Sys2Proof

namespace Sys2Proof.Machine

/-- The fields of the matrix array group (R35), relative to its bit 0. -/
def arrOp (a : BitVec 96) : Nat := field a 0 4
/-- BANK. -/
def arrBank (a : BitVec 96) : Nat := field a 4 1
/-- A_WIN. -/
def arrA (a : BitVec 96) : Nat := field a 5 10
/-- B_WIN. -/
def arrB (a : BitVec 96) : Nat := field a 15 10
/-- A_FMT. -/
def arrAFmt (a : BitVec 96) : Nat := field a 25 5
/-- B_FMT. -/
def arrBFmt (a : BitVec 96) : Nat := field a 30 5
/-- LONG_SUM. -/
def arrLong (a : BitVec 96) : Bool := flag a 35
/-- DELAYED. -/
def arrDelayed (a : BitVec 96) : Bool := flag a 36
/-- PRE_WIN. -/
def arrPre (a : BitVec 96) : Nat := field a 37 10
/-- DEPTH. -/
def arrDepth (a : BitVec 96) : Nat := field a 47 12
/-- SCALE_WIN. -/
def arrScale (a : BitVec 96) : Nat := field a 59 10
/-- AMAX_SLOT. -/
def arrSlot (a : BitVec 96) : Nat := field a 69 9
/-- The reserved bits [95:78]. -/
def arrReserved (a : BitVec 96) : Nat := field a 78 18

/-- The inner depth per cycle and the accumulator class of an operand pair; none is an illegal pair (R58,
R59). -/
def pairClass (a b : Fmt) : Option (Nat × AccClass) :=
  if a.is3 && b.is3 then some (8, .fp)
  else if (a == .t2 && (b == .e2m1 || b == .int3)) || (b == .t2 && (a == .e2m1 || a == .int3)) then some (8, .fp)
  else if a.is4 && b.is4 then some (4, .fp)
  else if (a.is8 || b.is8) && (a.is8 || a.is4) && (b.is8 || b.is4) then some (2, .fp)
  else if a == .int8 && b == .int8 then some (2, .int)
  else if (a.is16 || b.is16) && (a.is16 || a.is8 || a.is4) && (b.is16 || b.is8 || b.is4) then some (1, .fp)
  else none

/-- An operand of a product: a NaN, an infinity, or ± k × 2^e where e is the weight of its least
significant bit (R93). -/
inductive Opd where
  | nan
  | inf (neg : Bool)
  | fin (neg : Bool) (k : Nat) (e : Int)
  deriving DecidableEq, Repr

/-- The operand a float code is (R93). -/
def opdFloat (f : Fmt) (p : FloatSpec) (c : Nat) : Opd :=
  match f.decode c with
  | .nan => .nan
  | .inf s => .inf s
  | .fin s n _ =>
    if n = 0 then .fin s 0 0
    else
      let e := c / 2 ^ p.fbits % 2 ^ p.ebits
      .fin s (2 ^ p.fbits + c % 2 ^ p.fbits) ((e : Int) - p.bias - p.fbits)

/-- The operand a small integer is once expanded to a float with fb fraction bits (R131). -/
def opdInt (fb : Nat) (x : Int) : Opd :=
  if x = 0 then .fin false 0 0
  else
    let m := x.natAbs
    let e := Nat.log2 m
    .fin (decide (x < 0)) (m * 2 ^ fb / 2 ^ e) ((e : Int) - fb)

/-- The operand a stored code is after the feeder's expansion (R131, R132). -/
def opdOf (f : Fmt) (c : Nat) : Opd :=
  match f with
  | .int4 => opdInt 2 (signed 4 c)
  | .int3 => opdInt 1 (signed 3 c)
  | .t2 => match f.decode c with
    | .fin s n _ => .fin s n 0
    | _ => .nan
  | .e1m1 => .fin (c / 4 % 2 == 1) (c % 4) 0
  | g => match g.float? with
    | some p => opdFloat g p c
    | none => .nan

/-- A product (R93, R94). -/
def Opd.mul : Opd → Opd → Opd
  | .nan, _ | _, .nan => .nan
  | .inf a, .inf b => .inf (a != b)
  | .inf a, .fin b k _ => if k = 0 then .nan else .inf (a != b)
  | .fin a k _, .inf b => if k = 0 then .nan else .inf (a != b)
  | .fin a k e, .fin b l f => .fin (a != b) (k * l) (e + f)

/-- The largest least-significant-bit exponent among the finite non-zero products (R93 step 2). -/
def maxLsb : List Opd → Option Int
  | [] => none
  | .fin _ k e :: t =>
    if k = 0 then maxLsb t
    else match maxLsb t with
      | none => some e
      | some m => some (if m < e then e else m)
  | _ :: t => maxLsb t

/-- A product's magnitude in units of 2^g, bits of lower weight dropped (R93 step 2). -/
def alignTo (g : Int) (k : Nat) (e : Int) : Nat :=
  if g ≤ e then k * 2 ^ (e - g).toNat else k / 2 ^ (g - e).toNat

/-- The inner sum of a list of products as an exact value (R93, R94); zeros of one sign keep it (R92). -/
def innerSum (ps : List Opd) : Val :=
  if ps.any (fun p => match p with | .nan => true | _ => false) then .nan
  else
    let pos := ps.any fun p => match p with | .inf false => true | _ => false
    let neg := ps.any fun p => match p with | .inf true => true | _ => false
    if pos && neg then .nan
    else if pos then .inf false
    else if neg then .inf true
    else match maxLsb ps with
      | none => .fin (!ps.isEmpty && ps.all fun p => match p with | .fin a _ _ => a | _ => false) 0 1
      | some l =>
        let g := l - 3
        let x : Int := ps.foldl (fun s p => match p with
          | .fin a k e => if a then s - (alignTo g k e : Int) else s + (alignTo g k e : Int)
          | _ => s) 0
        if x = 0 then .fin false 0 1 else .dyadic (decide (x < 0)) x.natAbs g

/-- The finaliser of R97, on 64 bits. -/
def mix64 (x : BitVec 64) : BitVec 64 :=
  let x := (x ^^^ (x >>> 30)) * 0xBF58476D1CE4E5B9
  let x := (x ^^^ (x >>> 27)) * 0x94D049BB133111EB
  x ^^^ (x >>> 31)

/-- The random word of a pass for output (row, column) at position p (R97). -/
def passWord (key p row col : Nat) : Nat :=
  (mix64 (mix64 (BitVec.ofNat 64 key ^^^ BitVec.ofNat 64 p)
    ^^^ BitVec.ofNat 64 (row * 512 + col))).toNat % 65536

/-- The random word of a stochastic convert for lane l at position p (R97). -/
def convertWord (key p l : Nat) : Nat :=
  (mix64 (mix64 (BitVec.ofNat 64 key ^^^ BitVec.ofNat 64 p)
    ^^^ BitVec.ofNat 64 (2 ^ 24 + l))).toNat % 65536

/-- The generator position after SYNC_OP 0x03 (R97). -/
def genAdvance (g : Nat) : Nat := ((g / 2 ^ 40 + 1) % 2 ^ 24) * 2 ^ 40

/-- The accumulator after adding a scaled inner sum, rounded once (R95). -/
def accumulate (m : Rnd) (acc : Word32) (v : Val) : Word32 :=
  BitVec.ofNat 32 (Fmt.conv .fp32 m true ((Val.of32 acc).add v)).code

/-- Whether an operand is a NaN or an infinity. -/
def Opd.special : Opd → Bool
  | .fin _ _ _ => false
  | _ => true

/-- What a pass reads and how (R35, R58, R61). -/
structure PassOps where
  fa : Fmt
  fb : Fmt
  wa : Nat
  wb : Nat
  ws : Nat
  d : Nat
  cls : AccClass
  steps : Nat
  long : Bool
  delayed : Bool
  slot : Nat
  /-- subtracted from every combined block-scale exponent in a recompute (R141) -/
  beta : Nat
  gen : Nat
  key : Nat
  deriving DecidableEq, Repr

/-- What a pass finds beside its results: saturations, flushed pairs and the largest exponent above range. -/
structure PassNotes where
  intSat : Nat := 0
  under : Nat := 0
  high : Option Nat := none
  deriving DecidableEq, Repr

/-- The code of element (i, κ) of an operand window, read in the format the pass names (R35), none beyond
the window's extents. -/
def feedCode (sh : Share) (m : Mem) (c : Ctx) (f : Fmt) (n i k : Nat) : Option Nat :=
  let w := c.win n
  if winExtMn w ≤ i ∨ winExtK w ≤ k then none else some (readElem sh m c w f.bits (feedIndex w i k))

/-- The operand of element (i, κ) of an operand window: zero beyond its extents (R158). -/
def feedOpd (sh : Share) (m : Mem) (c : Ctx) (f : Fmt) (n i k : Nat) : Opd :=
  match feedCode sh m c f n i k with
  | some x => opdOf f x
  | none => .fin false 0 0

/-- The scale byte of A row i in block b of the scale window, and of B column j at 512 + j (R158). -/
def scaleCode (sh : Share) (m : Mem) (c : Ctx) (n b i : Nat) : Nat :=
  (readWin sh m c (c.win n) (1024 * b + i)).toNat

/-- How the block scales of a pair bear on its inner sum. -/
inductive PairScale where
  | nan
  | flushed
  | skip
  | exp (s : Int)
  | mul (x y : Val)
  deriving DecidableEq, Repr

/-- The combined exponent of a pair of E8M0 codes, less β (R144). -/
def e8m0Sum (x y beta : Nat) : Int := ((x : Int) - 127) + ((y : Int) - 127) - beta

/-- The scale of a pair of blocks (R61, R94, R144). -/
def pairScale (fmt : Nat) (delayed : Bool) (beta x y : Nat) : PairScale :=
  match Fmt.ofCode fmt with
  | some .e8m0 =>
    if x = 255 ∨ y = 255 then .nan
    else
      let s := e8m0Sum x y beta
      if s < -127 then .flushed
      else if 127 < s then (if delayed then .skip else .exp 127)
      else .exp s
  | some .ue4m3 =>
    let a := Fmt.ue4m3.decode x
    let b := Fmt.ue4m3.decode y
    if a.isNan || b.isNan then .nan else .mul a b
  | some .int32 => .exp 0
  | _ => .mul (Val.of32 (Config.openScale fmt x)) (Val.of32 (Config.openScale fmt y))

/-- An inner sum after its block scales (R93 step 4): a UE4M3 scale of zero makes it zero, whatever it is. -/
def PairScale.apply (p : PairScale) (v : Val) : Val :=
  match p with
  | .nan => .nan
  | .flushed | .skip => .fin false 0 1
  | .exp s => v.mul (.dyadic false 1 s)
  | .mul x y => if x.isZero || y.isZero then .fin v.negative 0 1 else (v.mul x).mul y

/-- Element i of row r of the zero-point record (R145). -/
def zpElem (sh : Share) (m : Mem) (c : Ctx) (n r i : Nat) : Int :=
  signed 32 (elemOf sh m c n (1024 * r + i))

/-- The exact value of an operand. -/
def Opd.val : Opd → Val
  | .nan => .nan
  | .inf s => .inf s
  | .fin s k e => .dyadic s k e

/-- The correction −zw_j × RS_i + za_i × v_j of a zero-point pass (R146). -/
def zpCorrection (sh : Share) (m : Mem) (c : Ctx) (p : PassOps) (i j : Nat) : Val :=
  let k := winExtK (c.win p.wa)
  let za : Int := if p.fa.hasZp then zpElem sh m c p.ws 0 i else 0
  let zw : Int := if p.fb.hasZp then zpElem sh m c p.ws 0 (512 + j) else 0
  let rs := (List.range k).foldl (fun s x => s.add (feedOpd sh m c p.fa p.wa i x).val) (.fin false 0 1)
  let cs : Int := (List.range ((k + 255) / 256)).foldl
    (fun s x => s + zpElem sh m c p.ws (1 + x / 2) (512 * (x % 2) + j)) 0
  let v : Int := (k : Int) * zw - cs
  let t1 := if zw = 0 then Val.fin false 0 1 else (Val.ofInt (-zw)).mul rs
  let t2 := if za = 0 then Val.fin false 0 1 else Val.ofInt (za * v)
  t1.add t2

/-- The products of inner step k for output (i, j). -/
def stepProducts (sh : Share) (m : Mem) (c : Ctx) (p : PassOps) (k i j : Nat) : List Opd :=
  (List.range p.d).map fun x =>
    (feedOpd sh m c p.fa p.wa i (k * p.d + x)).mul (feedOpd sh m c p.fb p.wb j (k * p.d + x))

/-- Inner step k of a float-class pass on one accumulator (R93 to R96, R146). -/
def floatStep (sh : Share) (m : Mem) (c : Ctx) (p : PassOps) (i j : Nat) (acc : Word32) (k : Nat) : Word32 :=
  let zp := winFmt (c.win p.ws) == 0x10
  let rnd := if p.long then Rnd.stochastic (passWord p.key (p.gen + k) i j) else Rnd.nearest
  if zp && k + 1 == p.steps then accumulate rnd acc (zpCorrection sh m c p i j)
  else
    let b := k * p.d / winBs (c.win p.wa)
    let sc := if zp then PairScale.exp 0
      else pairScale (winFmt (c.win p.ws)) p.delayed p.beta
        (scaleCode sh m c p.ws b i) (scaleCode sh m c p.ws b (512 + j))
    accumulate rnd acc (sc.apply (innerSum (stepProducts sh m c p k i j)))

/-- Inner step k of an integer-class pass on one accumulator, and whether it saturated (R95). -/
def intStep (sh : Share) (m : Mem) (c : Ctx) (p : PassOps) (i j : Nat) (s : Word32 × Nat) (k : Nat) :
    Word32 × Nat :=
  let e (n r x : Nat) : Int := match feedCode sh m c .int8 n r x with
    | some y => signed 8 y
    | none => 0
  let sum : Int := (List.range p.d).foldl (fun t x => t + e p.wa i (k * p.d + x) * e p.wb j (k * p.d + x)) 0
  let y := signed 32 s.1.toNat + sum
  let z := clampInt (-(2 ^ 31)) (2 ^ 31 - 1) y
  (BitVec.ofInt 32 z, if y = z then s.2 else s.2 + 1)

/-- The steps of a pass that can meet an element within an extent; every later step adds +0. -/
def realSteps (c : Ctx) (p : PassOps) : Nat :=
  let k := max (winExtK (c.win p.wa)) (winExtK (c.win p.wb))
  min p.steps ((k + p.d - 1) / p.d)

/-- An accumulator after a step that adds +0 to it. -/
def padStep (cls : AccClass) (acc : Word32) : Word32 :=
  match cls with
  | .fp => accumulate .nearest acc (.fin false 0 1)
  | .int => acc

/-- Whether the scale byte of line x in block b is a NaN (R87, R94): of A row x, or of B column x − 512. -/
def scaleNan (sh : Share) (m : Mem) (c : Ctx) (p : PassOps) (b x : Nat) : Bool :=
  let w := c.win p.ws
  decide (1024 * (b + 1) ≤ winBytes w) && (match Fmt.ofCode (winFmt w) with
    | some .e8m0 => scaleCode sh m c p.ws b x == 255
    | some .ue4m3 => (Fmt.ue4m3.decode (scaleCode sh m c p.ws b x)).isNan
    | _ => false)

/-- The blocks of inner elements that the steps of a pass reach. -/
def passBlocks (c : Ctx) (p : PassOps) : Nat := ceilDiv (p.steps * p.d) (winBs (c.win p.wa))

/-- Whether a line of an operand bears on outputs where the other operand is padding: it holds a NaN or an infinity, which the
padding's zeros make a NaN, or a NaN scale, which makes the inner sums of every block it covers NaN (R94, R158; DEDUCED, log
entry 104). Row i of A is line i, column j of B is line 512 + j. -/
def lineSpecial (sh : Share) (m : Mem) (c : Ctx) (p : PassOps) (x : Nat) : Bool :=
  let f := if x < 512 then p.fa else p.fb
  let n := if x < 512 then p.wa else p.wb
  let k := min (winExtK (c.win n)) (p.steps * p.d)
  (decide (x % 512 < winExtMn (c.win n)) && (List.range k).any fun y => (feedOpd sh m c f n (x % 512) y).special)
    || (List.range (passBlocks c p)).any fun b => scaleNan sh m c p b x

/-- One accumulator after a whole pass, and the saturated additions (R95, R146). full asks for every step, those past the
extents too. -/
def passOutput (sh : Share) (m : Mem) (c : Ctx) (p : PassOps) (full : Bool) (i j : Nat) (acc : Word32) : Word32 × Nat :=
  let n := if full then p.steps else realSteps c p
  match p.cls with
  | .int => (List.range n).foldl (intStep sh m c p i j) (acc, 0)
  | .fp =>
    let a := (List.range n).foldl (floatStep sh m c p i j) acc
    let b := if n < p.steps then padStep .fp a else a
    (if winFmt (c.win p.ws) == 0x10 && n < p.steps then floatStep sh m c p i j b (p.steps - 1) else b, 0)

/-- The value of accumulator (i, j) of a bank. -/
def Bank.val (b : Bank) (i j : Nat) : Word32 :=
  match b.acc.find (512 * i + j) with
  | some x => x
  | none => Tbl.get 0 b.base j

/-- The blocks of inner elements within both extents. -/
def realBlocks (c : Ctx) (p : PassOps) : Nat :=
  let k := min (winExtK (c.win p.wa)) (winExtK (c.win p.wb))
  let bs := winBs (c.win p.wa)
  (min k (p.steps * p.d) + bs - 1) / bs

/-- What R144 counts over the real block pairs of a pass with E8M0 scales. -/
def scaleNotes (sh : Share) (m : Mem) (c : Ctx) (p : PassOps) (rows cols : Nat) (n0 : PassNotes) : PassNotes :=
  if winFmt (c.win p.ws) ≠ 0x0E then n0
  else
    (List.range (realBlocks c p)).foldl (fun n b =>
      (List.range rows).foldl (fun n i =>
        (List.range cols).foldl (fun n j =>
          let x := scaleCode sh m c p.ws b i
          let y := scaleCode sh m c p.ws b (512 + j)
          if x = 255 ∨ y = 255 then n
          else
            let s := e8m0Sum x y p.beta
            if s < -127 then { n with under := n.under + 1 }
            else if 127 < s then { n with high := some (max (n.high.getD 0) (s - 127).toNat) }
            else n) n) n) n0

/-- The 3-bit residue modulo 7 that a bank holds with an accumulator word (R74): of the magnitude of an INT32 word, of the 24-bit
significand of an FP32 one. -/
def Bank.residue (b : Bank) (i j : Nat) : BitVec 3 :=
  let w := b.val i j
  BitVec.ofNat 3 (match b.cls with
    | some .int => w.toInt.natAbs % 7
    | _ => (if field w 23 8 = 0 then field w 0 23 else field w 0 23 + 2 ^ 23) % 7)

/-- The accumulators a pass must work out one by one: those within the operands' extents and the presented width, those of
the padding that a line with specials, or a zero-point record, bears on, and those of the padding that hold a negative zero, whose
sum with the products of the padding's zeros has the sign R92 gives it. -/
def passCells (c : Ctx) (p : PassOps) (b : Bank) (rows cols width : Nat) (specA specB : List Nat) : List (Nat × Nat) :=
  let inside := (List.range rows).flatMap fun i => (List.range cols).map fun j => (i, j)
  let out (i j : Nat) : Bool := !(decide (i < rows) && decide (j < cols))
  let zp := winFmt (c.win p.ws) == 0x10 && p.cls == .fp
  let lines := if zp then List.range 512 else specA
  let ofA := lines.flatMap fun i => ((List.range width).filter (out i)).map fun j => (i, j)
  let ofB := specB.flatMap fun j => ((List.range 512).filter fun i => out i j && !(lines.contains i)).map fun i => (i, j)
  let minus : Word32 := 0x80000000
  let neg := if p.cls == .fp && ((b.base.any fun x => x.2 == minus) || b.acc.any fun x => x.2 == minus) then
      (List.range 512).flatMap fun i => ((List.range width).filter fun j =>
        out i j && b.val i j == minus && !(lines.contains i) && !(specB.contains j)).map fun j => (i, j)
    else []
  inside ++ ofA ++ ofB ++ neg

/-- A pass on a bank: every accumulator within the operands' extents and the presented width takes the
pass's sum, and every other one takes the padding's zeros against what they meet (R57, R94, R95, R158). -/
def runPass (sh : Share) (m : Mem) (c : Ctx) (p : PassOps) (width : Nat) (b : Bank) : Bank × PassNotes :=
  let rows := winExtMn (c.win p.wa)
  let cols := min (winExtMn (c.win p.wb)) width
  let padded : Bank := { b with base := Tbl.mapVals (padStep p.cls) b.base, acc := Tbl.mapVals (padStep p.cls) b.acc }
  let specA := if p.cls = .fp then (List.range 512).filter (lineSpecial sh m c p) else []
  let specB := if p.cls = .fp then (List.range width).filter fun j => lineSpecial sh m c p (512 + j) else []
  let r := (passCells c p b rows cols width specA specB).foldl (fun (s : Tbl Word32 × Nat) x =>
      let o := passOutput sh m c p (specA.contains x.1 || specB.contains x.2) x.1 x.2 (b.val x.1 x.2)
      (s.1.put (512 * x.1 + x.2) o.1, s.2 + o.2)) (padded.acc, 0)
  let notes0 : PassNotes := { intSat := r.2 }
  ({ padded with acc := r.1, cls := some p.cls },
   match p.cls with
   | .fp => scaleNotes sh m c p rows cols notes0
   | .int => notes0)

end Sys2Proof.Machine
end

