-- ==== Sys2Proof/Machine/VecArith.lean ====
section
/-! DEFINITION. The lane arithmetic of the vector engine: the operations of R113, conversions (R106),
epilogues (R123), reductions (R121) and softmax (R124 to R126), and what each writes. -/

namespace Sys2Proof.Machine

/-- VEC_OP (R36). -/
def vecOp (v : BitVec 64) : Nat := field v 0 8
/-- SRC_A. -/
def vecA (v : BitVec 64) : Nat := field v 8 10
/-- SRC_B. -/
def vecB (v : BitVec 64) : Nat := field v 18 10
/-- DST. -/
def vecDst (v : BitVec 64) : Nat := field v 28 10
/-- MASK. -/
def vecMask (v : BitVec 64) : Nat := field v 38 4
/-- BCAST. -/
def vecBcast (v : BitVec 64) : Nat := field v 42 2
/-- FMT as a code. -/
def vecFmt (v : BitVec 64) : Nat := field v 44 5
/-- RND. -/
def vecRnd (v : BitVec 64) : Nat := field v 49 2
/-- OVF: IEEE mode. -/
def vecOvf (v : BitVec 64) : Bool := flag v 51
/-- ACC_SRC. -/
def vecAcc (v : BitVec 64) : Bool := flag v 52
/-- LEN: the window rows of the operation; zero means 2,048. -/
def vecLen (v : BitVec 64) : Nat := if field v 53 11 = 0 then 2048 else field v 53 11

/-- The sum of two counter increments. -/
def VecDelta.add (a b : VecDelta) : VecDelta :=
  { elems := a.elems + b.elems, sat := a.sat + b.sat, inf := a.inf + b.inf, flush := a.flush + b.flush,
    nanLost := a.nanLost + b.nanLost, nonfinite := a.nonfinite || b.nonfinite, rows := a.rows + b.rows,
    invalid := a.invalid + b.invalid, divZero := a.divZero + b.divZero, intSat := a.intSat + b.intSat,
    smEmpty := a.smEmpty + b.smEmpty, smInf := a.smInf + b.smInf, smNan := a.smNan + b.smNan }

/-- A code a lane writes and what it counts. -/
structure LaneOut where
  code : Nat
  d : VecDelta := {}
  deriving DecidableEq, Repr

/-- One where a condition holds. -/
def bit (b : Bool) : Nat := if b then 1 else 0

/-- A conversion's code and counts as a conversion-class lane result (R110). -/
def convOut (c : Conv) : LaneOut :=
  { code := c.code,
    d := { elems := 1, sat := bit c.sat, inf := bit c.inf, flush := bit c.flush, nanLost := bit c.nanLost,
           nonfinite := c.nonfinite } }

/-- The rounding of a lane (R99), drawing its random word where the mode is stochastic. -/
def laneRnd (rnd key pos row l : Nat) : Rnd :=
  if rnd = 1 then .stochastic (convertWord key (pos + row) l) else if rnd = 2 then .odd else .nearest

/-- One FP32 step with the given overflow mode, nearest even. -/
def step32 (ieee : Bool) (v : Val) : Val := Val.of32 (BitVec.ofNat 32 (Fmt.conv .fp32 .nearest ieee v).code)

/-- A finite FP32 constant. -/
def val32 (w : Word32) : Val := Val.of32 w

/-- The FP32 value nearest 0.044 715 (R113). -/
def geluC1 : Val := step32 true (.fin false 44715 1000000)
/-- The FP32 value nearest 0.797 884 56 (R113). -/
def geluC2 : Val := step32 true (.fin false 79788456 100000000)
/-- 0.5. -/
def valHalf : Val := .fin false 1 2
/-- 1. -/
def valOne : Val := .fin false 1 1

/-- TANH as a vector function: rounded once to FP32 (R122). -/
def tanh32 (ieee : Bool) (x : Val) : Val := step32 ieee x.tanh

/-- GELU in the fixed order of R113. -/
def gelu (ieee : Bool) (a : Val) : Val :=
  let r := step32 ieee
  let t1 := r (a.mul a)
  let t2 := r (t1.mul a)
  let t3 := r (geluC1.mul t2)
  let t4 := r (a.add t3)
  let t5 := r (geluC2.mul t4)
  let t6 := tanh32 ieee t5
  let t7 := r (valOne.add t6)
  let h := r (valHalf.mul a)
  r (h.mul t7)

/-- SILU in the fixed order of R113. -/
def silu (ieee : Bool) (a : Val) : Val :=
  let r := step32 ieee
  let h := r (valHalf.mul a)
  let t6 := tanh32 ieee h
  let t7 := r (valOne.add t6)
  r (h.mul t7)

/-- RELU: MAX(a, +0). -/
def relu (a : Val) : Val := a.max (.fin false 0 1)

/-- The exact result of an FP32 lane operation before its one rounding (R113, R117, R122). -/
def arithExact (op : Nat) (ieee : Bool) (a b : Val) : Val :=
  match op with
  | 0x01 => a.add b
  | 0x02 => a.sub b
  | 0x03 => a.mul b
  | 0x04 => a.max b
  | 0x05 => a.min b
  | 0x06 => a.abs
  | 0x07 => a.neg
  | 0x10 => a.exp
  | 0x11 => a.log
  | 0x12 => a.recip
  | 0x13 => a.rsqrt
  | 0x14 => a.tanh
  | 0x18 => relu a
  | 0x19 => gelu ieee a
  | 0x1A => silu ieee a
  | _ => a

/-- Whether an FP32 lane operation reads b. -/
def opBinary (op : Nat) : Bool := decide (1 ≤ op) && decide (op ≤ 5)

/-- Whether an operation is the FP32 arithmetic of 0x01–0x07 and 0x10–0x1A. -/
def opArith (op : Nat) : Bool :=
  (decide (1 ≤ op) && decide (op ≤ 7)) || (decide (0x10 ≤ op) && decide (op ≤ 0x14))
    || (decide (0x18 ≤ op) && decide (op ≤ 0x1A))

/-- An FP32 lane result: its code, and the invalid and zero-divisor counts of R117. -/
def laneArith (op : Nat) (m : Rnd) (ieee : Bool) (a b : Val) : LaneOut :=
  let r := Fmt.conv .fp32 m ieee (arithExact op ieee a b)
  let nan := (Val.of32 (BitVec.ofNat 32 r.code)).isNan
  let src := a.isNan || (opBinary op && b.isNan)
  { code := r.code,
    d := { invalid := bit (nan && !src),
           divZero := bit ((op == 0x11 || op == 0x12 || op == 0x13) && a.isZero) } }

/-- A copied code: bit for bit, subnormals as zeros of their sign (R91, R113). A T2 code 0b10 is copied as it stands: R86 says
that code is never written, and R113 that COPY is bit for bit; the model takes R113 (DESIGN CHOICE, log entry 105). -/
def copyCode (f : Fmt) (c : Nat) : Nat :=
  match f.float? with
  | some _ => match f.decode c with
    | .fin s 0 _ => f.zeroCode s
    | _ => c
  | none => c

/-- A comparison's mask bit (R113). -/
def laneCmp (op : Nat) (a b : Val) : Bool :=
  if a.isNan || b.isNan then op == 0x23
  else match op with
    | 0x20 => a.lt b
    | 0x21 => a.lt b || a.eq b
    | 0x22 => a.eq b
    | _ => !(a.eq b)

/-- A mask operation's bit (R113). -/
def laneMask (op : Nat) (a b : Bool) : Bool :=
  match op with
  | 0x24 => a && b
  | 0x25 => a || b
  | _ => !a

/-- An integer lane result, saturated (R113, R117). -/
def laneInt (op : Nat) (a b : Int) (col q : Nat) : LaneOut :=
  let x : Int := match op with
    | 0x28 => a + b
    | 0x29 => a - b
    | 0x2A => a * b
    | 0x2B => b + col
    | _ => b + q
  let y := clampInt (-(2 ^ 31)) (2 ^ 31 - 1) x
  { code := (BitVec.ofInt 32 y).toNat, d := { intSat := bit (decide (x ≠ y)) } }

/-- Neighbours added pairwise, each sum rounded to nearest even (R121). -/
def pairSums (ieee : Bool) : List Val → List Val
  | a :: b :: t => step32 ieee (a.add b) :: pairSums ieee t
  | l => l

/-- The fixed pairwise tree of R121 over n levels; OVF governs the addition of every level (DESIGN CHOICE, log entry 106). -/
def treeSum (ieee : Bool) : Nat → List Val → Val
  | 0, l => l.headD (.fin false 0 1)
  | n + 1, l => treeSum ieee n (pairSums ieee l)

/-- The sum of a tile row, levels halving its elements down to one. -/
def rowSum (ieee : Bool) (l : List Val) : Val := treeSum ieee (Nat.log2 l.length) l

/-- The larger of two values for the exact maxima of R121: a NaN wins. -/
def maxOf (l : List Val) (start : Val) : Val := l.foldl Val.max start

/-- The magnitude a value folds: NaN and infinities as +∞ (R134). -/
def foldMag (v : Val) : Word32 :=
  match v with
  | .nan | .inf _ => 0x7F800000
  | w => f32 w.abs

/-- A fold extended by a value. -/
def foldVal (acc : Word32 × Bool) (v : Val) : Word32 × Bool :=
  let w := foldMag v
  (if (Val.of32 acc.1).lt (Val.of32 w) then w else acc.1, acc.2 || v.nonfinite)

/-- The element formats a computed block scale exists for (R106). That an E8M0 scale into any other format makes an illegal slice is
DESIGN CHOICE (log entry 151). -/
def fmtHasEmax : Fmt → Bool
  | .e4m3 | .e5m2 | .e3m2 | .e2m3 | .e2m1 | .e1m1 | .int8 | .int4 | .int3 | .t2 => true
  | _ => false

/-- A positive fraction rounded toward +∞ to UE4M3, held between 2^-6 and 448 (R106). -/
def ue4m3Ceil (n d : Nat) : Nat :=
  if n * 64 ≤ d then 0x08
  else if 448 * d ≤ n then 0x7E
  else
    let e := floorLog2 n d
    let p := overPow2 n d (e - 3)
    let k := (p.1 + p.2 - 1) / p.2
    if k = 16 then ((e + 1 + 7).toNat) * 8 else (e + 7).toNat * 8 + (k - 8)

/-- The scale code CVT_BLK forms from a block's max-abs (R106). -/
def blockScale (target sf : Fmt) (amax : Val) : Nat :=
  match amax with
  | .fin _ n d =>
    if n = 0 then 0
    else if sf = .e8m0 then (clampInt (-127) 127 (floorLog2 n d - target.emax) + 127).toNat
    else match amax.div target.maxMag with
      | .fin _ a b => ue4m3Ceil a b
      | _ => 0x7F
  | _ => if sf = .e8m0 then 0xFF else 0x7F

/-- A NaN written where a block's scale is NaN (R106): canonical NaN or zero, with the non-finite flag. -/
def blockNan (f : Fmt) : LaneOut :=
  let r := convOut (Fmt.conv f .nearest false .nan)
  { r with d := { r.d with nonfinite := true } }

/-- A lane of CVT_BLK, given its block's scale code (R106). The elements of a block whose amax is 0 keep the sign of their zeros
under an E8M0 scale and are +0 under a UE4M3 scale, whose code 0x00 divides nothing (DESIGN CHOICE, log entry 107). -/
def laneBlk (f sf : Fmt) (m : Rnd) (x : Val) (sc : Nat) : LaneOut :=
  match sf.decode sc with
  | .nan => blockNan f
  | s => if sf ≠ .e8m0 ∧ s.isZero then { code := 0, d := { elems := 1 } }
         else convOut (Fmt.conv f m false (x.div s))

/-- A lane of CVT_BLK_S (R106): its elements saturate, as R106 says, with OVF = 1 too, where R102 would give an infinity in
FP32, BF16 or FP16 (DESIGN CHOICE, log entry 108). -/
def laneBlkS (f sf : Fmt) (m : Rnd) (x : Val) (sc : Nat) : LaneOut :=
  match sf.decode sc with
  | .nan => blockNan f
  | s => if s.isZero then { code := 0, d := { elems := 1, flush := bit (!x.isZero) } }
         else convOut (Fmt.conv f m false (x.div s))

/-- A lane of CVT_UNBLK (R106): an infinity times a zero scale is an invalid result (R117). -/
def laneUnblk (f sf : Fmt) (m : Rnd) (ieee : Bool) (x : Val) (sc : Nat) : LaneOut :=
  let s := sf.decode sc
  let y := x.mul s
  let o := convOut (Fmt.conv f m ieee y)
  { o with d := { o.d with invalid := bit (y.isNan && !(x.isNan || s.isNan)) } }

/-- The activation of an epilogue: 0 none, 1 RELU, 2 GELU, 3 SILU, with IEEE overflow (R123). -/
def epiAct (act : Nat) (x : Val) : Val :=
  match act with
  | 1 => relu x
  | 2 => gelu true x
  | 3 => silu true x
  | _ => x

/-- The value an epilogue hands to its final conversion, and its invalid results (R123). -/
def epiValue (acc s b : Val) (act : Nat) (addend : Option Val) : Val × Nat :=
  let x0 := step32 true acc
  let x1 := step32 true (x0.mul s)
  let n1 := bit (x1.isNan && !(x0.isNan || s.isNan))
  let x2 := step32 true (x1.add b)
  let n2 := bit (x2.isNan && !(x1.isNan || b.isNan))
  let x3 := epiAct act x2
  let n3 := bit (x3.isNan && !x2.isNan)
  match addend with
  | none => (x3, n1 + n2 + n3)
  | some d =>
    let x4 := step32 true (x3.add d)
    (x4, n1 + n2 + n3 + bit (x4.isNan && !(x3.isNan || d.isNan)))

/-- x × 2^−D, exact apart from the flush of R92 (R138). A value that this flush makes zero is not counted in VEC_CVT_FLUSH,
which counts what the conversion after it flushes (DESIGN CHOICE, log entry 73). -/
def delayedScale (d : Int) (x : Val) : Val :=
  let y := x.mul (.dyadic false 1 (-d))
  if y.abs.lt (.dyadic false 1 (-126)) then y.mul (.fin false 0 1) else y

/-- A softmax state record (R124). -/
structure SmRec where
  m : Word32
  l : Word32
  alpha : Word32
  empty : Bool
  inf : Bool
  nan : Bool
  deriving DecidableEq, Repr

/-- The reset record (R124). -/
def SmRec.init : SmRec :=
  { m := 0xFF800000, l := 0, alpha := 0x3F800000, empty := true, inf := false, nan := false }

/-- A record from its 16 bytes. -/
def SmRec.ofBytes (bs : Bytes) : SmRec :=
  let x := Bytes.toNat (bs.take 16)
  { m := BitVec.ofNat 32 x, l := BitVec.ofNat 32 (x / 2 ^ 32), alpha := BitVec.ofNat 32 (x / 2 ^ 64),
    empty := x / 2 ^ 96 % 2 == 1, inf := x / 2 ^ 97 % 2 == 1, nan := x / 2 ^ 98 % 2 == 1 }

/-- The 16 bytes of a record, reserved bits zero. -/
def SmRec.bytes (r : SmRec) : Bytes :=
  bytesOfNat 16 (r.m.toNat + r.l.toNat * 2 ^ 32 + r.alpha.toNat * 2 ^ 64 + bit r.empty * 2 ^ 96
    + bit r.inf * 2 ^ 97 + bit r.nan * 2 ^ 98)

/-- A score with whether it is counted: unmasked and not −∞ (R124). -/
def smCounted (x : Val) (on : Bool) : Bool := on && x != .inf true

/-- The FP32 weights of a tile row and its record after SM_STEP (R125). -/
def smStep (xs : List (Val × Bool)) (r : SmRec) : List Val × SmRec :=
  let counted := xs.map fun p => smCounted p.1 p.2
  let vals := xs.zip counted
  if r.nan || vals.any (fun p => p.2 && p.1.1.isNan) then
    (vals.map fun p => if p.2 then .nan else .fin false 0 1,
     { m := fnan, l := fnan, alpha := fnan, empty := false, inf := r.inf, nan := true })
  else
    let m := Val.of32 r.m
    let bm := maxOf (vals.filterMap fun p => if p.2 then some p.1.1 else none) (.inf true)
    let mn := m.max bm
    if mn == .inf true then (vals.map fun _ => .fin false 0 1, { r with alpha := fone })
    else
      let alpha : Val :=
        if m.eq mn then valOne
        else if mn == .inf false then .fin false 0 1
        else step32 true (step32 true (m.sub mn)).exp
      let ps := vals.map fun p =>
        if !p.2 then Val.fin false 0 1
        else if p.1.1.eq mn then valOne
        else if mn == .inf false then .fin false 0 1
        else step32 true (step32 true (p.1.1.sub mn)).exp
      let l := step32 true ((step32 true ((Val.of32 r.l).mul alpha)).add (rowSum true ps))
      (ps, { m := f32 mn, l := f32 l, alpha := f32 alpha, empty := false, inf := mn == .inf false, nan := false })

/-- A lane of SM_NORM, by the record's flags in order (R126). A NaN that the quotient makes of operands that are none is counted nowhere
(DESIGN CHOICE, log entry 153). -/
def smNormLane (f : Fmt) (m : Rnd) (ieee : Bool) (r : SmRec) (x : Val) : LaneOut :=
  if r.nan then convOut (Fmt.conv f m ieee .nan)
  else if r.empty then { code := f.zeroCode false, d := { elems := 1 } }
  else convOut (Fmt.conv f m ieee (x.div (Val.of32 r.l)))

/-- The counts of one row of SM_NORM (R126). -/
def smNormRow (r : SmRec) : VecDelta :=
  if r.nan then { smNan := 1 } else if r.empty then { smEmpty := 1 } else if r.inf then { smInf := 1 } else {}

end Sys2Proof.Machine
end

