-- ==== Sys2Proof/Machine/VecOps.lean ====
section
/-! DEFINITION. A whole vector operation: the rows and lanes it works on (R111, R118 to R120), what it writes,
counts and folds, its rate (R114), and which slices make it illegal (R112, R113, R118 to R123, R133, R156). -/

namespace Sys2Proof.Machine

/-- What a vector operation works with: the tun's context, the memory, its fields, and, for an ACC_SRC
operation, the bank, the presented width, the awake column bands, the unit and the delayed exponent. -/
structure VecEnv where
  sh : Share
  m : Mem
  c : Ctx
  v : BitVec 64
  pos : Nat
  unit : Nat := 0
  bank : Bank := {}
  width : Nat := 512
  bandsOff : List Nat := []
  expD : Option Int := none
  deriving DecidableEq, Repr

/-- The window row count. -/
def VecEnv.len (e : VecEnv) : Nat := vecLen e.v
/-- The code. -/
def VecEnv.op (e : VecEnv) : Nat := vecOp e.v
/-- The target format. -/
def VecEnv.fmt (e : VecEnv) : Fmt := (Fmt.ofCode (vecFmt e.v)).getD .fp32

/-- Whether an operation reads no SRC_A row (IOTA, SM_INIT). -/
def opNoA (op : Nat) : Bool := op == 0x2B || op == 0x2C || op == 0x60

/-- Whether a code is drain only (R113). -/
def opDrainOnly (op : Nat) : Bool :=
  (decide (0x50 ≤ op) && decide (op ≤ 0x53)) || (decide (0x58 ≤ op) && decide (op ≤ 0x5B)) || op == 0x62

/-- Whether an operation is an epilogue. -/
def opEpi (op : Nat) : Bool :=
  (decide (0x50 ≤ op) && decide (op ≤ 0x53)) || (decide (0x58 ≤ op) && decide (op ≤ 0x5B))

/-- Whether an operation is a convert of R106. -/
def opCvt (op : Nat) : Bool := decide (0x40 ≤ op) && decide (op ≤ 0x43)

/-- Whether an operation is of the conversion class (R112). -/
def opConvClass (op : Nat) : Bool := opCvt op || opEpi op || op == 0x61 || op == 0x63

/-- Whether an operation is a comparison. -/
def opCmp (op : Nat) : Bool := decide (0x20 ≤ op) && decide (op ≤ 0x23)
/-- Whether an operation is a mask operation. -/
def opMask (op : Nat) : Bool := decide (0x24 ≤ op) && decide (op ≤ 0x26)
/-- Whether an operation is an integer operation. -/
def opInt (op : Nat) : Bool := decide (0x28 ≤ op) && decide (op ≤ 0x2C)
/-- Whether an operation is a reduction. -/
def opRed (op : Nat) : Bool := decide (0x30 ≤ op) && decide (op ≤ 0x32)
/-- Whether an operation reads SRC_B as a second operand that may be broadcast (R120). -/
def opBcast (op : Nat) : Bool := (decide (1 ≤ op) && decide (op ≤ 5)) || opCmp op || op == 0x28 || op == 0x29 || op == 0x2A
/-- Whether an operation works at quarter rate (R113). -/
def opQuarter (op : Nat) : Bool :=
  (decide (0x10 ≤ op) && decide (op ≤ 0x14)) || op == 0x19 || op == 0x1A || op == 0x52 || op == 0x53
    || op == 0x5A || op == 0x5B || op == 0x61 || op == 0x63

/-- Whether VEC_OP is a listed code (R113). -/
def opKnown (op : Nat) : Bool :=
  (decide (1 ≤ op) && decide (op ≤ 8)) || (decide (0x10 ≤ op) && decide (op ≤ 0x14))
    || (decide (0x18 ≤ op) && decide (op ≤ 0x1A)) || (decide (0x20 ≤ op) && decide (op ≤ 0x26))
    || (decide (0x28 ≤ op) && decide (op ≤ 0x2C)) || opRed op || opCvt op || opEpi op
    || (decide (0x60 ≤ op) && decide (op ≤ 0x63))

/-- Whether an operation reads SRC_A as a window. -/
def readsA (v : BitVec 64) : Bool :=
  !(opNoA (vecOp v)) && !(vecAcc v && opCvt (vecOp v))

/-- Whether an operation reads SRC_B. -/
def readsB (v : BitVec 64) : Bool :=
  let op := vecOp v
  opBcast op || op == 0x24 || op == 0x25 || op == 0x2B || op == 0x2C || op == 0x42 || op == 0x43
    || (decide (0x58 ≤ op) && decide (op ≤ 0x5B)) || op == 0x61 || op == 0x62 || op == 0x63

/-- The windows an operation reads (R41): its sources and its mask window. -/
def vecSources (c : Ctx) (v : BitVec 64) : List Nat :=
  (if readsA v then [vecA v] else []) ++ (if readsB v then [vecB v] else [])
    ++ (if vecMask v = 0 then [] else [Tbl.get 0 c.masks (vecMask v)])

/-- The windows an operation writes: DST, the scales of CVT_BLK and the records of SM_STEP. -/
def vecDests (v : BitVec 64) : List Nat :=
  vecDst v :: (if vecOp v = 0x41 ∨ vecOp v = 0x61 then [vecB v] else [])

/-- The tile width an operation works at: SRC_A's, or DST's where no SRC_A row is read; 256 in a drain. Where the windows of an
operation differ in TW the spec names none of them (DESIGN CHOICE, log entry 109). -/
def VecEnv.tw (e : VecEnv) : Nat :=
  if vecAcc e.v then 256
  else if opNoA e.op then winTw (e.c.win (vecDst e.v)) else winTw (e.c.win (vecA e.v))

/-- The output row and column that lane l of row r receives in a drain (R66). -/
def VecEnv.outAt (e : VecEnv) (r l : Nat) : Nat × Nat :=
  if e.len = 256 then (4 * (r / 2) + l / 256, 256 * (r % 2) + l % 256)
  else (4 * r + l / 256, 256 * e.unit + l % 256)

/-- The accumulator value a drained lane receives; a gated band drains as zero. -/
def VecEnv.accVal (e : VecEnv) (r l : Nat) : Val :=
  let p := e.outAt r l
  if e.bandsOff.contains (p.2 / 32) then .fin false 0 1
  else if e.bank.cls = some .int then .ofInt (signed 32 (e.bank.val p.1 p.2).toNat)
  else Val.of32 (e.bank.val p.1 p.2)

/-- Whether lane l of row r is unmasked (R66, R118). -/
def VecEnv.on (e : VecEnv) (r l : Nat) : Bool :=
  let maskBit :=
    if vecMask e.v = 0 then true
    else
      let n := Tbl.get 0 e.c.masks (vecMask e.v)
      let row := if winRows (e.c.win n) = 1 then 0 else r
      (readWin e.sh e.m e.c (e.c.win n) (128 * row + l / 8)).getLsbD (l % 8)
  maskBit && (!(vecAcc e.v) || decide ((e.outAt r l).2 < e.width))

/-- The bit of lane l of row r of a mask window (R118). -/
def VecEnv.maskBit (e : VecEnv) (n r l : Nat) : Bool :=
  (readWin e.sh e.m e.c (e.c.win n) (128 * r + l / 8)).getLsbD (l % 8)

/-- The value a lane takes as a: SRC_A's element or the accumulator. -/
def VecEnv.a (e : VecEnv) (r l : Nat) : Val :=
  if vecAcc e.v then e.accVal r l else valOf e.sh e.m e.c (vecA e.v) (1024 * r + l)

/-- The element index of SRC_B a lane takes as b (R120). -/
def VecEnv.bIndex (e : VecEnv) (r l : Nat) : Nat :=
  let mode := if e.op = 0x2B ∨ e.op = 0x2C then 3 else vecBcast e.v
  match mode with
  | 1 => l % e.tw
  | 2 => r * (1024 / e.tw) + l / e.tw
  | 3 => 0
  | _ => 1024 * r + l

/-- The value a lane takes as b. -/
def VecEnv.b (e : VecEnv) (r l : Nat) : Val := valOf e.sh e.m e.c (vecB e.v) (e.bIndex r l)

/-- The rounding of a lane. -/
def VecEnv.rnd (e : VecEnv) (r l : Nat) : Rnd := laneRnd (vecRnd e.v) e.c.genKey e.pos r l

/-- A masked lane's code: the lane's own value in place, and +0 elsewhere (R119). -/
def VecEnv.maskedCode (e : VecEnv) (r l : Nat) : Nat :=
  if vecDst e.v = vecA e.v ∧ readsA e.v then elemOf e.sh e.m e.c (vecA e.v) (1024 * r + l) else 0

/-- The block size of the element window (R106). -/
def VecEnv.bs (e : VecEnv) : Nat := winBs (e.c.win (if e.op = 0x43 then vecA e.v else vecDst e.v))

/-- The scale format of a block convert. -/
def VecEnv.scaleFmt (e : VecEnv) : Fmt := (Fmt.ofCode (winFmt (e.c.win (vecB e.v)))).getD .e8m0

/-- The max-abs of a block, masked lanes as +0; a NaN or infinity in it makes it NaN (R106, R119). -/
def VecEnv.blockAmax (e : VecEnv) (r blk : Nat) : Val :=
  (List.range e.bs).foldl (fun s i =>
    let l := blk * e.bs + i
    if e.on r l then
      (if (e.a r l).nonfinite then .nan else s.max (e.a r l).abs)
    else s) (.fin false 0 1)

/-- The scale code of the block of lane l of row r: computed by CVT_BLK, supplied otherwise. -/
def VecEnv.scale (e : VecEnv) (r l : Nat) : Nat :=
  if e.op = 0x41 then blockScale e.fmt e.scaleFmt (e.blockAmax r (l / e.bs))
  else elemOf e.sh e.m e.c (vecB e.v) (r * (1024 / e.bs) + l / e.bs)

/-- The value an epilogue lane hands to its conversion, and its invalid results (R123). -/
def VecEnv.epi (e : VecEnv) (r l : Nat) : Val × Nat :=
  let j := (e.outAt r l).2
  epiValue (e.accVal r l) (valOf e.sh e.m e.c (vecA e.v) j) (valOf e.sh e.m e.c (vecA e.v) (512 + j))
    (e.op % 4) (if 0x58 ≤ e.op then some (valOf e.sh e.m e.c (vecB e.v) (1024 * r + l)) else none)

/-- The α of a drained lane's output row (R126). -/
def VecEnv.alpha (e : VecEnv) (r l : Nat) : Val :=
  let i := (e.outAt r l).1
  Val.of32 (SmRec.ofBytes ((List.range 16).map fun k =>
    readWin e.sh e.m e.c (e.c.win (vecA e.v)) (16 * i + k))).alpha

/-- The value SM_RESCALE writes: α × O + acc with two roundings to nearest even (R126). The accumulator of an INT32 bank is added as the
integer it is (DESIGN CHOICE, log entry 155). -/
def VecEnv.rescale (e : VecEnv) (r l : Nat) : LaneOut :=
  let al := e.alpha r l
  let o := valOf e.sh e.m e.c (vecB e.v) (1024 * r + l)
  let x := step32 (vecOvf e.v) (al.mul o)
  let a := e.accVal r l
  let y := Fmt.conv .fp32 .nearest (vecOvf e.v) (x.add a)
  let yn := (Val.of32 (BitVec.ofNat 32 y.code)).isNan
  { code := y.code,
    d := { invalid := bit (x.isNan && !(al.isNan || o.isNan)) + bit (yn && !(x.isNan || a.isNan)) } }

/-- The value a drain folds for a lane (R134): what is handed to the final conversion. -/
def VecEnv.foldOf (e : VecEnv) (r l : Nat) : Val :=
  if opEpi e.op then (e.epi r l).1
  else if e.op = 0x62 then Val.of32 (BitVec.ofNat 32 (e.rescale r l).code)
  else e.a r l

/-- An unmasked lane of an elementwise operation. -/
def VecEnv.lane (e : VecEnv) (r l : Nat) : LaneOut :=
  let op := e.op
  let ieee := vecOvf e.v
  let m := e.rnd r l
  if opArith op then laneArith op m ieee (e.a r l) (e.b r l)
  else if op = 0x08 then
    { code := copyCode ((Fmt.ofCode (winFmt (e.c.win (vecA e.v)))).getD .fp32)
        (elemOf e.sh e.m e.c (vecA e.v) (1024 * r + l)) }
  else if opInt op then
    laneInt op (signed 32 (if opNoA op then 0 else elemOf e.sh e.m e.c (vecA e.v) (1024 * r + l)))
      (signed 32 (elemOf e.sh e.m e.c (vecB e.v) (e.bIndex r l))) (l % e.tw) (r * (1024 / e.tw) + l / e.tw)
  else if op = 0x40 then convOut (Fmt.conv e.fmt m ieee (e.a r l))
  else if op = 0x41 then laneBlk e.fmt e.scaleFmt m (e.a r l) (e.scale r l)
  else if op = 0x42 then laneBlkS e.fmt e.scaleFmt m (e.a r l) (e.scale r l)
  else if op = 0x43 then laneUnblk e.fmt e.scaleFmt m ieee (e.a r l) (e.scale r l)
  else if opEpi op then
    let x := e.epi r l
    let y := match e.expD with
      | none => x.1
      | some d => delayedScale d x.1
    let o := convOut (Fmt.conv e.fmt m ieee y)
    { o with d := { o.d with invalid := x.2 } }
  else if op = 0x62 then e.rescale r l
  else { code := 0 }

/-- A lane of an elementwise operation, masked or not. -/
def VecEnv.laneOut (e : VecEnv) (r l : Nat) : LaneOut :=
  if e.on r l then e.lane r l else { code := e.maskedCode r l }

/-- Every lane of every row, in order. -/
def VecEnv.allLanes (e : VecEnv) (f : Nat → Nat → LaneOut) : List LaneOut :=
  (List.range e.len).flatMap fun r => (List.range 1024).map fun l => f r l

/-- The sum of counter increments. -/
def sumDelta (ds : List VecDelta) : VecDelta := ds.foldl VecDelta.add {}

/-- What a vector operation writes, counts and folds. -/
structure VecOut where
  writes : List (Nat × Bytes) := []
  delta : VecDelta := {}
  amax : Word32 × Bool := (0, false)
  deriving DecidableEq, Repr

/-- The writes of a run of codes into window n from its element 0. -/
def VecEnv.put (e : VecEnv) (n bits : Nat) (codes : List Nat) : List (Nat × Bytes) :=
  winWrites e.sh (e.c.win n) 0 (packCodes bits codes)

/-- The max-abs over the unmasked lanes of a value (R134). -/
def VecEnv.amaxOver (e : VecEnv) (f : Nat → Nat → Val) : Word32 × Bool :=
  (List.range e.len).foldl (fun s r => (List.range 1024).foldl (fun s l =>
    if e.on r l then foldVal s (f r l) else s) s) (0, false)

/-- The tile rows of the operation. -/
def VecEnv.tileRows (e : VecEnv) : Nat := e.len * (1024 / e.tw)

/-- The lanes of tile row q: window row and lane of each. -/
def VecEnv.tileLanes (e : VecEnv) (q : Nat) : List (Nat × Nat) :=
  let n := 1024 / e.tw
  (List.range e.tw).map fun i => (q / n, (q % n) * e.tw + i)

/-- A reduction's result for tile row q (R121). -/
def VecEnv.reduce (e : VecEnv) (q : Nat) : LaneOut :=
  let ls := e.tileLanes q
  let on := ls.filter fun p => e.on p.1 p.2
  let vals := on.map fun p => e.a p.1 p.2
  match e.op with
  | 0x30 =>
    let s := rowSum (vecOvf e.v) (ls.map fun p => if e.on p.1 p.2 then e.a p.1 p.2 else .fin false 0 1)
    { code := (f32 s).toNat, d := { invalid := bit (s.isNan && !(vals.any Val.isNan)) } }
  | 0x31 => { code := (f32 (maxOf vals (.inf true))).toNat }
  | _ => { code := (f32 (maxOf (vals.map Val.abs) (.fin false 0 1))).toNat }

/-- The state record of tile row q in window n. -/
def VecEnv.record (e : VecEnv) (n q : Nat) : SmRec :=
  SmRec.ofBytes ((List.range 16).map fun k => readWin e.sh e.m e.c (e.c.win n) (16 * q + k))

/-- A tile row of SM_STEP: its codes, its counts and its new record (R125). A masked lane of an operation whose DST is SRC_A
keeps its value, as R119 says of every in-place operation, where R125's comment writes +0 (DESIGN CHOICE, log entry 110). -/
def VecEnv.smRow (e : VecEnv) (q : Nat) : List LaneOut × SmRec :=
  let ls := e.tileLanes q
  let xs := ls.map fun p => (e.a p.1 p.2, e.on p.1 p.2)
  let r := smStep xs (e.record (vecB e.v) q)
  (((ls.zip xs).zip r.1).map fun t =>
      let p := t.1.1
      if smCounted t.1.2.1 t.1.2.2 then convOut (Fmt.conv e.fmt (e.rnd p.1 p.2) (vecOvf e.v) t.2)
      else { code := if t.1.2.2 then 0 else e.maskedCode p.1 p.2,
             d := { elems := bit t.1.2.2 } },
   r.2)

/-- A tile row of SM_NORM (R126). An empty row is +0 in a masked lane too, in place or not (DESIGN CHOICE, log entry 154). -/
def VecEnv.normRow (e : VecEnv) (q : Nat) : List LaneOut × VecDelta :=
  let r := e.record (vecB e.v) q
  ((e.tileLanes q).map fun p =>
      if e.on p.1 p.2 then smNormLane e.fmt (e.rnd p.1 p.2) (vecOvf e.v) r (e.a p.1 p.2)
      else { code := if !r.nan && r.empty then 0 else e.maskedCode p.1 p.2 },
   smNormRow r)

/-- A row of mask bits as 128 bytes (R118). -/
def maskRow (bits : List Bool) : Bytes := packCodes 1 (bits.map bit)

/-- The whole operation. -/
def VecEnv.run (e : VecEnv) : VecOut :=
  let rows : VecDelta := { rows := e.len }
  let dst := vecDst e.v
  if opCmp e.op then
    { writes := (List.range e.len).flatMap fun r =>
        winWrites e.sh (e.c.win dst) (128 * r) (maskRow ((List.range 1024).map fun l =>
          e.on r l && laneCmp e.op (e.a r l) (e.b r l))),
      delta := rows }
  else if opMask e.op then
    { writes := (List.range e.len).flatMap fun r =>
        winWrites e.sh (e.c.win dst) (128 * r) (maskRow ((List.range 1024).map fun l =>
          if e.on r l then laneMask e.op (e.maskBit (vecA e.v) r l) (e.op != 0x26 && e.maskBit (vecB e.v) r l)
          else decide (dst = vecA e.v) && e.maskBit (vecA e.v) r l)),
      delta := rows }
  else if opRed e.op then
    let os := (List.range e.tileRows).map e.reduce
    { writes := e.put dst 32 (os.map LaneOut.code), delta := rows.add (sumDelta (os.map LaneOut.d)) }
  else if e.op = 0x60 then
    { writes := (List.range e.tileRows).flatMap fun q =>
        winWrites e.sh (e.c.win dst) (16 * q) SmRec.init.bytes,
      delta := rows }
  else if e.op = 0x61 then
    let rs := (List.range e.tileRows).map e.smRow
    let os := rs.flatMap Prod.fst
    { writes := e.put dst e.fmt.bits (os.map LaneOut.code)
        ++ winWrites e.sh (e.c.win (vecB e.v)) 0 (rs.flatMap fun r => r.2.bytes),
      delta := rows.add (sumDelta (os.map LaneOut.d)) }
  else if e.op = 0x63 then
    let rs := (List.range e.tileRows).map e.normRow
    let os := rs.flatMap Prod.fst
    { writes := e.put dst e.fmt.bits (os.map LaneOut.code),
      delta := rows.add ((sumDelta (os.map LaneOut.d)).add (sumDelta (rs.map Prod.snd))) }
  else
    let os := e.allLanes e.laneOut
    let scales := if e.op = 0x41 then
        winWrites e.sh (e.c.win (vecB e.v)) 0 ((List.range e.len).flatMap fun r =>
          (List.range (1024 / e.bs)).map fun k => BitVec.ofNat 8 (e.scale r (k * e.bs)))
      else []
    { writes := e.put dst (fmtBits (winFmt (e.c.win dst))) (os.map LaneOut.code) ++ scales,
      delta := rows.add (sumDelta (os.map LaneOut.d)),
      amax := if vecAcc e.v then e.amaxOver e.foldOf else if opCvt e.op then e.amaxOver e.a else (0, false) }

/-! ### Rate and timing -/

/-- The bytes of a window row. -/
def rowBytes (w : BitVec 128) : Nat := 128 * fmtBits (winFmt w)

/-- The bytes a row reads through the read port (R114): a mask of one row, which serves every row, adds none. -/
def VecEnv.readBytes (e : VecEnv) : Nat :=
  let op := e.op
  (if vecMask e.v = 0 || winRows (e.c.win (Tbl.get 0 e.c.masks (vecMask e.v))) == 1 then 0 else 128)
    + (if opMask op then (if op = 0x26 then 128 else 256)
       else if readsA e.v && !(opDrainOnly op) then rowBytes (e.c.win (vecA e.v)) else 0)
    + (if opBcast op && vecBcast e.v == 0 then rowBytes (e.c.win (vecB e.v))
       else if op = 0x42 ∨ op = 0x43 then 1024 / e.bs
       else if (0x58 ≤ op ∧ op ≤ 0x5B) ∨ op = 0x62 then rowBytes (e.c.win (vecB e.v))
       else if op = 0x61 ∨ op = 0x63 then 16 * (1024 / e.tw) else 0)

/-- The bytes a row writes (R114). -/
def VecEnv.writeBytes (e : VecEnv) : Nat :=
  let op := e.op
  if opConvClass op then
    128 * e.fmt.bits + (if op = 0x41 then 1024 / e.bs else if op = 0x61 then 16 * (1024 / e.tw) else 0)
  else if opCmp op || opMask op then 128
  else if opRed op then 4 * (1024 / e.tw)
  else if op = 0x60 then 16 * (1024 / e.tw)
  else rowBytes (e.c.win (vecDst e.v))

/-- The bytes read once at the start of the operation (R114). A mask of one row, which R114 names neither here nor by the row, takes no
cycle (DESIGN CHOICE, log entry 152). -/
def VecEnv.preBytes (e : VecEnv) : Nat :=
  let op := e.op
  if opEpi op then 4096
  else if op = 0x62 then 64 * e.len
  else
    let mode := if op = 0x2B ∨ op = 0x2C then 3 else vecBcast e.v
    let n := match mode with
      | 1 => e.tw
      | 2 => e.tileRows
      | 3 => 1
      | _ => 0
    (n * fmtBits (winFmt (e.c.win (vecB e.v))) + 7) / 8

/-- The cycles an operation spends on each row (R114). -/
def VecEnv.rowCycles (e : VecEnv) : Nat :=
  max (max 1 (ceilDiv e.readBytes 1024)) (max (ceilDiv e.writeBytes 1024) (if opQuarter e.op then 4 else 1))

/-- The delay of the first row for what is read at the start (R114). -/
def VecEnv.preCycles (e : VecEnv) : Nat := if e.readBytes = 0 then 0 else ceilDiv e.preBytes 1024

/-- The latency L of R115. -/
def opLatency (op : Nat) : Nat := if opQuarter op then 24 else 12

/-! ### Legality -/

/-- Whether every row window of an operation holds the rows it works on. -/
def rowsFit (c : Ctx) (n len : Nat) : Bool := decide (len ≤ winRows (c.win n))

/-- Whether the formats of an operation's windows keep R112, R106, R123, R125 and R126. -/
def vecFormatsOk (c : Ctx) (v : BitVec 64) (bankInt : Bool) : Bool :=
  let op := vecOp v
  let fa := winFmt (c.win (vecA v))
  let fb := winFmt (c.win (vecB v))
  let fd := winFmt (c.win (vecDst v))
  let f := vecFmt v
  let five := f == 0x00 || f == 0x01 || f == 0x02 || f == 0x03 || f == 0x04
  let scale := fb == 0x0E || fb == 0x0F
  if opArith op then fa == 0 && fd == 0 && (!(opBinary op) || fb == 0)
  else if op = 0x08 then fa == fd && decide (fa ≤ 0x10)
  else if opCmp op then (fa == 0 || fa == 0x10) && fa == fb
  else if opMask op || op == 0x60 then true
  else if opInt op then fd == 0x10 && fb == 0x10 && (opNoA op || fa == 0x10)
  else if opRed op then fa == 0 && fd == 0
  else if op = 0x40 then fd == f && (vecAcc v || decide (fa ≤ 0x10))
  else if op = 0x41 then
    fd == f && scale && (match Fmt.ofCode f with | some g => fb == 0x0F || fmtHasEmax g | none => false)
      && (if vecAcc v then !bankInt else fa == 0 || fa == 1 || fa == 2)
  else if op = 0x42 then fd == f && scale && (vecAcc v || decide (fa ≤ 0x10))
  else if op = 0x43 then fd == f && scale && decide (f ≤ 2) && decide (fa ≤ 0x10)
  else if opEpi op then fd == f && five && fa == 0 && (decide (op < 0x58) || fb == 0)
  else if op = 0x61 then fd == f && five && fa == 0
  else if op = 0x62 then fd == 0 && fb == 0
  else fd == f && decide (fa ≤ 0x10)

/-- Whether the rounding and overflow fields are legal for an operation (R99, R102, R105, R121, R122). -/
def vecModesOk (c : Ctx) (v : BitVec 64) : Bool :=
  let op := vecOp v
  let nearestOnly := opRed op || (decide (0x10 ≤ op) && decide (op ≤ 0x14)) || op == 0x19 || op == 0x1A
    || op == 0x52 || op == 0x53 || op == 0x5A || op == 0x5B
  let target := if opConvClass op then vecFmt v
    else if op = 0x08 then winFmt (c.win (vecA v))
    else if opArith op || opRed op || op == 0x62 then 0 else 0x1F
  vecRnd v != 3 && (!nearestOnly || vecRnd v == 0)
    && (!(vecOvf v) || target == 0 || target == 1 || target == 2)
    && (!(opConvClass op) || (Fmt.ofCode (vecFmt v)).isSome)
    && (opConvClass op || vecFmt v == 0)
    && (!(opConvClass op && vecFmt v == 0x0E) || (vecRnd v == 0 && !(vecOvf v)))

/-- Whether the broadcast field is legal (R120). -/
def vecBcastOk (v : BitVec 64) : Bool :=
  let op := vecOp v
  vecBcast v == 0 || opBcast op || ((op == 0x2B || op == 0x2C) && vecBcast v == 3)

/-- Whether an operation's windows are defined, whole-byte placed and, where it writes them, outside the statistics table (R118, R133,
R155, R156); len is the operation's rows. The sources of a mask operation, and the destinations of comparisons, mask operations,
reductions and SM_INIT, may hold fewer rows than the operation, which then runs past the window (DESIGN CHOICE, log entry 156). -/
def vecWindowsOk (c : Ctx) (v : BitVec 64) : Bool :=
  let op := vecOp v
  let len := vecLen v
  let bc := vecBcast v != 0 || op == 0x2B || op == 0x2C
  let maskWin := Tbl.get 0 c.masks (vecMask v)
  let maskRows := winRows (c.win maskWin)
  let used := vecSources c v ++ vecDests v
  used.all (fun n => winLvl (c.win n) != 0 && fmtOk (c.win n))
    && (vecDests v).all (fun n => !(winOverStats (c.win n)) && winByte (c.win n) == 0)
    && (!(readsA v) || winByte (c.win (vecA v)) == 0)
    && (!(readsB v) || bc || winByte (c.win (vecB v)) == 0)
    && (vecMask v == 0 || (winByte (c.win maskWin) == 0 && fmtOk (c.win maskWin) && (maskRows == 1 || maskRows == len)))
    && (!(readsA v && !(opDrainOnly op)) || opMask op || rowsFit c (vecA v) len)
    && (!(opBcast op && vecBcast v == 0) || rowsFit c (vecB v) len)
    && (opCmp op || opMask op || opRed op || op == 0x60 || rowsFit c (vecDst v) len)

/-- Whether the use of the accumulator is legal (R66, R113): drain says the slice carries a drain. -/
def vecAccOk (c : Ctx) (v : BitVec 64) (drain : Bool) : Bool :=
  let op := vecOp v
  if vecAcc v then
    drain && (opDrainOnly op || op == 0x40 || op == 0x41 || op == 0x42)
      && (!(readsB v || op == 0x41) || vecDst v != vecB v)
      && (vecMask v == 0 || vecDst v != Tbl.get 0 c.masks (vecMask v))
  else !(opDrainOnly op)

/-- Whether a vector operation is legal. -/
def vecLegal (c : Ctx) (v : BitVec 64) (drain bankInt : Bool) : Bool :=
  opKnown (vecOp v) && vecFormatsOk c v bankInt && vecModesOk c v && vecBcastOk v && vecWindowsOk c v
    && vecAccOk c v drain

end Sys2Proof.Machine
end

