-- ==== Sys2Proof/Machine/SliceFields.lean ====
section
/-! DEFINITION. The field groups of a die slice (R30 to R39), the descriptor (R159), and the slices that are
illegal for what their fields say (R31, R33, R41, R59, R65, R66, R99, R138, R147, R157, R160). -/

namespace Sys2Proof.Machine

/-- CTL_OP. -/
def ctlOp (s : Slice) : Nat := field s 0 4
/-- SEAL. -/
def ctlSeal (s : Slice) : Bool := flag s 4
/-- LOOP_LEVEL. -/
def ctlLevel (s : Slice) : Nat := field s 5 3
/-- COUNT, as it stands. -/
def ctlCount (s : Slice) : Nat := field s 8 20
/-- TARGET. -/
def ctlTarget (s : Slice) : Nat := field s 28 22
/-- COUNT_SEL. -/
def ctlCountSel (s : Slice) : Nat := field s 50 4
/-- The bits of wait w: token, CONSUME, EN. -/
def waitOf (s : Slice) (w : Nat) : Nat × Bool × Bool :=
  (field s (64 + 14 * w) 12, flag s (64 + 14 * w + 12), flag s (64 + 14 * w + 13))
/-- SYNC_OP. -/
def syncOp (s : Slice) : Nat := field s 120 8
/-- The matrix array group. -/
def arrGroup (s : Slice) : BitVec 96 := s.extractLsb' 128 96
/-- Vector unit u's group. -/
def vecGroup (s : Slice) (u : Nat) : BitVec 64 := s.extractLsb' (224 + 64 * u) 64
/-- MOV_OP of mover m. -/
def movOp (s : Slice) (m : Nat) : Nat := field s (352 + 24 * m) 2
/-- DESC of mover m. -/
def movDesc (s : Slice) (m : Nat) : Nat := field s (354 + 24 * m) 9
/-- ADV of mover m. -/
def movAdv (s : Slice) (m : Nat) : Bool := flag s (363 + 24 * m)
/-- UPD_OP. -/
def updOp (s : Slice) : Nat := field s 448 4
/-- BUCKET. -/
def updBucket (s : Slice) : Nat := field s 452 16
/-- KEEPER of hint h. -/
def hintKeeper (s : Slice) (h : Nat) : Nat := field s (480 + 16 * h) 6
/-- ACTION of hint h. -/
def hintAction (s : Slice) (h : Nat) : Nat := field s (486 + 16 * h) 2

/-- The active waits: token and CONSUME. -/
def activeWaits (s : Slice) : List (Nat × Bool) :=
  ((List.range 4).map (waitOf s)).filterMap fun w => if w.2.2 then some (w.1, w.2.1) else none

/-- A count as COUNT is read: zero means 1,048,576 (R32). -/
def countOf (x : Nat) : Nat := if x = 0 then 1048576 else x

/-- Whether every reserved bit is zero and every operation encoding is one that is listed (R31 to R39). -/
def slicePlain (s : Slice) : Bool :=
  decide (ctlOp s ≤ 6) && field s 54 10 == 0
    && (decide (syncOp s ≤ 3) || syncOp s == 0x10)
    && decide (arrOp (arrGroup s) ≤ 3) && arrReserved (arrGroup s) == 0
    && (List.range 4).all (fun m => movOp s m != 3 && field s (364 + 24 * m) 12 == 0)
    && decide (updOp s ≤ 3) && field s 468 12 == 0
    && (List.range 2).all (fun h => decide (hintKeeper s h < 40) && field s (488 + 16 * h) 8 == 0)

/-- Whether CTL_OP keeps the nesting rules of R33. -/
def loopsOk (c : Ctx) (s : Slice) : Bool :=
  let anyOpen := (List.range 8).any fun l => (Tbl.get {} c.loops l).isOpen
  match ctlOp s with
  | 1 => !((Tbl.get {} c.loops (ctlLevel s)).isOpen)
  | 2 => (Tbl.get {} c.loops (ctlLevel s)).isOpen
  | 5 | 6 => !anyOpen
  | _ => true

/-! ### Descriptors (R159) -/

/-- MD_SRC_LVL. -/
def mdSrcLvl (d : BitVec 512) : Nat := field d 0 3
/-- MD_DST_LVL. -/
def mdDstLvl (d : BitVec 512) : Nat := field d 3 3
/-- MD_SRC_DIE. -/
def mdSrcDie (d : BitVec 512) : Nat := field d 6 3
/-- MD_DST_DIE. -/
def mdDstDie (d : BitVec 512) : Nat := field d 9 3
/-- MD_XFORM. -/
def mdXform (d : BitVec 512) : Nat := field d 12 2
/-- MD_TOKEN_EN. -/
def mdTokenEn (d : BitVec 512) : Bool := flag d 14
/-- MD_SRC_WIN. -/
def mdSrcWin (d : BitVec 512) : Nat := field d 16 10
/-- MD_DST_WIN. -/
def mdDstWin (d : BitVec 512) : Nat := field d 26 10
/-- MD_TOKEN. -/
def mdToken (d : BitVec 512) : Nat := field d 36 12
/-- MD_SRC_ADDR. -/
def mdSrcAddr (d : BitVec 512) : Nat := field d 48 48
/-- MD_DST_ADDR. -/
def mdDstAddr (d : BitVec 512) : Nat := field d 96 48
/-- MD_LEN. -/
def mdLen (d : BitVec 512) : Nat := field d 144 24
/-- MD_LINES. -/
def mdLines (d : BitVec 512) : Nat := field d 168 20
/-- MD_SRC_PITCH, signed. -/
def mdSrcPitch (d : BitVec 512) : Int := signed 32 (field d 188 32)
/-- MD_DST_PITCH, signed. -/
def mdDstPitch (d : BitVec 512) : Int := signed 32 (field d 220 32)
/-- MD_SRC_ADV, signed. -/
def mdSrcAdv (d : BitVec 512) : Int := signed 32 (field d 252 32)
/-- MD_DST_ADV, signed. -/
def mdDstAdv (d : BitVec 512) : Int := signed 32 (field d 284 32)

/-- The descriptor with its address fields advanced by its strides (R37, R159). -/
def mdAdvance (d : BitVec 512) : BitVec 512 :=
  let a := ((mdSrcAddr d : Int) + mdSrcAdv d) % (2 ^ 48 : Nat)
  let b := ((mdDstAddr d : Int) + mdDstAdv d) % (2 ^ 48 : Nat)
  setField (setField d 48 48 a.toNat) 96 48 b.toNat

/-- Whether the destination is a window, of this die or another. -/
def mdToWindow (d : BitVec 512) : Bool := mdDstLvl d == 0 || mdDstLvl d == 3

/-- Whether the descriptor's destination window is on this die. -/
def mdLocalDst (d : BitVec 512) : Bool := mdDstLvl d == 0

/-- Whether a re-tiling launch keeps R160. -/
def mdXformOk (c : Ctx) (d : BitVec 512) : Bool :=
  let ws := c.win (mdSrcWin d)
  let wd := c.win (mdDstWin d)
  mdXform d == 0
    || (mdSrcLvl d == 0 && mdDstLvl d == 0 && winFmt ws == winFmt wd
        && (if mdXform d = 3 then winFeed ws && !(winFeed wd) && decide (mdSrcAddr d < 2 ^ 23)
            else !(winFeed ws) && winFeed wd && decide (mdDstAddr d < 2 ^ 23))
        && 8 * mdLen d % fmtBits (winFmt ws) == 0)

/-- Whether a launch of the descriptor is legal (R155, R159, R160). -/
def mdLegal (c : Ctx) (die : Nat) (d : BitVec 512) : Bool :=
  decide (mdSrcLvl d ≤ 3) && decide (mdDstLvl d ≤ 4)
    && (mdToWindow d || mdTokenEn d) && (!(mdTokenEn d) || decide (1024 ≤ mdToken d))
    && (mdSrcLvl d != 0 || (winLvl (c.win (mdSrcWin d)) != 0 && fmtOk (c.win (mdSrcWin d))))
    && (mdDstLvl d != 0 || (winLvl (c.win (mdDstWin d)) != 0 && fmtOk (c.win (mdDstWin d)) && winByte (c.win (mdDstWin d)) == 0))
    && (mdDstLvl d != 3 || mdDstDie d != die) && mdXformOk c d

/-! ### Array groups -/

/-- The bytes per cycle an operand of a pass reads (R60). -/
def passRate (f : Fmt) (d : Nat) : Nat := 512 * d * f.bits / 8

/-- Whether two windows in one memory share a bank. -/
def banksMeet (a b : BitVec 128) : Bool :=
  winLvl a == winLvl b && decide (winBank0 a < winBank0 b + winNBanks b)
    && decide (winBank0 b < winBank0 a + winNBanks a)

/-- Whether a window's span is wide enough for a rate (R157). -/
def spanOk (w : BitVec 128) (rate : Nat) : Bool :=
  decide (ceilDiv rate (if winLvl w = 1 then 60 else 64) ≤ winNBanks w)

/-- Whether the windows of a list that are distinct in number stay in banks of their own (R157). -/
def banksApart (c : Ctx) : List Nat → Bool
  | [] => true
  | n :: t => t.all (fun k => !(banksMeet (c.win n) (c.win k))) && banksApart c t

/-- The class of the values a bank holds for the next operation on it; a bank that a drain empties holds none, since what
waits for the drain meets it ZERO (R59, R64). -/
def Bank.held (b : Bank) : Option AccClass := if b.state = .draining then none else b.cls

/-- Whether a pass is legal on the bank it names (R35, R58, R59, R83, R96, R147, R155 to R157). -/
def passLegal (c : Ctx) (b : Bank) (a : BitVec 96) : Bool :=
  let wa := c.win (arrA a)
  let wb := c.win (arrB a)
  let ws := c.win (arrScale a)
  match Fmt.ofCode (arrAFmt a), Fmt.ofCode (arrBFmt a) with
  | some fa, some fb =>
    match pairClass fa fb with
    | none => false
    | some (d, cls) =>
      decide (1 ≤ arrDepth a) && decide (arrDepth a ≤ 2048)
        && winLvl wa != 0 && winLvl wb != 0 && winLvl ws != 0 && fmtOk wa && fmtOk wb && fmtOk ws
        && winByte wa == 0 && winByte wb == 0 && winByte ws == 0
        && winFeed wa && winFeed wb && winDepth wa == d && winDepth wb == d && winBs wa == winBs wb
        && spanOk wa (passRate fa d) && spanOk wb (passRate fb d)
        && (if arrA a = arrB a then !(banksMeet wa ws) else banksApart c [arrA a, arrB a, arrScale a])
        && (match cls with
            | .int => !(arrLong a) && winFmt ws != 0x10
                && !(b.state == .preloaded || b.held == some .fp)
            | .fp => b.held != some .int)
  | _, _ => false

/-- Whether a preload is legal (R65, R156). -/
def preloadLegal (c : Ctx) (a : BitVec 96) : Bool :=
  let w := c.win (arrPre a)
  winLvl w != 0 && winByte w == 0 && winRows w == 1 && winFmt w == 0

/-- The vector groups of a slice that take the accumulator. -/
def accGroups (s : Slice) : List (BitVec 64) :=
  [vecGroup s 0, vecGroup s 1].filter fun v => vecOp v != 0 && vecAcc v

/-- Whether a window is a scale companion that a delayed drain may write for its DST window (R133, R138, R156): E8M0 bytes,
one for each block of DST, placed from whole lines on and off the statistics table. -/
def compOk (c : Ctx) (dst n : Nat) : Bool :=
  let w := c.win n
  winFmt w == 0x0E && winLvl w != 0 && winByte w == 0 && !(winOverStats w)
    && decide (winRows (c.win dst) * 1024 / winBs (c.win dst) ≤ winBytes w)

/-- Whether a drain's vector operations are legal together (R66), and, for a delayed tile, under R138. -/
def drainLegal (c : Ctx) (s : Slice) (delayed : Bool) : Bool :=
  let gs := accGroups s
  (match gs with
    | [v] => vecLen v == 256
    | [v, w] => vecLen v == 128 && vecLen w == 128
    | _ => false)
    && (!delayed || gs.all fun v =>
        opEpi (vecOp v) && (vecFmt v == 3 || vecFmt v == 4)
          && (match winComp (c.win (vecDst v)) with
              | some n => compOk c (vecDst v) n
              | none => false))

/-! ### What a slice reads and writes -/

/-- The scale companions a delayed drain writes (R41, R138). -/
def drainComps (c : Ctx) (s : Slice) (delayed : Bool) : List Nat :=
  if arrOp (arrGroup s) = 3 ∧ delayed then
    (accGroups s).filterMap fun v => winComp (c.win (vecDst v))
  else []

/-- The windows the array group reads. -/
def arrSources (a : BitVec 96) : List Nat :=
  match arrOp a with
  | 1 => [arrA a, arrB a, arrScale a]
  | 2 => [arrPre a]
  | _ => []

/-- The vector groups in use. -/
def vecGroups (s : Slice) : List (BitVec 64) := [vecGroup s 0, vecGroup s 1].filter fun v => vecOp v != 0

/-- The movers a slice launches on. -/
def launches (s : Slice) : List Nat := (List.range 4).filter fun m => movOp s m != 0

/-- The descriptor a slice launches on mover m. -/
def launchDesc (c : Ctx) (s : Slice) (m : Nat) : BitVec 512 := Tbl.get 0 c.descs (movDesc s m)

/-- Every window a slice reads (R41 condition 1). -/
def sliceSources (c : Ctx) (s : Slice) : List Nat :=
  arrSources (arrGroup s) ++ (vecGroups s).flatMap (vecSources c)
    ++ (launches s).filterMap fun m =>
      if mdSrcLvl (launchDesc c s m) = 0 then some (mdSrcWin (launchDesc c s m)) else none

/-- The windows and plain tokens one operation of the slice writes or completes, operation by operation. -/
def sliceDestLists (c : Ctx) (s : Slice) (delayed : Bool) : List (List Nat) :=
  (vecGroups s).map vecDests ++ [drainComps c s delayed]
    ++ (launches s).map fun m =>
      let d := launchDesc c s m
      (if mdDstLvl d = 0 then [mdDstWin d] else []) ++ (if mdTokenEn d then [mdToken d] else [])

/-- Every window and plain token a slice writes (R41 condition 2). -/
def sliceDests (c : Ctx) (s : Slice) (delayed : Bool) : List Nat := (sliceDestLists c s delayed).flatten

/-- Whether no name stands twice in a list. -/
def noRepeat : List Nat → Bool
  | [] => true
  | n :: t => !(t.contains n) && noRepeat t

/-- The windows an operation of the slice both reads and writes, which are tested PRESENT only (R41): a vector operation's,
and that of a launch within one window. -/
def inPlace (c : Ctx) (s : Slice) : List Nat :=
  ((vecGroups s).flatMap fun v => (vecDests v).filter fun n => (vecSources c v).contains n)
    ++ (launches s).filterMap fun m =>
      let d := launchDesc c s m
      if mdSrcLvl d = 0 ∧ mdDstLvl d = 0 ∧ mdSrcWin d = mdDstWin d then some (mdDstWin d) else none

/-- The key of a remote window. -/
def remoteKey (die win : Nat) : Nat := 1024 * die + win

/-- The remote windows a slice launches into. -/
def sliceRemotes (c : Ctx) (s : Slice) : List Nat :=
  (launches s).filterMap fun m =>
    let d := launchDesc c s m
    if mdDstLvl d = 3 then some (remoteKey (mdDstDie d) (mdDstWin d)) else none

/-- Whether a slice is legal for a context, the bank it names and whether that bank's tile is delayed. -/
def sliceLegal (c : Ctx) (die : Nat) (s : Slice) (b : Bank) (delayed : Bool) : Bool :=
  let a := arrGroup s
  let drain := arrOp a == 3
  slicePlain s && loopsOk c s
    && (match arrOp a with
        | 1 => passLegal c b a
        | 2 => preloadLegal c a
        | 3 => drainLegal c s delayed
        | _ => true)
    && (vecGroups s).all (fun v => vecLegal c v drain (b.held == some .int))
    && (launches s).all (fun m => mdLegal c die (launchDesc c s m))
    && noRepeat (sliceDests c s delayed) && noRepeat (sliceRemotes c s)

end Sys2Proof.Machine
end

