-- ==== Sys2Proof/Machine/Gate.lean ====
section
/-! DEFINITION. The issue gate (R41, R43, R44, R46, R49, R50, R64, R76, R77, R115, R116, R135, R193): what a
slice meets at the gate in one cycle. -/

namespace Sys2Proof.Machine

/-! ### Update table fields (R189) the gate needs -/

/-- UT_KIND. -/
def utKind (e : BitVec 512) : Nat := field e 32 3
/-- UT_COEF. -/
def utCoef (e : BitVec 512) : Nat := field e 37 8
/-- UT_BUCKET. -/
def utBucket (e : BitVec 512) : Nat := field e 45 16
/-- UT_COUNT. -/
def utCount (e : BitVec 512) : Nat := field e 104 40
/-- UT_FROZEN. -/
def utFrozen (e : BitVec 512) : Bool := flag e 35

/-- The key of block b of entry n. -/
def blockKey (n b : Nat) : Nat := n * 2 ^ 32 + b

/-- The key that stands for all rows of an embedding entry: its row-form result has arrived whole. -/
def rowsKey (n : Nat) : Nat := blockKey n (2 ^ 32 - 1)

/-- The record blocks of an entry. -/
def entryBlocks (e : BitVec 512) : Nat := ceilDiv (utCount e) 64

/-! ### Shard table entries (R226) -/

/-- SH_TENSOR. -/
def shTensor (e : BitVec 256) : Nat := field e 0 32
/-- SH_RANK. -/
def shRank (e : BitVec 256) : Nat := field e 32 6
/-- SH_DIE. -/
def shDie (e : BitVec 256) : Nat := field e 38 3
/-- SH_REPLICA. -/
def shReplica (e : BitVec 256) : Nat := field e 41 3
/-- SH_FIRST. -/
def shFirst (e : BitVec 256) : Nat := field e 48 40
/-- SH_COUNT. -/
def shCount (e : BitVec 256) : Nat := field e 88 40
/-- SH_UT. -/
def shUt (e : BitVec 256) : Nat := field e 128 14

/-- Whether an entry's rule needs a sketch (R193, R196): AdamW on a matrix. -/
def needsSketch (coefs : Tbl (BitVec 512)) (e : BitVec 512) : Bool :=
  utKind e == 0 && field (Tbl.get 0 coefs (utCoef e)) 0 4 == 0 && !(utFrozen e)

/-- Whether an entry is done for the step: every block updated or discarded, and its sketch folded (R193). The blocks of an
embedding entry are those of the rows its results name: the last result has been taken, and no block is in flight. -/
def entryDone (coefs : Tbl (BitVec 512)) (u : UpdCtx) (n : Nat) (e : BitVec 512) : Bool :=
  (if utKind e = 2 then u.done.contains (rowsKey n) && u.inFlight.all fun p => p.1 / 2 ^ 32 != n
   else (List.range (entryBlocks e)).all fun b => u.done.contains (blockKey n b))
    && (!(needsSketch coefs e) || (Tbl.get {} u.factors n).folded)

/-- Whether bucket b is complete on the die (R193). -/
def bucketComplete (coefs : Tbl (BitVec 512)) (u : UpdCtx) (b : Nat) : Bool :=
  (Tbl.get {} u.buckets b).closed
    && u.table.all fun p => utBucket p.2 != b || entryDone coefs u p.1 p.2

/-- Whether every bucket armed in the step is complete (R193). -/
def bucketsComplete (coefs : Tbl (BitVec 512)) (u : UpdCtx) : Bool :=
  u.buckets.all fun p => !(p.2.armed) || bucketComplete coefs u p.1

/-! ### Domains -/

/-- The keeper of a domain of a die. -/
def Die.keeper (d : Die) (k : Nat) : Keeper := Tbl.get {} d.keepers k

/-- Whether a domain is ON and neither fenced nor held. -/
def Keeper.awake (k : Keeper) : Bool := k.power == .on && !k.waking && !k.fenced && !k.stopHeld

/-- The domains of the scratchpad quarters or loft die a window lies in (R25). -/
def winDomains (w : BitVec 128) : List Nat :=
  match winLvl w with
  | 1 => (List.range 4).filterMap fun q =>
      if winBank0 w < 16 * (q + 1) ∧ 16 * q < winBank0 w + winNBanks w then some (21 + q) else none
  | 2 => [30]
  | 3 => [31]
  | _ => []

/-- The domain of the link port that data to another die crosses on this die (R20, R25, R319): the ring port to a neighbour,
and the hub port otherwise, or where the ring link to the neighbour is off. ringOff names the ring links that are off. -/
def portDomain (die other : Nat) (ringOff : List Nat) : Nat :=
  if other = (die + 1) % 8 ∧ !(ringOff.contains die) then 37
  else if other = (die + 7) % 8 ∧ !(ringOff.contains other) then 36 else 35

/-- The domains a launch of a descriptor uses (R41 condition 5). -/
def mdDomains (die : Nat) (ringOff : List Nat) (d : BitVec 512) : List Nat :=
  let cellar (n : Nat) : List Nat := if n = die then [32, 33, 34] else [portDomain die n ringOff]
  (match mdSrcLvl d with
    | 1 => cellar (mdSrcDie d)
    | 2 => [35]
    | _ => [])
  ++ (match mdDstLvl d with
    | 1 => cellar (mdDstDie d)
    | 2 => [35]
    | 3 => [portDomain die (mdDstDie d) ringOff]
    | 4 => [35]
    | _ => [])

/-- The column bands a pass uses: those that cover its B window's columns, among the presented ones. -/
def passBands (c : Ctx) (a : BitVec 96) (presented : Nat) : List Nat :=
  List.range (min (ceilDiv presented 8) (ceilDiv (winExtMn (c.win (arrB a))) 32))

/-- Every domain a slice uses (R41 condition 5): the sequencer and token unit, and those of its
operations. -/
def sliceDomains (c : Ctx) (die presented : Nat) (ringOff : List Nat) (s : Slice) (delayed : Bool) : List Nat :=
  let a := arrGroup s
  [38, 39]
    ++ (match arrOp a with
        | 1 => 17 :: 18 :: passBands c a presented
        | 2 => List.range (ceilDiv presented 8)
        | _ => [])
    ++ (if vecOp (vecGroup s 0) = 0 then [] else [19]) ++ (if vecOp (vecGroup s 1) = 0 then [] else [20])
    ++ (launches s).flatMap (fun m => (25 + m) :: mdDomains die ringOff (launchDesc c s m))
    ++ (if updOp s = 0 then [] else [29])
    ++ (sliceSources c s ++ (sliceDests c s delayed).filter (· < 1024)).flatMap fun n => winDomains (c.win n)

/-! ### The array -/

/-- Bank b of a die. -/
def Die.bank (d : Die) (b : Nat) : Bank := if b = 0 then d.bank0 else d.bank1

/-- Bank b replaced. -/
def Die.setBank (d : Die) (b : Nat) (x : Bank) : Die := if b = 0 then { d with bank0 := x } else { d with bank1 := x }

/-- The open tile on bank b that a drain would deliver: the one not yet drained. -/
def Die.openTile (d : Die) (b : Nat) : Option Tile := d.tiles.find? fun t => t.bank == b && !t.drained

/-- Whether a drain of bank b is a delayed drain (R138). -/
def Die.delayedBank (d : Die) (b : Nat) : Bool :=
  match d.openTile b with
  | some t => t.delayed
  | none => false

/-- The entries of the replay log (R77). -/
def Die.logLength (d : Die) : Nat := d.tiles.foldl (fun n t => n + t.log.length) 0

/-- Whether the other bank lets a pass issue (R62, R64): no pass runs there, or this is its end cycle. -/
def passFree (other : Bank) (cycle : Nat) : Bool :=
  other.state != .accumulating || decide (other.passEnd.getD 0 ≤ cycle)

/-- Whether an array operation may issue on bank b in this cycle (R62, R64, R66, R77). -/
def Die.arrayReady (d : Die) (a : BitVec 96) : Bool :=
  let b := d.bank (arrBank a)
  let o := d.bank (1 - arrBank a)
  let e := b.passEnd.getD 0
  decide (d.logLength < 64)
    && (match arrOp a with
        | 1 => passFree o d.cycle && (match b.state with
            | .zero | .preloaded => true
            | .holding => decide (e < d.cycle)
            | _ => false)
        | 2 => match b.state with
            | .zero | .preloaded => true
            | .holding => decide (e + 63 ≤ d.cycle)
            | _ => false
        | _ => o.state != .draining && (match b.state with
            | .zero | .preloaded => true
            | .holding => decide (e < d.cycle)
            | _ => false))

/-! ### The vector units -/

/-- The operations of a vector unit. -/
def Die.vec (d : Die) (u : Nat) : List VecJob := if u = 0 then d.vec0 else d.vec1

/-- A unit's operations replaced. -/
def Die.setVec (d : Die) (u : Nat) (x : List VecJob) : Die := if u = 0 then { d with vec0 := x } else { d with vec1 := x }

/-- Whether a unit accepts an operation in this cycle (R115, R116). -/
def vecReady (jobs : List VecJob) (cycle : Nat) (drain : Bool) : Bool :=
  if drain then
    let live := jobs.filter fun j => decide (cycle < j.lastBegin)
    decide (live.length ≤ 1) && live.all fun j => j.drain.isSome
  else jobs.all fun j => decide (j.lastBegin + j.rowCycles ≤ cycle + 1)

/-- Whether every vector operation of a slice finds its unit ready. -/
def Die.vecsReady (d : Die) (s : Slice) : Bool :=
  (List.range 2).all fun u =>
    vecOp (vecGroup s u) == 0 || vecReady (d.vec u) d.cycle (vecAcc (vecGroup s u))

/-! ### Tokens and credits -/

/-- The state of a token. -/
def Ctx.tok (c : Ctx) (n : Nat) : Tok := Tbl.get .empty c.tokens n

/-- The windows held by the tun's open tiles (R76). -/
def Die.heldBy (d : Die) (u : Nat) : List Nat :=
  d.tiles.flatMap fun t => if t.tun = u then t.held else []

/-- Whether a credit is held for every remote window a slice launches into (R43). -/
def creditsHeld (c : Ctx) (s : Slice) : Bool :=
  (sliceRemotes c s).all fun r => c.crossDie.contains r && !(c.spent.contains r)

/-- Whether every launch of a slice finds its slot free and the die below its bound (R49, R161); quota is a
sealed tun's, or the pooled tuns' remainder, and pool the tuns that share it. -/
def Die.moversReady (d : Die) (u : Nat) (s : Slice) (quota : Nat) (pool : List Nat) : Bool :=
  let ls := launches s
  let mine := d.movs.filter fun j => pool.contains j.tun
  ls.all (fun m => !(d.movs.any fun j => j.tun == u && j.slot == movDesc s m))
    && noRepeat (ls.map fun m => movDesc s m)
    && decide (d.movs.length + ls.length ≤ 512) && decide (mine.length + ls.length ≤ quota)

/-! ### The gate -/

/-- Why a slice waits, in the order of R50; busy is a vector unit (VEC_STALL_BUSY). -/
inductive Wait where
  | fetch | wake | sealed | slip | src | dst | remote | array | mover | busy
  deriving DecidableEq, Repr

/-- The program faults of R51 and R192. -/
inductive ProgFault where
  | illegalSlice | tokenDoubleSet | strayCompletion | sealViolation | sealSpacing | sealedOverrun
  | doubleArrival | doubleContribution | lateContribution
  deriving DecidableEq, Repr

/-- What a slice meets at the gate. -/
inductive GateOut where
  | go
  | wait (w : Wait)
  | fault (f : ProgFault)
  deriving DecidableEq, Repr

/-- What the gate is told of the device: the die, the tun and its share, the tun's other dies, the sequence
of each of its dies' barrier arrives, its coefficient sets, its mover quota and the tuns that share it,
whether this cycle is throttled (R393), the ring links that are off, whether a collective launch of the slice is illegal (R224, R229, R233,
R240) and whether one lacks a credit (R232). -/
structure GateIn where
  die : Nat
  tun : Nat
  sh : Share
  peers : List Nat
  arrives : List Nat
  coefs : Tbl (BitVec 512)
  quota : Nat
  pool : List Nat
  throttled : Bool
  collIllegal : Bool
  collBlocked : Bool
  /-- a launch of the slice names a window of another die that it may not write (R155, R156) -/
  farIllegal : Bool := false
  /-- the ring links that are off -/
  ringOff : List Nat := []
  deriving DecidableEq, Repr

/-- The slice at an address of the stream; an address past the stream's end holds none. -/
def Ctx.sliceAt (c : Ctx) (a : Nat) : Option Slice :=
  if a < c.streamLen then some (Tbl.get 0 c.stream a) else none

/-- Whether a seal slice meets live data: a violation, a wait or neither (R46, R67, R143). A running pass is a violation;
while a drain is in flight on one bank the slice waits, whatever the other bank holds, and undrained results are a violation
once none is (DEDUCED, log entry 97). -/
def Die.sealTest (d : Die) (u : Nat) : GateOut :=
  let undrained (b : Bank) : Bool := b.state == .preloaded || b.state == .holding
  if d.bank0.state == .accumulating || d.bank1.state == .accumulating then .fault .sealViolation
  else if d.bank0.state == .draining || d.bank1.state == .draining || d.tiles.any (fun t => t.tun == u && t.delayed && t.drained)
  then .wait .sealed
  else if undrained d.bank0 || undrained d.bank1 then .fault .sealViolation else .go

/-- Whether an explicit wait, a barrier or a source is missing (R41 conditions 1 and 3). -/
def srcMissing (g : GateIn) (c : Ctx) (s : Slice) : Bool :=
  (sliceSources c s).any (fun n => c.tok n != .present)
    || (activeWaits s).any (fun w => c.tok w.1 != .present)
    || (syncOp s == 2 && !(g.arrives.all fun a => decide (c.passed < a)))

/-- Whether a destination is not EMPTY or is held (R41 condition 2, R76). -/
def dstBlocked (d : Die) (c : Ctx) (u : Nat) (s : Slice) (delayed : Bool) : Bool :=
  let own := inPlace c s
  (sliceDests c s delayed).any fun n =>
    (!(own.contains n) && c.tok n != .empty) || (decide (n < 1024) && (d.heldBy u).contains n)

/-- Whether a tile has overflowed at exponent D (R140). -/
def overflowed (amax : Word32) (d : Int) (f : Fmt) : Bool :=
  match (Val.of32 amax).mul (.dyadic false 1 (-d)), f.float? with
  | .fin _ n k, some p => decide (n ≠ 0) &&
      (let q := roundSig .nearest p.fbits f.maxMag n k
       f.maxMag.lt (Val.dyadic false q.1 q.2))
  | _, _ => false

/-- The larger of two magnitudes. -/
def maxMag (a b : Word32) : Word32 := if (Val.of32 a).lt (Val.of32 b) then b else a

/-- Whether a drained delayed tile is going to be recomputed: its amax over what its operations have folded and are folding is
finite and it has overflowed, or it is marked scale-high (R140, R141). -/
def Die.willRecompute (d : Die) (t : Tile) : Bool :=
  let folds := ((d.vec0 ++ d.vec1).filter fun j => j.drain == some t.id).filterMap fun j => j.folds.head?
  let amax := folds.foldl (fun m f => maxMag m f.amax) t.amax
  let nan := t.amaxNan || folds.any Fold.nan
  t.delayed && t.drained && !t.recomputed && !nan && !(Val.of32 amax).nonfinite
    && (t.scaleHigh.isSome || overflowed amax t.expD ((Fmt.ofCode t.fmt).getD .e4m3))

/-- Whether a step close must wait for folds, those of a recomputed drain among them, or for buckets (R135, R141, R193). -/
def closeWaits (g : GateIn) (d : Die) (c : Ctx) (s : Slice) : Bool :=
  syncOp s == 0x10
    && (((d.vec0 ++ d.vec1).any fun j => j.tun == g.tun && !(j.folds.isEmpty))
        || (d.tiles.any fun t => t.tun == g.tun && d.willRecompute t)
        || !(bucketsComplete g.coefs c.upd))

/-- Whether the issue would pass the slip bound (R44). -/
def slipBlocked (g : GateIn) (c : Ctx) : Bool :=
  g.peers.any fun p => decide (Tbl.get 0 c.peers p + 4096 < c.issue + 1)

/-- The domains a slice finds asleep. -/
def Die.asleep (d : Die) (g : GateIn) (c : Ctx) (s : Slice) : List Nat :=
  (sliceDomains c g.die d.arr.presented g.ringOff s (d.delayedBank (arrBank (arrGroup s)))).filter fun k => !((d.keeper k).awake)

/-- Whether a die whose idle domains were gated while its gate waits on conditions 1, 3 or 6 still waits so: the domains it
lacks are those alone, and they are not woken until the wait ends (R247). -/
def Die.idleWait (d : Die) (g : GateIn) (c : Ctx) (s : Slice) : Bool :=
  !(d.idleGated.isEmpty) && (slipBlocked g c || srcMissing g c s) && (d.asleep g c s).all d.idleGated.contains

/-- What slice s meets at the gate, conditions in the order of R50 after the faults of R31, R46 and R45. -/
def gateSlice (g : GateIn) (d : Die) (c : Ctx) (s : Slice) : GateOut :=
  let a := arrGroup s
  let delayed := d.delayedBank (arrBank a)
  if g.collIllegal || g.farIllegal || !(sliceLegal c g.die s (d.bank (arrBank a)) delayed) then .fault .illegalSlice
  else if !(ctlSeal s) && decide (2500 ≤ c.sinceSeal + 1) then .fault .sealSpacing
  else if g.throttled || (!((d.asleep g c s).isEmpty) && !(d.idleWait g c s)) then .wait .wake
  else
    match (if ctlSeal s then d.sealTest g.tun else .go) with
    | .fault f => .fault f
    | .wait w => .wait w
    | .go =>
      if closeWaits g d c s then .wait .sealed
      else if slipBlocked g c then .wait .slip
      else if srcMissing g c s then .wait .src
      else if dstBlocked d c g.tun s delayed then .wait .dst
      else if g.collBlocked || !(creditsHeld c s) then .wait .remote
      else if arrOp a != 0 && !(d.arrayReady a) then .wait .array
      else if !(d.moversReady g.tun s g.quota g.pool) then .wait .mover
      else if !(d.vecsReady s) then .wait .busy
      else .go

/-- The stall block with one more cycle under a condition (R50). -/
def Stall.count (t : Stall) : Wait → Stall
  | .fetch => { t with fetch := t.fetch + 1 }
  | .wake => { t with wake := t.wake + 1 }
  | .sealed => { t with sealed := t.sealed + 1 }
  | .slip => { t with slip := t.slip + 1 }
  | .src => { t with src := t.src + 1 }
  | .dst => { t with dst := t.dst + 1 }
  | .remote => { t with remote := t.remote + 1 }
  | .array => { t with array := t.array + 1 }
  | .mover => { t with mover := t.mover + 1 }
  | .busy => t

/-- A context after one cycle of waiting. -/
def Ctx.waited (c : Ctx) (w : Wait) : Ctx :=
  { c with stall := c.stall.count w,
           vec := if w = .busy then { c.vec with stallBusy := c.vec.stallBusy + 1 } else c.vec,
           fetchWait := if w = .fetch then c.fetchWait - 1 else c.fetchWait }

/-- The domains whose wake the gate requests at once: those a slice finds asleep (R48), and, when a long wait has ended, those
gated while it lasted (R247). -/
def wakeDemand (g : GateIn) (d : Die) (c : Ctx) (s : Slice) : List Nat :=
  if slipBlocked g c || srcMissing g c s then (if d.idleWait g c s then [] else d.asleep g c s)
  else d.asleep g c s ++ d.idleGated

/-- A keeper after a wake is asked of it (R27, R48): nothing where it is ON, and the wake begins otherwise.
A wake cancels a held release. -/
def Keeper.wake (k : Keeper) : Keeper :=
  let k := { k with gateReq := if k.gateReq = some .release then none else k.gateReq }
  if k.power = .on ∨ k.fenced ∨ k.stopHeld then k else { k with waking := true }

/-- A die with a wake asked of each domain of a list. -/
def Die.wakeAll (d : Die) (ks : List Nat) : Die :=
  { d with keepers := ks.foldl (fun t k => Tbl.modify {} t k Keeper.wake) d.keepers }

end Sys2Proof.Machine
end

