-- ==== Sys2Proof/Machine/Issue.lean ====
section
/-! DEFINITION. The issue of a slice on a die: control flow (R33), tokens (R40, R43), the array (R62 to R66,
R76, R77), the vector units (R114 to R116), statistics (R133 to R139), launches (R37, R159, R160), the update
operations (R38, R193) and the seal record (R47). -/

namespace Sys2Proof.Machine

/-! ### Tokens -/

/-- A token set to a state. -/
def Ctx.setTok (c : Ctx) (n : Nat) (t : Tok) : Ctx := { c with tokens := c.tokens.put n t }

/-- The windows a slice empties: consume-on-read sources and waits with CONSUME (R40). -/
def consumes (c : Ctx) (s : Slice) : List Nat :=
  (sliceSources c s).filter (fun n => winCor (c.win n)) ++ (activeWaits s).filterMap fun w => if w.2 then some w.1 else none

/-- The context with its consumed tokens EMPTY; the credit of a consumed window that came from outside the
die starts on its way back, or waits for the tile that holds the window (R43, R76). -/
def Ctx.consume (c : Ctx) (held : List Nat) (ns : List Nat) : Ctx :=
  ns.foldl (fun c n =>
    let c := c.setTok n .empty
    match c.owed.find n with
    | none => c
    | some _ => if held.contains n then c
                else if c.returning.contains n then c else { c with returning := n :: c.returning }) c

/-- The consumed windows owed to a writer that a tile holds. -/
def heldOwed (c : Ctx) (held ns : List Nat) : List Nat :=
  ns.filter fun n => (c.owed.find n).isSome && held.contains n

/-! ### Statistics slots (R134 to R139) -/

/-- A slot after a fold (R134). -/
def StatSlot.fold (t : StatSlot) (f : Fold) : StatSlot :=
  { t with amax := if (Val.of32 t.amax).lt (Val.of32 f.amax) then f.amax else t.amax, nan := t.nan || f.nan }

/-- The largest of the valid history entries: the valid ones are those last pushed. -/
def StatSlot.histMax (t : StatSlot) : Word32 :=
  (List.range t.valid).foldl (fun m i =>
    let x := Tbl.get 0 t.hist ((t.head + 15 - i) % 16)
    if (Val.of32 m).lt (Val.of32 x) then x else m) 0

/-- A slot's push at a step close (R139). -/
def StatSlot.push (t : StatSlot) : StatSlot :=
  let t' : StatSlot :=
    { t with disp1 := t.disp0, disp0 := Tbl.get 0 t.hist t.head, prevValid := t.valid, pushed := true,
             hist := t.hist.put t.head t.amax, head := (t.head + 1) % 16,
             valid := if t.valid < 16 then t.valid + 1 else 16 }
  { t' with hmax := t'.histMax }

/-- A slot at a step close: pushed unless it met a NaN, and its step fields cleared (R139). -/
def StatSlot.close (t : StatSlot) : StatSlot :=
  let t := if t.nan then { t with pushed := false } else t.push
  { t with amax := 0, nan := false, overs := 0, over2 := 0, under := 0 }

/-- A slot's undo after a spoiled vote (R139). -/
def StatSlot.undo (t : StatSlot) : StatSlot :=
  if t.pushed then
    let h := (t.head + 15) % 16
    let t' : StatSlot :=
      { t with head := h, hist := t.hist.put h t.disp0, valid := t.prevValid, disp0 := t.disp1, disp1 := 0,
               pushed := false }
    { t' with hmax := t'.histMax }
  else t

/-- Every one of the 512 slots closed; a slot never touched pushes its zero like any other. -/
def closeStats (ts : Tbl StatSlot) : Tbl StatSlot :=
  (List.range 512).map fun n => (n, (Tbl.get {} ts n).close)

/-- The totals of R151 with the step counters of the slots added. -/
def addStats (n : NarrowStat) (ts : Tbl StatSlot) : NarrowStat :=
  { n with recomputes := ts.foldl (fun x p => x + p.2.overs) n.recomputes,
           over2 := ts.foldl (fun x p => x + p.2.over2) n.over2,
           scaleLow := ts.foldl (fun x p => x + p.2.under) n.scaleLow }

/-- The scale exponent of a magnitude for a target format (R136). -/
def scaleExp (v : Word32) (f : Fmt) : Int :=
  match Val.of32 v with
  | .fin _ n d =>
    if n = 0 then -127
    else
      let e := floorLog2 n d - f.emax
      let y := (Val.fin false n d).mul (.dyadic false 1 (-e))
      let r := match f.float? with
        | some p => let q := match y with
                      | .fin _ a b => roundSig .nearest p.fbits f.maxMag a b
                      | _ => (0, 0)
                    Val.dyadic false q.1 q.2
        | none => y
      clampInt (-127) 127 (if f.maxMag.lt r then e + 1 else e)
  | _ => 127

/-! ### The array -/

/-- A tile put into the list of tiles, in the place of the one with its id. -/
def Die.putTile (d : Die) (t : Tile) : Die :=
  if d.tiles.any (fun x => x.id == t.id) then
    { d with tiles := d.tiles.map fun x => if x.id = t.id then t else x }
  else { d with tiles := d.tiles ++ [t], tileSeq := d.tileSeq + 1 }

/-- The tile an array operation on bank b belongs to: the open one, or a new one. -/
def Die.tileFor (d : Die) (u b : Nat) : Tile := (d.openTile b).getD { id := d.tileSeq, tun := u, bank := b }

/-- The operands of a pass as its fields name them, in a tile that is delayed or not; illegal pairs never come here. -/
def passOps (c : Ctx) (a : BitVec 96) (gen beta : Nat) (delayed : Bool) : PassOps :=
  let fa := (Fmt.ofCode (arrAFmt a)).getD .fp32
  let fb := (Fmt.ofCode (arrBFmt a)).getD .fp32
  let dc := (pairClass fa fb).getD (1, .fp)
  { fa := fa, fb := fb, wa := arrA a, wb := arrB a, ws := arrScale a, d := dc.1, cls := dc.2,
    steps := arrDepth a, long := arrLong a, delayed := delayed, slot := arrSlot a, beta := beta,
    gen := gen, key := c.genKey }

/-- A bank with a preload's row in every accumulator row (R65). -/
def preloadBank (sh : Share) (m : Mem) (c : Ctx) (a : BitVec 96) : Bank :=
  { state := .preloaded, cls := some .fp,
    base := (List.range 512).map fun j => (j, flush32 (BitVec.ofNat 32 (elemOf sh m c (arrPre a) j))) }

/-- The counts of a pass in the context's numeric and narrow blocks and its statistics slot (R95, R144,
R151). -/
def Ctx.passNotes (c : Ctx) (p : PassOps) (n : PassNotes) (newHigh : Bool) : Ctx :=
  let overs := n.high.isSome && !p.delayed
  { c with num := { c.num with intSat := c.num.intSat + n.intSat },
           narrow := { c.narrow with
             scaleHigh := c.narrow.scaleHigh + bit newHigh,
             zpPasses := c.narrow.zpPasses + bit (winFmt (c.win p.ws) == 0x10 && p.cls == .fp) },
           stats := if n.under = 0 ∧ overs = false then c.stats
             else Tbl.modify {} c.stats p.slot fun t =>
               { t with under := min 0xFFFFFFFF (t.under + n.under), over2 := t.over2 + bit overs } }

/-- A pass issued on a die (R62 to R64): its bank, its tile and its counts. A pass before the tile's first DELAYED pass is one of a tile
that is not delayed (R144; DESIGN CHOICE, log entry 159). -/
def issuePass (sh : Share) (u : Nat) (d : Die) (c : Ctx) (s : Slice) : Die × Ctx :=
  let a := arrGroup s
  let b := arrBank a
  let t := d.tileFor u b
  let delayed := t.delayed || arrDelayed a
  let p := passOps c a c.genPos 0 delayed
  let r := runPass sh d.mem c p (4 * d.arr.presented) (d.bank b)
  let newHigh := delayed && r.2.high.isSome && t.scaleHigh.isNone
  let t : Tile :=
    { t with log := t.log ++ [{ array := a, vec0 := 0, vec1 := 0, genPos := c.genPos, seq := c.issue }],
             held := t.held ++ arrSources a, delayed := delayed, slot := some (arrSlot a),
             scaleHigh := if delayed then (match r.2.high with
               | some h => some (max h (t.scaleHigh.getD 0))
               | none => t.scaleHigh) else t.scaleHigh }
  let bank : Bank := { r.1 with state := .accumulating, passEnd := some (d.cycle + arrDepth a), amaxSlot := some (arrSlot a) }
  let d := (d.setBank b bank).putTile t
  let c1 := c.passNotes p r.2 newHigh
  ({ d with arr := { d.arr with passes := d.arr.passes + 1 } },
   { c1 with genPos := if arrLong a then (c.genPos + arrDepth a) % 2 ^ 64 else c.genPos })

/-- A preload issued on a die (R64, R65). -/
def issuePreload (sh : Share) (u : Nat) (d : Die) (c : Ctx) (s : Slice) : Die :=
  let a := arrGroup s
  let b := arrBank a
  let t := d.tileFor u b
  let t : Tile := { t with log := t.log ++ [{ array := a, vec0 := 0, vec1 := 0, genPos := c.genPos, seq := c.issue }],
                           held := t.held ++ arrSources a }
  let bank := preloadBank sh d.mem c a
  let bank := { bank with passEnd := (d.bank b).passEnd, amaxSlot := (d.bank b).amaxSlot }
  let disc := bit ((d.bank b).state == .holding)
  let d := (d.setBank b bank).putTile t
  { d with arr := { d.arr with discards := d.arr.discards + disc } }

/-- The cycle F in which a drain begins reading (R66). -/
def drainStart (b : Bank) (cycle : Nat) : Nat :=
  match b.passEnd with
  | some e => max (cycle + 1) (e + 33)
  | none => cycle + 1

/-! ### The vector units -/

/-- The positions of the random generator an operation takes: its rows where it rounds stochastically, which only an
arithmetic operation and one of the conversion class do (R97, R98, R117). -/
def vecTakes (v : BitVec 64) : Nat :=
  if vecRnd v = 1 ∧ (opArith (vecOp v) || opConvClass (vecOp v)) then vecLen v else 0

/-- The environment of a vector operation. -/
def vecEnv (sh : Share) (d : Die) (c : Ctx) (v : BitVec 64) (u pos : Nat) (bank : Bank) (expD : Option Int) : VecEnv :=
  { sh := sh, m := d.mem, c := c, v := v, pos := pos, unit := u, bank := bank, width := 4 * d.arr.presented,
    bandsOff := (List.range 16).filter fun k => (d.keeper k).power != .on, expD := expD }

/-- The operation's job on its unit: its results, its times (R115, R116) and its folds (R134). F is the
drain's read start; what the operation reads at its start (R114) it reads from its issue on, beside a drain's wait for F
and for the unit (DESIGN CHOICE, log entry 98). A delayed drain whose amax is a NaN or an infinity spoils the step (R140). -/
def vecJob (e : VecEnv) (tun : Nat) (cycle : Nat) (jobs : List VecJob) (drain : Option Nat) (slot : Option Nat)
    (f : Nat) : VecJob :=
  let o := e.run
  let c := e.rowCycles
  let free := jobs.foldl (fun x j => max x (j.lastBegin + j.rowCycles)) 0
  let start := match drain with
    | some _ => max (max f free) (cycle + 1 + e.preCycles)
    | none => cycle + 1 + e.preCycles
  let last := match drain with
    | some _ => max (start + (e.len - 1) * c) (f + e.len - 1)
    | none => start + (e.len - 1) * c
  let conv := if opCvt e.op then winStatSlot (e.c.win (vecDst e.v)) else none
  let mk (x : Option Nat) : List Fold := match x with
    | some n => [{ slot := n, amax := o.amax.1, nan := o.amax.2 }]
    | none => []
  { tun := tun, op := e.op, unit := e.unit, drain := drain, writes := o.writes,
    doms := (vecSources e.c e.v ++ vecDests e.v).flatMap fun n => winDomains (e.c.win n),
    dst := if e.expD.isSome then [] else vecDests e.v,
    delta := { o.delta with nonfinite := o.delta.nonfinite || (e.expD.isSome && o.amax.2) },
    folds := (if drain.isSome then mk slot else []) ++ mk conv,
    lastBegin := last, rowCycles := c, doneAt := last + c + opLatency e.op }

/-- A slice's vector operations put on their units; drains read the bank the slice drains. -/
def issueVec (sh : Share) (tun : Nat) (d : Die) (c : Ctx) (s : Slice) (u pos : Nat) (bank : Bank)
    (expD : Option Int) (tile : Tile) (f : Nat) : Die :=
  let v := vecGroup s u
  if vecOp v = 0 then d
  else
    let e := vecEnv sh d c v u pos bank (if vecAcc v then expD else none)
    let drain := if vecAcc v then some tile.id else none
    d.setVec u (d.vec u ++ [vecJob e tun d.cycle (d.vec u) drain tile.slot f])

/-- The scale bytes a delayed drain writes at its close: 127 + D for every block of DST (R138). -/
def scaleBytes (sh : Share) (c : Ctx) (s : Slice) (d : Int) : List (Nat × Bytes) :=
  (accGroups s).flatMap fun v =>
    match winComp (c.win (vecDst v)) with
    | some n => winWrites sh (c.win n) 0
        (List.replicate (vecLen v * 1024 / winBs (c.win (vecDst v))) (BitVec.ofNat 8 (127 + d).toNat))
    | none => []

/-- The exponent D of a delayed drain (R137): from the history, or from the step so far. -/
def drainExp (c : Ctx) (slot : Option Nat) (f : Fmt) : Int :=
  let t := Tbl.get {} c.stats (slot.getD 0)
  scaleExp (if t.valid < 16 then t.amax else t.hmax) f

/-- A drain's tile and bank (R66, R76, R77, R138): the tile is logged and holds what the drain reads. Where the two vector operations of
a delayed drain name two formats, the first one's stands for D and for the overflow test (DESIGN CHOICE, log entry 157). -/
def issueDrainTile (sh : Share) (u : Nat) (d : Die) (c : Ctx) (s : Slice) (pos0 pos1 : Nat) : Die × Tile :=
  let a := arrGroup s
  let b := arrBank a
  let bank := d.bank b
  let t := d.tileFor u b
  let gs := accGroups s
  let fmt := match gs with
    | v :: _ => vecFmt v
    | [] => 0
  let e := if t.delayed then drainExp c t.slot ((Fmt.ofCode fmt).getD .e4m3) else 0
  let f := drainStart bank d.cycle
  let len := if gs.length = 2 then 128 else 256
  let keep (x : BitVec 64) : BitVec 64 := if vecOp x ≠ 0 ∧ vecAcc x then x else 0
  let t : Tile :=
    { t with log := t.log ++ [{ array := a, vec0 := keep (vecGroup s 0), vec1 := keep (vecGroup s 1),
                                genPos := c.genPos, genPos0 := pos0, genPos1 := pos1,
                                seq := c.issue }],
             held := t.held ++ gs.flatMap (vecSources c), expD := e, fmt := fmt, drained := true,
             dst := if t.delayed then gs.flatMap vecDests ++ drainComps c s true else [],
             scaleWrites := if t.delayed then scaleBytes sh c s e else [], unitsLeft := gs.length }
  (d.setBank b { bank with state := .draining, lastRead := f + len - 1 }, t)

/-- The array and vector operations of a slice (R98 gives the order of the generator positions). -/
def issueWork (sh : Share) (u : Nat) (d : Die) (c : Ctx) (s : Slice) : Die × Ctx :=
  let a := arrGroup s
  let b := arrBank a
  let r := match arrOp a with
    | 1 => issuePass sh u d c s
    | 2 => (issuePreload sh u d c s, c)
    | _ => (d, c)
  let pos0 := r.2.genPos
  let pos1 := pos0 + vecTakes (vecGroup s 0)
  let c2 : Ctx := { r.2 with genPos := (pos1 + vecTakes (vecGroup s 1)) % 2 ^ 64 }
  let bank := d.bank b
  if arrOp a = 3 then
    let f := drainStart bank d.cycle
    let dt := issueDrainTile sh u r.1 c s pos0 pos1
    let e := if dt.2.delayed then some dt.2.expD else none
    let d1 := issueVec sh u dt.1 c s 0 pos0 bank e dt.2 f
    let d2 := issueVec sh u d1 c s 1 pos1 bank e dt.2 f
    (d2.putTile dt.2, c2)
  else
    let d1 := issueVec sh u r.1 c s 0 pos0 bank none {tun := u, bank := b} 0
    (issueVec sh u d1 c s 1 pos1 bank none {tun := u, bank := b} 0, c2)

/-! ### Launches -/

/-- The domains a launch uses beside its mover's: those of its descriptor, and those its windows on this die lie in. -/
def launchDomains (c : Ctx) (die : Nat) (ringOff : List Nat) (d : BitVec 512) : List Nat :=
  mdDomains die ringOff d ++ (if mdSrcLvl d = 0 then winDomains (c.win (mdSrcWin d)) else [])
    ++ (if mdDstLvl d = 0 then winDomains (c.win (mdDstWin d)) else [])

/-- A slice's launches: each becomes an outstanding launch of its mover, a remote window's credit is spent,
and ADV moves the descriptor on unless the launch is refused (R37, R43, R160). voids names the movers whose
launch is refused. -/
def issueLaunches (u die : Nat) (ringOff : List Nat) (d : Die) (c : Ctx) (s : Slice) (voids : List Nat) : Die × Ctx :=
  let c0 := c
  (launches s).foldl (fun r m =>
    let desc := launchDesc c s m
    let slot := movDesc s m
    let void := voids.contains m
    let earlier := (r.1.movs.filter fun j => j.mover == m).map fun j => 512 * j.tun + j.slot
    let job : MovJob := { tun := u, slot := slot, mover := m, desc := desc, step := c.stepRec.t, void := void, doms := launchDomains c0 die ringOff desc,
                          after := if movOp s m = 2 then earlier else [] }
    let c := r.2
    ({ r.1 with movs := r.1.movs ++ [job] },
     { c with descs := if movAdv s m && !void then c.descs.put slot (mdAdvance desc) else c.descs,
              spent := if mdDstLvl desc = 3 then remoteKey (mdDstDie desc) (mdDstWin desc) :: c.spent else c.spent,
              refused := if void then c.refused + 1 else c.refused,
              spoil := c.spoil || void })) (d, c)

/-! ### Control flow (R33) -/

/-- The count of a loop start or repeat (R32, R33). -/
def sliceCount (c : Ctx) (s : Slice) : Nat :=
  if ctlCountSel s = 0 then countOf (ctlCount s) else countOf (Tbl.get 1 c.loopCounts (ctlCountSel s))

/-- The key of a tun's slice in the loop buffer of a die's sequencer. -/
def bufKey (u a : Nat) : Nat := u * 2 ^ 22 + a

/-- The loop buffer when slice k is considered: a slice it holds is not fetched again, and another is fetched, the slice
fetched longest ago leaving a buffer of 4,096. -/
def loopBufAdd (l : List Nat) (k : Nat) : List Nat := if l.contains k then l else (k :: l).take 4096

/-- The context going on at an address that is jumped to: 8 fetch cycles outside the loop buffer, whose slices of the tun
are those of buf. -/
def Ctx.goTo (c : Ctx) (buf : List Nat) (u a : Nat) : Ctx :=
  { c with pc := a, fetchWait := if buf.contains (bufKey u a) then 0 else 8 }

/-- The context after the control operation of the slice at pc (R33). -/
def Ctx.control (c : Ctx) (buf : List Nat) (u : Nat) (s : Slice) : Ctx :=
  let lv := ctlLevel s
  match ctlOp s with
  | 1 => { c with pc := c.pc + 1,
                  loops := c.loops.put lv { isOpen := true, count := sliceCount c s, head := c.pc + 1 } }
  | 2 =>
    let l := Tbl.get {} c.loops lv
    if l.count ≤ 1 then { c with pc := c.pc + 1, loops := c.loops.put lv { l with isOpen := false, count := 0 } }
    else { c with loops := c.loops.put lv { l with count := l.count - 1 } }.goTo buf u (ctlTarget s)
  | 3 =>
    let left := (if c.rep = 0 then sliceCount c s else c.rep) - 1
    if left = 0 then { c with pc := c.pc + 1, rep := 0 } else { c with rep := left }
  | 4 => c.goTo buf u (ctlTarget s)
  | 5 => { c with hold := true }.goTo buf u c.stepStart
  | 6 => { c with halted := true }
  | _ => { c with pc := c.pc + 1 }

/-! ### Update operations (R38, R193, R200) -/

/-- The context after the update operation of a slice: a bucket armed or closed, or the sum buffers of a
bucket's M entries handed to the stream. -/
def Ctx.update (c : Ctx) (s : Slice) : Ctx :=
  let b := updBucket s
  match updOp s with
  | 1 => { c with upd := { c.upd with buckets := Tbl.modify {} c.upd.buckets b fun x => { x with armed := true } } }
  | 2 => { c with upd := { c.upd with buckets := Tbl.modify {} c.upd.buckets b fun x => { x with closed := true } } }
  | 3 =>
    let es := c.upd.table.filter fun p => utBucket p.2 == b && utKind p.2 == 0
    let fs := es.foldl (fun t p => Tbl.modify {} t p.1 fun f => { f with flushed := true }) c.upd.factors
    { c with upd := { c.upd with factors := fs } }
  | _ => c

/-! ### Synchronisation and the step close (R34, R97, R110, R135, R139) -/

/-- The context after the synchronisation operation of a slice. -/
def Ctx.sync (c : Ctx) (s : Slice) : Ctx :=
  match syncOp s with
  | 1 => { c with arrives := c.arrives + 1 }
  | 2 => { c with passed := c.passed + 1 }
  | 3 => { c with genPos := genAdvance c.genPos }
  | 0x10 => { c with closed := true, num := { c.num with stepNonfinite := false }, narrow := addStats c.narrow c.stats, stats := closeStats c.stats }
  | _ => c

/-! ### Hints and the seal record -/

/-- A keeper after a release is asked of it (R27, R48): a fenced or held domain, and one that is gated already, stay as they
are; while a wake is under way or something is outstanding the release is held; else it is carried out. A steward's own request
that is held stays held. -/
def Keeper.release (k : Keeper) (busy : Bool) : Keeper :=
  if k.fenced ∨ k.stopHeld then k
  else if k.waking then { k with gateReq := k.gateReq.or (some .release) }
  else if k.power ≠ .on then k
  else if busy then { k with gateReq := k.gateReq.or (some .release) }
  else { k with power := .clockGated, gateReq := if k.gateReq = some .power then k.gateReq else none }

/-- Whether a domain of a die has an operation outstanding (R27). What counts is the model's choice where the spec names no
operations (DESIGN CHOICE, log entry 64): a memory domain is held by the open tiles, the vector operations and the launches
whose windows lie in it, and the update engine's blocks in flight hold the domains of their cellar controllers and of the
loft. -/
def Die.busy (d : Die) (k : Nat) : Bool :=
  let run := d.bank0.state != .zero || d.bank1.state != .zero
  let pass := d.bank0.state == .accumulating || d.bank1.state == .accumulating
  let blocks := d.ctxs.any fun p => !(p.2.upd.inFlight.isEmpty)
  let tiles := d.tiles.any fun t => t.held.any fun n => (winDomains (Ctx.win (Tbl.get {} d.ctxs t.tun) n)).contains k
  let jobs := (d.vec0 ++ d.vec1).any fun j => j.doms.contains k
  let moves := d.movs.any fun j => j.doms.contains k
  if k ≤ 16 then run
  else if k = 17 ∨ k = 18 then pass
  else if k = 19 then !(d.vec0.isEmpty)
  else if k = 20 then !(d.vec1.isEmpty)
  else if 25 ≤ k ∧ k ≤ 28 then d.movs.any fun j => j.mover == k - 25
  else if k = 29 then blocks
  else if k = 38 ∨ k = 39 then !d.slice.idle
  else tiles || jobs || moves || (decide (30 ≤ k) && decide (k ≤ 34) && blocks)

/-- A die after the hints of an issued slice (R39, R48). kept names the domains that something beside the die's own
operations keeps from being gated now: a transfer on the link of a port, or, on a die that tuns share with a sealed one, every
domain (R55). -/
def Die.hints (d : Die) (kept : List Nat) (s : Slice) : Die :=
  (List.range 2).foldl (fun d h =>
    let k := hintKeeper s h
    match hintAction s h with
    | 1 | 2 => { d with keepers := Tbl.modify {} d.keepers k Keeper.wake }
    | 3 => { d with keepers := Tbl.modify {} d.keepers k fun x => x.release (kept.contains k || d.busy k) }
    | _ => d) d

/-- A keeper's held request carried out at a seal point, where no wake is pending and nothing is
outstanding (R27). -/
def Keeper.atSeal (k : Keeper) (busy : Bool) : Keeper :=
  if k.waking || busy || k.power == .powerGated then k
  else match k.gateReq with
    | some .power => { k with power := .powerGated, gateReq := none }
    | some _ => { k with power := .clockGated, gateReq := none }
    | none => k

/-- A die with its held gating requests carried out at a seal point (R27). -/
def Die.gateAtSeal (d : Die) (kept : List Nat) : Die :=
  let ks := (List.range 40).foldl (fun t k =>
      match (Tbl.get {} t k).gateReq with
      | none => t
      | some _ => Tbl.modify {} t k fun x => x.atSeal (kept.contains k || d.busy k)) d.keepers
  { d with keepers := ks }

/-- The seal record written when a seal slice issues (R47), from the context after its control operation. -/
def sealRecord (d : Die) (c : Ctx) : SealRecord :=
  { next := c.pc, loops := c.loops, rep := c.rep,
    awake := (List.range 40).filter fun k => (d.keeper k).power == .on, issue := c.issue }

/-! ### The whole slice -/

/-- Whether a vector operation that has been put on its unit writes a value that goes non-finite in its conversion; a
slice's operations belong to the step in which it issues (R103, R110, R140; DESIGN CHOICE, log entry 99). The first drain of a
tile that is recomputed does not count; its recomputed drain does (R141). -/
def newLoss (before after : Die) : Bool :=
  ((after.vec0.drop before.vec0.length) ++ (after.vec1.drop before.vec1.length)).any fun j =>
    j.delta.nonfinite && !((j.drain.bind fun i => after.tiles.find? fun t => t.id == i).any after.willRecompute)

/-- A slice issued: the die and the context after it. die is the die's number and ringOff the ring links that are off. -/
def issueSlice (sh : Share) (u die : Nat) (ringOff kept : List Nat) (d : Die) (c : Ctx) (s : Slice) (voids : List Nat) : Die × Ctx :=
  let ns := consumes c s
  let dests := sliceDests c s (d.delayedBank (arrBank (arrGroup s)))
  let w := issueWork sh u d c s
  let l := issueLaunches u die ringOff w.1 w.2 s voids
  let held := l.1.heldBy u
  let owed := heldOwed c held ns
  let d1 : Die := if owed.isEmpty then l.1
    else { l.1 with tiles := l.1.tiles.map fun t =>
      if t.tun = u then { t with owedWins := t.owedWins ++ owed.filter t.held.contains } else t }
  let c1 := l.2.consume held ns
  let c2 := dests.foldl (fun c n => c.setTok n .pending) c1
  let buf := loopBufAdd d.loopBuf (bufKey u c.pc)
  let c3 := ((c2.update s).sync s).control buf u s
  let c4 : Ctx := { c3 with issue := c3.issue + 1, consumed := ns, consumedAt := d.cycle + 1,
                            num := { c3.num with stepNonfinite := syncOp s != 0x10 && (c3.num.stepNonfinite || newLoss d w.1) },
                            stall := { c3.stall with issued := c3.stall.issued + 1 },
                            sinceSeal := if ctlSeal s then 0 else c3.sinceSeal + 1 }
  let d2 : Die := { d1.hints kept s with loopBuf := buf }
  if ctlSeal s then
    let d3 := d2.gateAtSeal kept
    ({ d3 with cycle := d3.cycle + 1 },
     { c4 with sealRec := sealRecord d3 c4, num := { c4.num with genPosition := c4.genPos } })
  else ({ d2 with cycle := d2.cycle + 1 }, c4)

end Sys2Proof.Machine
end

