-- ==== Sys2Proof/Machine/DieEvents.lean ====
section
/-! DEFINITION. What happens on a die between slices: pass ends and drains (R62, R66, R68), vector completions
(R115, R116), tile closes (R76), delayed drains and recomputes (R138 to R142), column faults and the replay
of the log (R78, R403), and completions of tokens (R42). -/

namespace Sys2Proof.Machine

/-- The context of a tun on a die. -/
def Die.ctx (d : Die) (u : Nat) : Ctx := Tbl.get {} d.ctxs u

/-- A tun's context on a die replaced. -/
def Die.setCtx (d : Die) (u : Nat) (c : Ctx) : Die := { d with ctxs := d.ctxs.put u c }

/-! ### Tokens (R42) -/

/-- A token after a completion or arrival, and the fault it makes: remote arrivals may find EMPTY, and a completion of the cycle
in which a slice consumes the token wins (R42, R43). now is the cycle after the completion's. -/
def Ctx.complete (c : Ctx) (now n : Nat) (remote : Bool) : Ctx × Option ProgFault :=
  match c.tok n with
  | .pending => (c.setTok n .present, none)
  | .present => (c, some .tokenDoubleSet)
  | .empty =>
    if remote || (c.consumedAt == now && c.consumed.contains n) then
      ({ c with consumed := c.consumed.erase n }.setTok n .present, none)
    else (c, some .strayCompletion)

/-- The tokens of a list completed, with the first fault a completion makes (R42). -/
def Ctx.completeAll (c : Ctx) (now : Nat) (ns : List Nat) : Ctx × Option ProgFault :=
  ns.foldl (fun (r : Ctx × Option ProgFault) n =>
    let x := r.1.complete now n false
    (x.1, r.2.or x.2)) (c, none)

/-- A die after an operation's end, with the tun and the program fault its tokens made, if any. -/
abbrev DieOut := Die × Option (Nat × ProgFault)

/-! ### Counters -/

/-- The counts of R110 added; the non-finite flag is set when the operation issues. -/
def NumStat.addDelta (n : NumStat) (x : VecDelta) : NumStat :=
  { n with elems := n.elems + x.elems, sat := n.sat + x.sat, inf := n.inf + x.inf, flush := n.flush + x.flush,
           nanLost := n.nanLost + x.nanLost }

/-- The counts of R130 added. -/
def VecStat.addDelta (v : VecStat) (x : VecDelta) : VecStat :=
  { v with rows := v.rows + x.rows, invalid := v.invalid + x.invalid, divZero := v.divZero + x.divZero,
           intSat := v.intSat + x.intSat, smEmpty := v.smEmpty + x.smEmpty, smInf := v.smInf + x.smInf,
           smNan := v.smNan + x.smNan }

/-! ### Tiles -/

/-- The holds of a tile released: its windows and log entries are free, and the credits of windows consumed
meanwhile start on their way back, unless the other open tile still holds the window, whose close then returns it (R76). -/
def Die.releaseTile (d : Die) (t : Tile) : Die :=
  let c := d.ctx t.tun
  let other (n : Nat) : Bool := d.tiles.any fun x => x.id != t.id && x.tun == t.tun && x.held.contains n
  let back := t.owedWins.filter fun n => !(c.returning.contains n) && !(other n)
  let d := if back.isEmpty then d else d.setCtx t.tun { c with returning := back ++ c.returning }
  d.putTile { t with held := [], log := [], owedWins := [] }

/-- A tile removed. -/
def Die.dropTile (d : Die) (t : Tile) : Die := { d with tiles := d.tiles.filter fun x => x.id != t.id }

/-- The fault of a tun's completions, with the tun. -/
def tunFault (u : Nat) (f : Option ProgFault) : Option (Nat × ProgFault) := f.map fun f => (u, f)

/-- A closed tile's tokens set, and its scale bytes and conversion counts (R76, R138); the tile goes when no unit's rows are
still to be written. -/
def Die.finishTile (d : Die) (now : Nat) (t : Tile) : DieOut :=
  let c := d.ctx t.tun
  let r := { c with num := c.num.addDelta t.delta }.completeAll now t.dst
  let d := { d with mem := applyWrites d.mem t.scaleWrites }.setCtx t.tun r.1
  (if t.unitsLeft = 0 then d.dropTile t else d.putTile { t with dst := [], scaleWrites := [], delta := {} }, tunFault t.tun r.2)

/-- The tile of an id. -/
def Die.tileOf (d : Die) (id : Nat) : Option Tile := d.tiles.find? fun t => t.id == id

/-! ### Pass end and last row read -/

/-- The die time moved forward to a cycle. -/
def Die.upTo (d : Die) (c : Nat) : Die := { d with cycle := max d.cycle c }

/-- A pass reaches its pass end: the bank is HOLDING (R62, R63). -/
def Die.passEnds (d : Die) (b : Nat) : Die :=
  let k := d.bank b
  if k.state = .accumulating then (d.upTo (k.passEnd.getD 0)).setBank b { k with state := .holding } else d

/-- A drain reads its last row: the bank is ZERO from the next cycle (R66, R68), and a tile that is not
delayed closes (R76): the tokens of the units that are done are set. -/
def Die.lastRow (d : Die) (b : Nat) : DieOut :=
  let k := d.bank b
  if k.state = .draining then
    let d := (d.upTo (k.lastRead + 1)).setBank b {}
    match d.tiles.find? (fun t => t.bank == b && t.drained && !t.lastRead) with
    | none => (d, none)
    | some t =>
      let t := { t with lastRead := true }
      let d := d.putTile t
      if t.delayed then (d, none)
      else (d.releaseTile t).finishTile (k.lastRead + 1) { t with held := [], log := [], owedWins := [] }
  else (d, none)

/-! ### Vector completions -/

/-- The oldest operation of unit u writes its last row: its results, counts and folds stand, and its DST is
PRESENT; a drain's when its tile has closed, or at the close (R115, R116, R135). -/
def Die.vecDone (d : Die) (u : Nat) : DieOut :=
  match d.vec u with
  | [] => (d, none)
  | j :: rest =>
    let d := (d.upTo j.doneAt).setVec u rest
    let c := d.ctx j.tun
    let d := { d with mem := if j.void then d.mem else applyWrites d.mem j.writes }
    let folds := if j.void then [] else j.folds
    let c := { c with stats := folds.foldl (fun t f => Tbl.modify {} t f.slot fun x => x.fold f) c.stats,
                      vec := if j.void then c.vec else c.vec.addDelta j.delta }
    match j.drain.bind d.tileOf with
    | none =>
      let r := { c with num := if j.void then c.num else c.num.addDelta j.delta }.completeAll (j.doneAt + 1) j.dst
      (d.setCtx j.tun r.1, tunFault j.tun r.2)
    | some t =>
      let f := match j.folds with
        | x :: _ => (x.amax, x.nan)
        | [] => (0, false)
      let t := { t with unitsLeft := t.unitsLeft - 1, zCycle := max t.zCycle j.doneAt,
                        delta := t.delta.add { j.delta with rows := 0 }, dst := t.dst ++ j.dst,
                        amax := if (Val.of32 t.amax).lt (Val.of32 f.1) then f.1 else t.amax,
                        amaxNan := t.amaxNan || f.2 }
      let d := (d.setCtx j.tun c).putTile t
      if t.lastRead && !t.delayed then d.finishTile (j.doneAt + 1) t else (d, none)

/-! ### Replay (R78, R141, R403) -/

/-- The value of a bank after a log's preloads and passes, with what its passes find. -/
def replayLog (sh : Share) (d : Die) (c : Ctx) (beta : Nat) (log : List LogEntry) : Bank × List (PassOps × PassNotes) :=
  let r := log.foldl (fun (r : (Bank × List (PassOps × PassNotes)) × Bool) e =>
    match arrOp e.array with
    | 1 =>
      let delayed := r.2 || arrDelayed e.array
      let p := passOps c e.array e.genPos beta delayed
      let x := runPass sh d.mem c p (4 * d.arr.presented) r.1.1
      (({ x.1 with amaxSlot := some (arrSlot e.array) }, r.1.2 ++ [(p, x.2)]), delayed)
    | 2 => ((preloadBank sh d.mem c e.array, r.1.2), r.2)
    | _ => r) (({}, []), false)
  r.1

/-- The number of vector operations of a logged drain. -/
def drainUnits (e : LogEntry) : Nat := bit (vecOp e.vec0 != 0) + bit (vecOp e.vec1 != 0)

/-- The rows a logged drain reads. -/
def drainRows (e : LogEntry) : Nat := if drainUnits e = 2 then 128 else 256

/-- When the entries of a log are reissued: the issue cycle of each, and the cycle issue resumes (R62, R64,
R78). ends holds the pass ends of the two banks, 0 for none, and zeros the cycles from which their drains are over. -/
def reissueTimes : List LogEntry → Nat → Nat × Nat → Nat × Nat → List Nat × Nat
  | [], t, _, _ => ([], t)
  | e :: rest, t, ends, zeros =>
    let b := arrBank e.array
    let own := if b = 0 then ends.1 else ends.2
    let other := if b = 0 then ends.2 else ends.1
    let clear := if b = 0 then zeros.1 else zeros.2
    let at' := match arrOp e.array with
      | 1 => max (max t clear) (max other (if own = 0 then 0 else own + 1))
      | 2 => max (max t clear) (if own = 0 then 0 else own + 63)
      | _ => max (max t (max zeros.1 zeros.2)) (if own = 0 then 0 else own + 1)
    let read := if own = 0 then at' + 1 else max (at' + 1) (own + 33)
    let own' := match arrOp e.array with
      | 1 => at' + arrDepth e.array
      | 2 => own
      | _ => 0
    let clear' := if arrOp e.array = 3 then read + drainRows e else clear
    let r := reissueTimes rest (at' + 1) (if b = 0 then (own', other) else (other, own'))
      (if b = 0 then (clear', zeros.2) else (zeros.1, clear'))
    (at' :: r.1, r.2)

/-- The jobs of a tile's logged drain put on the units again, reading from cycle f (R78, R141). -/
def redrain (sh : Share) (d : Die) (c : Ctx) (t : Tile) (e : LogEntry) (bank : Bank) (f : Nat) : Die :=
  let one (d : Die) (u : Nat) (v : BitVec 64) (pos : Nat) : Die :=
    if vecOp v = 0 then d
    else
      let env := vecEnv sh d c v u pos bank (if t.delayed then some t.expD else none)
      d.setVec u (d.vec u ++ [vecJob env t.tun (f - 1) (d.vec u) (some t.id) t.slot f])
  one (one d 0 e.vec0 e.genPos0) 1 e.vec1 e.genPos1

/-- The scale bytes of a logged delayed drain at exponent x. A byte 127 + x past 255 is taken modulo 256 (R138; DESIGN CHOICE, log entry
158). -/
def relogScale (sh : Share) (c : Ctx) (e : LogEntry) (x : Int) : List (Nat × Bytes) :=
  let one (v : BitVec 64) : List (Nat × Bytes) :=
    if vecOp v = 0 then []
    else match winComp (c.win (vecDst v)) with
      | some n => winWrites sh (c.win n) 0
          (List.replicate (vecLen v * 1024 / winBs (c.win (vecDst v))) (BitVec.ofNat 8 (127 + x).toNat))
      | none => []
  one e.vec0 ++ one e.vec1

/-- The log entries of all open tiles in issue order, each with its tile's id. -/
def Die.fullLog (d : Die) : List (Nat × LogEntry) :=
  let all := d.tiles.flatMap fun t => t.log.map fun e => (t.id, e)
  all.foldl (fun l x => insertBy x l) []
where
  /-- an entry put in its place by its sequence number -/
  insertBy (x : Nat × LogEntry) : List (Nat × LogEntry) → List (Nat × LogEntry)
    | [] => [x]
    | y :: t => if x.2.seq < y.2.seq then x :: y :: t else y :: insertBy x t

/-- One open tile rebuilt from its log at the reissue times of its entries (R78). The bank of a drained tile whose overflow test
is pending may be another tile's by now: its drain has then read its last row before that tile's first operation (R64). -/
def Die.rebuild (sh : Share) (d : Die) (t : Tile) (times : List (Nat × LogEntry × Nat)) : Die :=
  let mine := times.filter fun x => x.1 == t.id
  match mine.getLast? with
  | none => d
  | some (_, e, tm) =>
    let c := d.ctx t.tun
    let beta := if t.recomputed then t.scaleHigh.getD 0 else 0
    let r := (replayLog sh d c beta t.log).1
    let passEnd := mine.foldl (fun p x => if arrOp x.2.1.array = 1 then some (x.2.2 + arrDepth x.2.1.array) else p) none
    let bank := { r with passEnd := passEnd }
    if arrOp e.array = 3 then
      let f := drainStart bank tm
      let gone := times.any fun x => x.1 != t.id && arrBank x.2.1.array == t.bank && decide (tm < x.2.2)
      let d := (if gone then d else d.setBank t.bank { bank with state := .draining, lastRead := f + drainRows e - 1 }).putTile
        { t with unitsLeft := drainUnits e, lastRead := gone, delta := {}, amax := 0, amaxNan := false, zCycle := 0,
                 dst := if t.delayed then t.dst else [] }
      redrain sh d c t e bank f
    else
      d.setBank t.bank { bank with state := if arrOp e.array = 2 then .preloaded else .accumulating }

/-- Every open tile replayed from the log, from the die's present cycle on; issue resumes in the cycle after
the last entry's reissue (R78, R403). -/
def Die.replay (d : Die) (shOf : List (Nat × Share)) : Die :=
  let log := d.fullLog
  let ts := reissueTimes (log.map Prod.snd) d.cycle (0, 0) (0, 0)
  let times := (log.zip ts.1).map fun x => (x.1.1, x.1.2, x.2)
  let opened := d.tiles.filter fun t => !(t.log.isEmpty)
  let d := opened.foldl (fun d t => d.rebuild (Tbl.get {} shOf t.tun) t times) d
  { d with cycle := ts.2 }

/-- The vector jobs of tiles that are still open, taken off the units; they come back with the replay. -/
def Die.dropOpenJobs (d : Die) : Die :=
  let live := (d.tiles.filter fun t => !(t.log.isEmpty)).map Tile.id
  let keep (l : List VecJob) : List VecJob := l.filter fun j => match j.drain with
    | some i => !(live.contains i)
    | none => true
  { d with vec0 := keep d.vec0, vec1 := keep d.vec1 }

/-! ### Delayed drains (R138 to R142) -/

/-- The tile of a bank whose overflow test is due. -/
def Die.dueTile (d : Die) (b : Nat) : Option Tile :=
  d.tiles.find? fun t => t.bank == b && t.delayed && t.drained && t.lastRead && t.unitsLeft == 0

/-- The cycles the scale bytes take: 4 at block size 32 and 8 at block size 16 (R138). -/
def scaleCycles (c : Ctx) (t : Tile) : Nat :=
  match t.dst with
  | n :: _ => if winBs (c.win n) = 32 then 4 else 8
  | [] => 4

/-- A delayed tile closes in cycle z + 4 or z + 8. -/
def Die.closeDelayed (d : Die) (t : Tile) : DieOut :=
  let d := d.upTo (t.zCycle + scaleCycles (d.ctx t.tun) t)
  (d.releaseTile t).finishTile (d.cycle + 1) { t with held := [], log := [], owedWins := [] }

/-- A statistics slot of a tun changed. -/
def Die.stat (d : Die) (u : Nat) (slot : Option Nat) (f : StatSlot → StatSlot) : Die :=
  match slot with
  | none => d
  | some n =>
    let c := d.ctx u
    d.setCtx u { c with stats := Tbl.modify {} c.stats n f }

/-- An overflowed tile is recomputed once: issue is held while its log is reissued with a larger D (R141). Where an operation
issued after its drain has taken its bank already, the tile is recomputed beside that bank, which keeps its state, and does not
wait for it (DESIGN CHOICE, log entry 100). -/
def Die.recompute (sh : Share) (d : Die) (t : Tile) : Die :=
  let c := d.ctx t.tun
  let f := (Fmt.ofCode t.fmt).getD .e4m3
  let beta := t.scaleHigh.getD 0
  let x : Int := if t.scaleHigh.isSome then t.expD + beta else scaleExp t.amax f
  let other := d.bank (1 - t.bank)
  let busy := if other.state = .accumulating then other.passEnd.getD 0 else 0
  let z := d.cycle
  let ts := reissueTimes t.log (z + 1) (if t.bank = 0 then (0, busy) else (busy, 0))
    (let z := if other.state = .draining then other.lastRead + 1 else 0
     if t.bank = 0 then (0, z) else (z, 0))
  let held := ts.2 - z
  let r := replayLog sh d c beta t.log
  let c := r.2.foldl (fun (c : Ctx) p => c.passNotes p.1 { p.2 with intSat := 0, high := none } false) c
  let c := { c with narrow := { c.narrow with recomputeCycles := c.narrow.recomputeCycles + held,
                                              zpPasses := (d.ctx t.tun).narrow.zpPasses },
                    stall := { c.stall with array := c.stall.array + held } }
  let d := (d.setCtx t.tun c).stat t.tun t.slot fun s => { s with overs := s.overs + 1 }
  match t.log.getLast?, ts.1.getLast? with
  | some e, some tm =>
    let passEnd := (t.log.zip ts.1).foldl (fun p y => if arrOp y.1.array = 1 then some (y.2 + arrDepth y.1.array) else p) none
    let bank := { r.1 with passEnd := passEnd }
    let fr := drainStart bank tm
    let zero := decide ((d.bank t.bank).state = .zero)
    let d := if zero then d.setBank t.bank { bank with state := .draining, lastRead := fr + drainRows e - 1 } else d
    let t := { t with recomputed := true, expD := x, unitsLeft := drainUnits e, lastRead := !zero, delta := {}, amax := 0, amaxNan := false,
                      scaleWrites := relogScale sh (d.ctx t.tun) e x }
    let d := d.putTile t
    let d' := redrain sh d (d.ctx t.tun) t e bank fr
    let c := d'.ctx t.tun
    (d'.setCtx t.tun { c with num := { c.num with stepNonfinite := c.num.stepNonfinite || newLoss d d' } }).upTo ts.2
  | _, _ => d

/-- In cycle z of a delayed drain the overflow test is made (R138, R140 to R142). -/
def Die.delayedEnd (sh : Share) (d : Die) (b : Nat) : DieOut :=
  match d.dueTile b with
  | none => (d, none)
  | some t =>
    let d := d.upTo t.zCycle
    let f := (Fmt.ofCode t.fmt).getD .e4m3
    let finite := !(Val.of32 t.amax).nonfinite
    let overs := finite && (overflowed t.amax t.expD f || (t.scaleHigh.isSome && !t.recomputed))
    if overs && !t.recomputed then (d.recompute sh t, none)
    else
      let d := if overs then d.stat t.tun t.slot fun s => { s with over2 := s.over2 + 1 } else d
      d.closeDelayed t

/-! ### Column faults (R78 to R80) -/

/-- The spare columns good and not taken over, from the bad map (R70, R71). -/
def sparesLeft (bad : List Nat) : Nat := 4 - bad.length

/-- The physical column that presented column 127 moves to with a bad map: the 128th that is not bad. -/
def lastPresented (bad : List Nat) : Nat :=
  (((List.range 132).filter fun q => !(bad.contains q)).getD 127 131)

/-- Whether a spare column is in use: presented column w - 1 is a physical column past 127 (R57, R70). -/
def spareInUse (bad : List Nat) (w : Nat) : Bool :=
  decide (128 ≤ ((List.range 132).filter fun q => !(bad.contains q)).getD (w - 1) 131)

/-- K16 stays power-gated while no spare column is in use (R48, R70; log entry 50). -/
def Die.gateSpares (d : Die) : Die :=
  if spareInUse d.badMap d.arr.presented then d
  else { d with keepers := Tbl.modify {} d.keepers 16 fun k => if k.fenced then k else { k with power := .powerGated, waking := false } }

/-- A residue mismatch stops the issuing tun's issue, clears both banks and keeps the holds and the log; the wake of
K16 is ordered (R78). now is the device's time. -/
def Die.columnFault (d : Die) (now col row : Nat) : Die :=
  let u := d.slice.cur.getD 0
  { d.dropOpenJobs with
    bank0 := {}, bank1 := {}, keepers := Tbl.modify {} d.keepers 16 Keeper.wake,
    colFaults := d.colFaults ++ [{ col := col, tun := u, stoppedAt := d.cycle, stoppedPs := now }],
    arr := { d.arr with residueFaults := d.arr.residueFaults + 1, lastCol := col, lastRow := row, lastPerm := false } }

/-- The fault being handled is over: the time since the stop counts in the die's cycles, the log is replayed and issue resumes
when no other fault waits; the stop of the next fault that waits counts from here on (R78, R81, R82). -/
def Die.faultOver (d : Die) (now : Nat) (f : ColFault) (rest : List ColFault) (shOf : List (Nat × Share)) : Die :=
  let d := d.upTo (f.stoppedAt + (now - f.stoppedPs) / 800)
  let rest := rest.map fun x => { x with stoppedAt := max x.stoppedAt d.cycle, stoppedPs := now }
  let d := { d with colFaults := rest }
  let d := if rest.isEmpty then d.replay shOf else d
  { d with arr := { d.arr with replays := d.arr.replays + 1,
                               replayCycles := d.arr.replayCycles + (d.cycle - f.stoppedAt) } }

/-- The array domains K0–K16 fenced; no column test is left to wait for. -/
def Die.fenceArray (d : Die) (mismatch : Bool) : Die :=
  { d with keepers := (List.range 17).foldl (fun t k => Tbl.modify {} t k fun x => { x with fenced := true }) d.keepers,
           arr := { d.arr with fenced := true, lastPerm := d.arr.lastPerm || mismatch }, colFaults := [] }

/-- What a column test's end leads to (R78, R80). -/
inductive TestEnd where
  | resumed | spareTest (spare : Nat) | retired (col : Nat) | fenced (col : Nat) | nothing
  deriving DecidableEq, Repr

/-- A column or spare test ends (R78, R80): a transient is counted and the log replayed; a permanent fault
bypasses the column and tests the spare that takes its place; with no spare the array is fenced. -/
def Die.columnTest (d : Die) (now col : Nat) (pass : Bool) (shOf : List (Nat × Share)) : Die × TestEnd :=
  match d.colFaults with
  | [] => (d, .nothing)
  | f :: rest =>
    match f.spare with
    | none =>
      if f.col ≠ col then (d, .nothing)
      else if pass && decide (Tbl.get 0 d.transients col < 2) then
        let d := { d with transients := Tbl.modify 0 d.transients col (· + 1),
                          arr := { d.arr with transients := d.arr.transients + 1 } }
        ((d.faultOver now f rest shOf).gateSpares, .resumed)
      else if sparesLeft d.badMap = 0 then ({ d with badMap := d.badMap ++ [col] }.fenceArray true, .fenced col)
      else
        let bad := d.badMap ++ [col]
        let sp := lastPresented bad
        ({ d with badMap := bad, colFaults := { f with spare := some sp } :: rest,
                  arr := { d.arr with sparesFree := sparesLeft bad, lastPerm := true } }, .spareTest sp)
    | some sp =>
      if sp ≠ col then (d, .nothing)
      else if pass then (d.faultOver now f rest shOf, .retired f.col)
      else if sparesLeft d.badMap = 0 then ({ d with badMap := d.badMap ++ [sp] }.fenceArray true, .fenced f.col)
      else
        let bad := d.badMap ++ [sp]
        let sp' := lastPresented bad
        ({ d with badMap := bad, colFaults := { f with spare := some sp' } :: rest,
                  arr := { d.arr with sparesFree := sparesLeft bad } }, .spareTest sp')

end Sys2Proof.Machine
end

