-- ==== Sys2Proof/Machine/StateNet.lean ====
section
/-! DEFINITION. The network and the die links: MACs, the PTP clock and the gauge (chapter 11), and the die-to-die
links and the shape of the package (chapter 12). -/

namespace Sys2Proof.Machine

/-- The segments that go in pecks: of collectives, of racking, casks and evaluation, and of permutations (R300). -/
inductive SendQueue where
  | coll | rack | perm
  deriving DecidableEq, Repr

/-- Frames of one segment that a peck sends. -/
structure Sent where
  queue : SendQueue
  tun : Nat
  /-- the destination: a rank, or 64 + the endpoint of a receiver -/
  dest : Nat
  seq : Nat
  resent : Bool
  /-- frames of the segment that had left before -/
  before : Nat
  /-- the header of the segment's frames without what differs from frame to frame, and the segment's bytes (R299, R300) -/
  header : BitVec 256
  data : Bytes
  frames : Nat := 0
  /-- when the first of these frames starts, the wire time of a full one, and when the last ends, in ps -/
  at' : Nat := 0
  per : Nat := 0
  stop : Nat := 0
  deriving DecidableEq, Repr

/-- A transport frame as the sending MAC forms it (R299): its addresses, its 802.1Q tag where it has one, the SCI and association number
of its SecTAG where MACsec is used, its EtherType, its header and its payload. The address of a direct link's peer stands in no record,
and a frame to it has none here. -/
structure TFrame where
  da : Option Bytes
  sa : Bytes
  tag : Option (BitVec 16) := none
  sec : Option (BitVec 64 × BitVec 2) := none
  etype : Nat
  header : BitVec 256
  payload : Bytes
  deriving DecidableEq, Repr

/-- A peck being sent (R292 to R294), times in ps of the device's time. -/
structure Peck where
  idx : Nat
  tun : Nat
  start : Nat
  target : Nat
  stop : Nat
  /-- PK_KIND, and the end it is aimed at: an endpoint index, or 256 + m for the peer of the direct link of MAC m -/
  kind : Nat := 0
  ep : Nat := 0
  /-- the frames that it sends, newest first -/
  run : List Sent := []
  /-- a pause has held the peck -/
  held : Bool := false
  /-- an emergency stop has cut it off (R402) -/
  cut : Bool := false
  deriving DecidableEq, Repr

/-- MAC_LINK (R311). -/
inductive MacLink where
  | down | training | up | fenced
  deriving DecidableEq, Repr

/-- A MAC (R283, R287, R294, R307, R310, R311). -/
structure Mac where
  link : MacLink := .down
  lanes : Nat := 0
  counters : Tbl (BitVec 32) := []
  half : BitVec 56 := 0
  /-- remainder octets of the receive and transmit counters -/
  rxRem : Nat := 0
  txRem : Nat := 0
  failedOver : Bool := false
  /-- the end of a pause by priority 0–7, in ps; and since when the transmitter is held -/
  paused : Tbl Nat := []
  pausedAt : Option Nat := none
  /-- remainders of MAC_PECK_OVERRUN_NS and MAC_SHED_MS, in ps -/
  overRem : Nat := 0
  shedRem : Nat := 0
  /-- debts by tun, in ps -/
  debts : Tbl Nat := []
  peck : Option Peck := none
  timeouts : Nat := 0
  helloOk : Bool := false
  shed : Bool := false
  shedAt : Nat := 0
  /-- the realignment at a new width, in ps: control and PTP frames are held from its start to its end (R307) -/
  realign : Nat × Nat := (0, 0)
  neighbour : Bytes × Bytes := ([], [])
  /-- the newest LLDPDU sent, and when the next is due, in ps (R284) -/
  lldp : Bytes := []
  lldpDue : Nat := 0
  /-- control messages of tuns that wait for a control frame on this MAC, oldest first (R295) -/
  ctl : List (Nat × CtlMsg) := []
  /-- when the shaping of the pooled tuns' control frames has nothing owed, in ps (R295) -/
  ctlFree : Nat := 0
  /-- the transport frames of the newest peck or control frame sent, oldest first (R299) -/
  sent : List TFrame := []
  /-- the key number in force of a tun (R305, R375) -/
  keyNo : Tbl Nat := []
  /-- sealed tuns and the time their next control frame is due -/
  controlDue : Tbl Nat := []
  /-- the key number the last hello of a tun carried (R305) -/
  helloSent : Tbl Nat := []
  deriving DecidableEq, Repr

/-- MAC_PTP_STATE (R290). -/
inductive PtpState where
  | free | acquiring | locked | holdover
  deriving DecidableEq, Repr

/-- The clock (R288 to R290). -/
structure Ptp where
  state : PtpState := .free
  port : Nat := 0
  offset : Int := 0
  delay : Nat := 0
  holdoverMs : Nat := 250
  bushel : Nat := 0
  /-- when the bushel began, in ps -/
  began : Nat := 0
  good : Nat := 0
  bad : Nat := 0
  awaitFollow : Bool := false
  /-- the best time transmitter known: its data set, compared in order -/
  best : Option (List Nat) := none
  /-- PTP time in ns less the uptime, as the last bushel has set it -/
  timeNs : Nat := 0
  /-- when HOLDOVER began, in ps -/
  since : Nat := 0
  /-- the whole second of PTP time of the last PPS_OUT pulse, and how many there were -/
  lastPps : Nat := 0
  ppsPulses : Nat := 0
  deriving DecidableEq, Repr

/-- The network. -/
structure Net where
  /-- MAC_PORT records of the lane groups, by group -/
  ports : Tbl (BitVec 128) := []
  wakes : Tbl (BitVec 192) := []
  macs : Tbl Mac := []
  ptp : Ptp := {}
  ptpDomain : Nat := 0
  /-- the device's own data set: priority1 255 and clockClass 255, or the image's grandmaster attributes (R288) -/
  ptpOwn : List Nat := [255, 255]
  gauge : Option GaugePlan := none
  gaugeNext : Option GaugePlan := none
  /-- deltas whose effective time has been set: rank × 64 + MAC and time in ps -/
  deltasDue : List (Nat × Nat) := []
  failed : List Nat := []
  deriving DecidableEq, Repr

/-- A flit as its receiver has accepted it (R314). -/
structure Flit where
  framing : BitVec 64
  payload : Bytes
  deriving DecidableEq, Repr

/-- A group of one direction of a link (R314 to R316, R326, R327). -/
structure Group where
  /-- signal lanes found bad -/
  bad : BitVec 74 := 0
  half : Bool := false
  retired : Bool := false
  stopped : Bool := false
  /-- the number that the receiver takes next -/
  nextSeq : Nat := 0
  /-- the sender's retry buffer, oldest first: each flit's number, and the flit once the receiver has accepted it (R316) -/
  retry : List (Nat × Option Flit) := []
  /-- the number from which the receiver has asked for a replay, and the numbers that the sender is sending again (R316) -/
  asked : Option Nat := none
  again : List Nat := []
  /-- the training whose settings, a delay for each lane and the sampling phase, the management islands of both ends hold (R313) -/
  trained : Nat := 0
  /-- repaired during an emergency stop: its held flits wait for the release (R331) -/
  waits : Bool := false
  credits : Nat := 64
  /-- receive buffers taken, by tun (R318) -/
  held : Tbl Nat := []
  replaying : Bool := false
  crcTimes : List Nat := []
  deriving DecidableEq, Repr

/-- One direction of a link (R312, R332). -/
structure LinkDir where
  groups : Tbl Group := []
  /-- role of a group: 0 compute data, 1 memory forwarding, 2 collective data, 3 none -/
  roles : Tbl Nat := []
  ctlDegraded : Bool := false
  ctlRerouted : Bool := false
  ctlLost : Bool := false
  off : Bool := false
  /-- the control message received last (R317) -/
  ctlIn : Bytes := []
  /-- the role that waits for a group, until its retry buffer is empty (R329) -/
  due : Option Nat := none
  flits : Nat := 0
  crcErr : Nat := 0
  replays : Nat := 0
  repairs : Nat := 0
  halfEvents : Nat := 0
  retiredCount : Nat := 0
  repairNs : Nat := 0
  borrowed : Nat := 0
  /-- transfers in progress: tag and the flits accepted -/
  transfers : Tbl Nat := []
  deriving DecidableEq, Repr

/-- LNK_DIE_STATE (R333). -/
inductive DieState where
  | running | computeFence | dark
  deriving DecidableEq, Repr

/-- What discovery and identity have found of a die (R320, R321). -/
structure Found where
  index : Option Nat := none
  cw : Bool := false
  acw : Bool := false
  seeded : Bool := false
  record : BitVec 512 := 1
  reported : Bool := false
  state : DieState := .running
  cause : Nat := 0
  deriving DecidableEq, Repr

/-- The links and the shape of the package (R319, R333). -/
structure Links where
  dirs : Tbl LinkDir := []
  role : BitVec 64 := 0xA22084
  hubFeature : Nat := 0
  hubMinDie : Nat := 0
  pkgFeature : Nat := 0
  found : Tbl Found := []
  seedsSent : List Nat := []
  /-- the tokens that dies have sent: die, side port and count (R320) -/
  tokensSent : List (Nat × Nat × Nat) := []
  /-- dies lost in service, which the next start fences: the cause, and 16 more for a dark one (R405) -/
  lost : Tbl Nat := []
  nonces : Tbl Bytes := []
  deriving DecidableEq, Repr

end Sys2Proof.Machine
end

