-- ==== Sys2Proof/Machine/StatePkg.lean ====
section
/-! DEFINITION. The package around the tuns: the host interface, flash and start (chapter 13), the security
block (chapter 14), power, faults and parity groups (chapters 07 and 15), and pins and management buses
(chapter 16). -/

namespace Sys2Proof.Machine

/-- The state of a parity group (R171 to R173, R180). -/
inductive PgState where
  | whole | rebuilding | exposed | fenced
  deriving DecidableEq, Repr

/-- A parity group. -/
structure ParityGroup where
  state : PgState := .whole
  /-- the failed interface's position 0–11 -/
  failed : Option Nat := none
  /-- granules rebuilt in ascending order -/
  rebuilt : Nat := 0
  /-- granules rebuilt ahead of their turn, and those a waiting write demands -/
  early : List Nat := []
  demand : List Nat := []
  deriving DecidableEq, Repr

/-- Cellar contents (R162, R164, R175) by logical device address: the plaintext of the 64-byte units that a loaded tun has
written, which are listed in keys by address ÷ 64 with their tweak, and the stored bytes of every other unit; ranges that
read as zero until written (R171); and the interfaces that have failed, which a start finds failed (R173). -/
structure Cellar where
  mem : Mem := []
  keys : Tbl Nat := []
  zeros : List (Nat × Nat) := []
  failed : List Nat := []
  groups : Tbl ParityGroup := []
  /-- writes that came over a link and wait for their granule (R172): tun, owning die, address, bytes -/
  waiting : List (Nat × Nat × Nat × Bytes) := []
  deriving DecidableEq, Repr

/-- HUB_WIN_STATE (R350). -/
inductive WinState where
  | starting | running | steep
  deriving DecidableEq, Repr

/-- A boot record (R356). -/
structure BootRecord where
  seq : Nat
  kind : Nat
  copy : Bool
  fails : Nat
  cause : Nat
  version : Nat
  timeMs : Nat
  dieState : Nat
  measure : Bytes
  /-- tagged under the all-zero key (R358) -/
  zeroKey : Bool := false
  /-- every fenced die, its kind of fence (1 compute fence, 2 dark) and its cause (R325) -/
  fences : List (Nat × Nat × Nat) := []
  /-- the lane groups that are off for a broken rule, and the rule; 16 for a broken LNK_ROLE (R283, R319) -/
  notes : List (Nat × Nat) := []
  /-- the second page program, of BR_COMMIT, has been made -/
  committed : Bool := true
  deriving DecidableEq, Repr

/-- A repair log entry (R360): the type of its record, and the body of the record of R72, R179 or R330. -/
structure RepairEntry where
  type : Nat
  body : BitVec 192
  deriving DecidableEq, Repr

/-- A half of the repair log (R360): the generation that its header gives, once the header stands, and its entries from 1 on. -/
structure LogHalf where
  generation : Option Nat := none
  entries : List RepairEntry := []
  deriving DecidableEq, Repr

/-- A tap of the tap table as the device has it (R337 to R339). -/
structure Tap where
  seen : Nat := 0
  entry : BitVec 1024 := 0
  torn : Bool := false
  deriving DecidableEq, Repr

/-- The host interface (R335, R336, R350). -/
structure HostIf where
  tapBase : BitVec 64 := 0
  tapOn : Bool := false
  linkUp : Bool := false
  /-- lanes and rate in GT/s that the link has trained to, 0 before it has; the IDE mode: containment, or skid (R334) -/
  width : Nat := 0
  rate : Nat := 0
  ideSkid : Bool := false
  /-- how often each of the 33 MSI-X vectors has fired, and the MSI-X table at 0x8000 of BAR0, whose unlisted entries are masked (R335) -/
  vectors : Tbl Nat := []
  msix : Tbl (BitVec 128) := []
  taps : Tbl Tap := []
  events : Ring := {}
  winState : WinState := .starting
  copy : Bool := false
  fails : Nat := 0
  serial : Nat := 0
  imageVer : Nat := 0
  startedPs : Nat := 0
  writesDropped : Nat := 0
  tapRefused : Nat := 0
  cause : Nat := 0
  /-- when HUB_STOP_ALL was last written, in ps (R347) -/
  stopAllAt : Option Nat := none
  deriving DecidableEq, Repr

/-- The flash device (R352 to R360). -/
structure Flash where
  copyA : FlashCopy := {}
  copyB : FlashCopy := {}
  boots : List BootRecord := []
  /-- the halves of the repair log, and a compaction that has not written its header yet (R360) -/
  halfA : LogHalf := { generation := some 0 }
  halfB : LogHalf := {}
  compacting : Bool := false
  /-- found through SFDP and run in 8D-8D-8D mode; else 1S-1S-1S (R352) -/
  octal : Bool := false
  deriving DecidableEq, Repr

/-- SEC_STATE (R386). -/
inductive SecState where
  | starting | locked | steep
  deriving DecidableEq, Repr

/-- An SPDM session (R372). -/
structure Session where
  isOpen : Bool := false
  finished : Bool := false
  key : BitVec 256 := 0
  updates : Nat := 0
  deriving DecidableEq, Repr

/-- The security block (R363 to R377, R386). -/
structure Sec where
  state : SecState := .starting
  rootSlot : Nat := 0
  tamper : Bool := false
  pufOk : Bool := false
  /-- S held; lost at tamper and at a loss of power -/
  seed : Option (BitVec 256) := none
  mrs : Tbl Bytes := []
  locked : Bool := false
  sessions : Tbl Session := []
  algorithms : Bool := false
  capabilities : Bool := false
  version : Bool := false
  requests : Nat := 0
  reseeds : Nat := 0
  ideKeyed : Bool := false
  sigFail : Nat := 0
  secretRefused : Nat := 0
  spdmErrors : Nat := 0
  teardowns : Nat := 0
  dieBindFail : Nat := 0
  certDigest : Bytes := []
  certChain : Bytes := []
  chunks : Tbl Bytes := []
  /-- the newest answer of the responder, and the newest that is not a chunk -/
  reply : Bytes := []
  large : Bytes := []
  hubFwVersion : Nat := 0
  cdsFwVersion : Nat := 0
  deriving DecidableEq, Repr

/-- PWR_STATE (R396, R411). -/
inductive PwrState where
  | starting | run | deepIdle | stopped | steep | pullSafe | off
  deriving DecidableEq, Repr

/-- A fault report held while STOPPED (R409): with its detection time in ns, and the interruption where the fault has
been acted on already. -/
structure HeldReport where
  cls : Nat
  die : Nat
  unit : Nat
  time : Nat
  intNs : Option Nat := none
  deriving DecidableEq, Repr

/-- Power, faults and thermal state (R387 to R412). -/
structure Pwr where
  state : PwrState := .starting
  throttle : Nat := 0
  estopCause : Nat := 0
  /-- the causes of the stop in force, newest first (R409) -/
  causes : List Nat := []
  pullSafe : Bool := false
  noNewWork : Bool := false
  sensors : Sensors := { inV := 0 }
  throttleCycles : Nat := 0
  estops : Nat := 0
  estopNsMax : Nat := 0
  deepIdleMs : Nat := 0
  config : BitVec 128 := 0x3012C5FDD7F395DC2D
  /-- times of the stops of the last second, in ps, and a stop that is not released -/
  stopTimes : List Nat := []
  stoppedAt : Nat := 0
  held : Bool := false
  thermTrip : Bool := false
  idleSince : Nat := 0
  faults : Tbl Nat := []
  absorbedNsMax : Nat := 0
  lastClass : Nat := 0
  lastDie : Nat := 0
  lastUnit : Nat := 0
  lastTime : Nat := 0
  lastIntNs : Nat := 0
  /-- class 5 faults in the millisecond, by die: when its last event was posted -/
  class5 : Tbl Nat := []
  /-- reports held while STOPPED, in order of detection (R409) -/
  reports : List HeldReport := []
  /-- the detection time of the held report being handled -/
  detected : Option Nat := none
  /-- reduction engines failed -/
  redFailed : List Nat := []
  /-- the management islands run from the backup oscillator (R399) -/
  mgmtBackup : Bool := false
  deriving DecidableEq, Repr

/-- Pins, I3C and JTAG (R417 to R422). -/
structure Pins where
  pullOk : Bool := false
  estop : Bool := false
  testMode : Bool := false
  i3cAddr : Option (BitVec 7) := none
  /-- the newest answer to the board management controller -/
  i3cReply : Bytes := []
  inBand : Nat := 0
  jtagOut : List Bool := []
  bypass : Bool := false
  boundary : List Bool := []
  driven : List Bool := []
  /-- the AC test pattern on the SerDes and CXL lanes: a train or one pulse (IEEE 1149.6) -/
  acTest : Option (Bool × List Bool) := none
  ppsIn : Nat := 0
  deriving DecidableEq, Repr

/-- The tun layout of the image (R378). -/
structure LayoutRecord where
  tuns : Tbl (BitVec 1024) := []
  runs : Tbl (BitVec 64) := []
  plans : Tbl (BitVec 16) := []
  deriving DecidableEq, Repr

end Sys2Proof.Machine
end

