-- ==== Sys2Proof/Machine/State.lean ====
section
/-! DEFINITION. The state of the device, its faults and refusals, and its state after reset. -/

namespace Sys2Proof.Machine

/-- Where a command stops: an address that the spec says does not exist. -/
inductive Fault where
  /-- raised by STATUS_WINDOW_WRITE at an offset past the 4 MiB of the status window (R334, R348); safe: the
  device has no such address -/
  | outsideWindow (off : Nat)
  deriving DecidableEq, Repr

/-- Why a command is not run. -/
inductive Refusal where
  /-- raised by the dispatch for a command that has no meaning yet; safe: nothing is claimed of it -/
  | notModelled (mnemonic : String)
  deriving DecidableEq, Repr

/-- The device. -/
structure State where
  /-- the commands waiting, first in, first out -/
  pending : List Instr := []
  /-- the device's time, in ps -/
  nowPs : Nat := 0
  /-- the model's own: how many free values have been drawn -/
  draws : Nat := 0
  dies : Tbl Die := []
  tuns : Tbl Tun := []
  cellar : Cellar := {}
  layout : LayoutRecord := {}
  net : Net := {}
  links : Links := {}
  host : HostIf := {}
  flash : Flash := {}
  sec : Sec := {}
  pwr : Pwr := {}
  pins : Pins := {}
  /-- HD keepers K0–K31 by global number 320 + k -/
  hubKeepers : Tbl Keeper := []
  deriving DecidableEq, Repr

/-- The device at reset (R10, R11 and the Reset column of every table). -/
def State.reset : State := {}

end Sys2Proof.Machine
end

