-- ==== Sys2Proof/Machine/UpdArith.lean ====
section
/-! DEFINITION. The arithmetic of the fused update: record blocks (R181, R182), coefficient sets and the
per-step constants (R194), the update rules (R195 to R197), the sketch sums and their fold (R198 to R200) and
the schedule engine (R201, R202). -/

namespace Sys2Proof.Machine

/-! ### FP32 functions, each rounded once (R122, R195) -/

/-- √a, correctly rounded. -/
def fsqrt (a : Word32) : Word32 := f32 (Val.of32 a).sqrt

/-- x^k = EXP(k × LOG(x)), k converted to FP32 (R194). -/
def fpow (x : Word32) (k : Nat) : Word32 :=
  f32 (Val.of32 (fmul (fofNat k) (f32 (Val.of32 x).log))).exp

/-- a negated. -/
def fneg (a : Word32) : Word32 := f32 (Val.of32 a).neg

/-! ### Update table fields (R189) -/

/-- UT_TENSOR. -/
def utTensor (e : BitVec 512) : Nat := field e 0 32
/-- UT_DIGEST. -/
def utDigest (e : BitVec 512) : Bool := flag e 36
/-- UT_FIRST. -/
def utFirst (e : BitVec 512) : Nat := field e 64 40
/-- UT_EVEN. -/
def utEven (e : BitVec 512) : Nat := field e 144 48
/-- UT_ODD. -/
def utOdd (e : BitVec 512) : Nat := field e 192 48
/-- UT_COLS. -/
def utCols (e : BitVec 512) : Nat := field e 240 32
/-- UT_FACT. -/
def utFact (e : BitVec 512) : Nat := field e 272 48
/-- UT_WFMT. -/
def utWfmt (e : BitVec 512) : Nat := field e 344 5
/-- UT_WBS in elements. -/
def utWbs (e : BitVec 512) : Nat := if flag e 349 then 16 else 32
/-- UT_ZP. -/
def utZp (e : BitVec 512) : Bool := flag e 350
/-- UT_WSFMT. -/
def utWsUe4m3 (e : BitVec 512) : Bool := flag e 351

/-- The bytes of a record block of the entry: an M block for a matrix, a V block otherwise (R182). -/
def utBlockBytes (e : BitVec 512) : Nat := if utKind e = 0 then 512 else 640

/-- The keg address of an entry in keg g (R184). -/
def utKegAddr (e : BitVec 512) (g : Nat) : Nat := if g % 2 = 0 then utEven e else utOdd e

/-- The live records of block b of the entry (R181). -/
def utLive (e : BitVec 512) (b : Nat) : Nat := min 64 (utCount e - 64 * b)

/-! ### Coefficient sets and per-step constants (R194) -/

/-- CO_RULE. -/
def coRule (c : BitVec 512) : Nat := field c 0 4
/-- A 32-bit field of a coefficient set, read under R91. -/
def coWord (c : BitVec 512) (lo : Nat) : Word32 := flush32 (BitVec.ofNat 32 (field c lo 32))

/-- The constants of a coefficient set in a step. -/
structure UpdConst where
  rule : Nat
  nesterov : Bool
  b1 : Word32
  b2 : Word32
  omb1 : Word32
  omb2 : Word32
  eps : Word32
  wd : Word32
  clip : Word32
  eta : Word32
  ic1 : Word32
  lsInv : Word32
  k : Nat
  deriving DecidableEq, Repr

/-- The constants the engine forms at a step start (R194). -/
def updConst (c : BitVec 512) (r : StepRecord) : UpdConst :=
  let b1 := coWord c 32
  let b2 := coWord c 64
  { rule := coRule c, nesterov := flag c 4, b1 := b1, b2 := b2, omb1 := fsub fone b1, omb2 := fsub fone b2,
    eps := coWord c 96, wd := coWord c 128, clip := coWord c 160, eta := fmul r.eta (coWord c 192),
    ic1 := fdiv fone (fsub fone (fpow b1 r.k)), lsInv := r.lsInv, k := r.k }

/-! ### Records and blocks (R181, R182) -/

/-- A record. -/
structure Rec where
  w : Word32
  m : Word32
  deriving DecidableEq, Repr

/-- A block read: its records and, for a V block, its codes, scales and row fields. -/
structure Block where
  recs : List Rec
  codes : List Nat := []
  scale0 : Nat := 0
  scale1 : Nat := 0
  rowStep : Nat := 0
  written : Nat := 0
  deriving DecidableEq, Repr

/-- The 32-bit word at byte a of a run of bytes. -/
def wordAt (bs : Bytes) (a : Nat) : Word32 := BitVec.ofNat 32 (Bytes.toNat ((bs.drop a).take 4))

/-- A block of 512 or 640 bytes read. -/
def Block.ofBytes (bs : Bytes) : Block :=
  let t := bs.drop 512
  { recs := (List.range 64).map fun r => { w := wordAt bs (8 * r), m := wordAt bs (8 * r + 4) },
    codes := (t.take 64).map (·.toNat), scale0 := (t.getD 64 0).toNat, scale1 := (t.getD 65 0).toNat,
    rowStep := Bytes.toNat ((t.drop 66).take 4), written := Bytes.toNat ((t.drop 70).take 6) }

/-- A block's bytes. -/
def Block.toBytes (b : Block) (v : Bool) : Bytes :=
  let rs := b.recs.flatMap fun r => bytesOfNat 4 r.w.toNat ++ bytesOfNat 4 r.m.toNat
  if v then
    rs ++ b.codes.map (BitVec.ofNat 8) ++ [BitVec.ofNat 8 b.scale0, BitVec.ofNat 8 b.scale1]
      ++ bytesOfNat 4 b.rowStep ++ bytesOfNat 6 b.written ++ List.replicate 52 0
  else rs

/-- √v̂ of record r of a V block (R183). -/
def Block.rootV (b : Block) (r : Nat) : Word32 :=
  let e : Int := (if r < 32 then b.scale0 else b.scale1 : Nat)
  f32 (.dyadic false (b.codes.getD r 0) (e - 127))

/-- Whether a V block holds the scale that is never written, a cellar data fault (R182). -/
def Block.badScale (b : Block) : Bool := b.scale0 == 0xFF || b.scale1 == 0xFF

/-! ### The update rules (R195, R196) -/

/-- A second moment and its bias correction. -/
structure Second where
  vh : Word32
  ic2 : Word32
  deriving DecidableEq, Repr

/-- A record after an update, and whether its normalised update was clipped. -/
structure RecOut where
  r : Rec
  clipped : Bool := false
  deriving DecidableEq, Repr

/-- w − η × (u + λ × w). -/
def decayed (k : UpdConst) (w u : Word32) : Word32 := fsub w (fmul k.eta (fadd u (fmul k.wd w)))

/-- AdamW with the second moment given; none while the entry is priming (R195, R199). -/
def adamW (k : UpdConst) (w m g : Word32) (s : Option Second) : RecOut :=
  let m1 := fadd (fmul k.b1 m) (fmul k.omb1 g)
  match s with
  | none => { r := { w := w, m := m1 } }
  | some s =>
    let u := fdiv (fmul m1 k.ic1) (fadd (fsqrt (fmul s.vh s.ic2)) k.eps)
    let on := !(Val.of32 k.clip).isZero
    let hi := on && (Val.of32 k.clip).lt (Val.of32 u)
    let lo := on && (Val.of32 u).lt (Val.of32 (fneg k.clip))
    let u := if hi then k.clip else if lo then fneg k.clip else u
    { r := { w := decayed k w u, m := m1 }, clipped := hi || lo }

/-- SGD with momentum, and its Nesterov form (R196). -/
def sgd (k : UpdConst) (w m g : Word32) : RecOut :=
  let b := fadd (fmul k.b1 m) g
  let d := if k.nesterov then fadd g (fmul k.b1 b) else b
  { r := { w := decayed k w d, m := b } }

/-- Sign-momentum (R196). -/
def signMomentum (k : UpdConst) (w m g : Word32) : RecOut :=
  let c := fadd (fmul k.b1 m) (fmul k.omb1 g)
  let u : Word32 := if (Val.of32 0).lt (Val.of32 c) then fone
    else if (Val.of32 c).lt (Val.of32 0) then fneg fone else 0
  { r := { w := decayed k w u, m := fadd (fmul k.b2 m) (fmul k.omb2 g) } }

/-- One record updated under a rule. -/
def updateRec (k : UpdConst) (r : Rec) (g : Word32) (s : Option Second) : RecOut :=
  let w := flush32 r.w
  let m := flush32 r.m
  match k.rule with
  | 1 => sgd k w m g
  | 2 => signMomentum k w m g
  | _ => adamW k w m g s

/-! ### M blocks: factors and sums (R183, R198, R199) -/

/-- The factor slot a step reads (R198). -/
def Factors.slot (f : Factors) (t : Nat) : FactorSlot := if t % 2 = 0 then f.even else f.odd

/-- The factors with the slot of index t replaced. -/
def Factors.setSlot (f : Factors) (t : Nat) (s : FactorSlot) : Factors :=
  if t % 2 = 0 then { f with even := s } else { f with odd := s }

/-- The second moment of element (i, j) of an M block: none in a priming step (R195, R199). -/
def FactorSlot.second (s : FactorSlot) (k : UpdConst) (i j : Nat) : Option Second :=
  if s.folds = 0 then none
  else
    let vh := if (Val.of32 s.fbar).isZero then (0 : Word32)
      else fmul (fmul (Tbl.get 0 s.fr i) (fdiv fone s.fbar)) (Tbl.get 0 s.fc j)
    some { vh := vh, ic2 := fdiv fone (fsub fone (fpow k.b2 s.folds)) }

/-- The sum buffer with g² of element (i, j) added (R190 step 7, R199). -/
def Factors.addSquare (f : Factors) (i j : Nat) (g : Word32) : Factors :=
  let q := fmul g g
  { f with rowSum := Tbl.modify 0 f.rowSum i (fadd · q), colSum := Tbl.modify 0 f.colSum j (fadd · q),
           total := fadd f.total q }

/-! ### A block updated -/

/-- What the update of a block gives: the new block, the sums, the counts, and whether any result is not
finite (R197). -/
structure BlockOut where
  block : Block
  factors : Factors
  clipped : Nat := 0
  nonfinite : Bool := false
  deriving DecidableEq, Repr

/-- The gradients of a block after scaling (R195), widened exactly from the segment. -/
def scaledGrads (k : UpdConst) (gs : List Word32) : List Word32 := gs.map fun g => fmul (flush32 g) k.lsInv

/-- An M block updated: first is the element index of its first record, cols the columns (R195, R196). -/
def updateM (k : UpdConst) (f : Factors) (t first cols : Nat) (b : Block) (gs : List Word32) : BlockOut :=
  let s := f.slot t
  let start : BlockOut := { block := { b with recs := [] }, factors := f }
  let o := ((List.range 64).zip b.recs).foldl (fun (o : BlockOut) x =>
    match gs[x.1]? with
    | none => { o with block := { o.block with recs := o.block.recs ++ [x.2] } }
    | some g0 =>
      let g := fmul (flush32 g0) k.lsInv
      let i := (first + x.1) / cols
      let j := (first + x.1) % cols
      let r := updateRec k x.2 g (if k.rule = 0 then s.second k i j else none)
      { o with block := { o.block with recs := o.block.recs ++ [r.r] },
               factors := if k.rule = 0 then o.factors.addSquare i j g else o.factors,
               clipped := o.clipped + (if r.clipped then 1 else 0),
               nonfinite := o.nonfinite || fnonfinite r.r.w || fnonfinite r.r.m }) start
  o

/-- The scale of 32 roots (R195): clamp(⌈log2(smax / 255)⌉ + 127, 0, 254), or 0 where the largest is 0. -/
def rootScale (roots : List Word32) : Nat :=
  let m := roots.foldl (fun m x => if (Val.of32 m).lt (Val.of32 x) then x else m) 0
  match Val.of32 m with
  | .fin _ n d =>
    if n = 0 then 0
    else
      let e := floorLog2 n (255 * d)
      let exact := (Val.dyadic false 1 e).eq (.fin false n (255 * d))
      (clampInt 0 254 ((if exact then e else e + 1) + 127)).toNat
  | _ => 254

/-- The code of a root at a scale: nearest, ties away from zero, saturated at 255 (R195). -/
def rootCode (e : Nat) (x : Word32) : Nat :=
  match (Val.of32 x).mul (.dyadic false 1 (127 - (e : Int))) with
  | .fin _ n d => min 255 (Rnd.int .nearest true n d)
  | _ => 255

/-- 32 codes and their scale. Where a root is not finite the spec states neither, and both are free. -/
def requant (roots : List Word32) (arg : Nat) : List Nat × Nat :=
  if roots.any fnonfinite then
    ((List.range 32).map fun r => (Config.openByte 1 (64 * arg + r)).toNat, (Config.openByte 2 arg).toNat % 255)
  else
    let e := rootScale roots
    (roots.map (rootCode e), e)

/-- A V block updated with step count k2: records, then codes and scales (R195, R196). -/
def updateV (k : UpdConst) (k2 : Nat) (f : Factors) (b : Block) (gs : List Word32) : BlockOut :=
  let adam := decide (k.rule ≠ 1) && decide (k.rule ≠ 2)
  let ic2 := fdiv fone (fsub fone (fpow k.b2 k2))
  let outs := ((List.range 64).zip b.recs).map fun x =>
    match gs[x.1]? with
    | none => (({ r := x.2 } : RecOut), (0 : Word32))
    | some g0 =>
      let g := fmul (flush32 g0) k.lsInv
      let s := b.rootV x.1
      let vh := fadd (fmul k.b2 (fmul s s)) (fmul k.omb2 (fmul g g))
      let o := updateRec k x.2 g (if adam then some { vh := vh, ic2 := ic2 } else none)
      (o, if adam then fsqrt vh else 0)
  let roots := outs.map fun o => o.2
  let arg := k.k
  let q0 := requant (roots.take 32) (2 * arg)
  let q1 := requant (roots.drop 32) (2 * arg + 1)
  { block := { b with recs := outs.map (·.1.r), codes := q0.1 ++ q1.1, scale0 := q0.2, scale1 := q1.2 },
    factors := f,
    clipped := outs.foldl (fun n o => n + (if o.1.clipped then 1 else 0)) 0,
    nonfinite := outs.any fun o => fnonfinite o.1.r.w || fnonfinite o.1.r.m || fnonfinite o.2 }

/-! ### The fold of a sketch segment (R200) -/

/-- The new factor slot from the old one and the reduced sums; rows is the matrix's rows M. -/
def FactorSlot.fold (s : FactorSlot) (b2 omb2 : Word32) (rows cols : Nat) (rs cs : Tbl Word32) (total : Word32) : FactorSlot :=
  let invC := fdiv fone (fofNat cols)
  let invM := fdiv fone (fofNat rows)
  let invMC := fdiv fone (fofNat (rows * cols))
  { fbar := fadd (fmul b2 s.fbar) (fmul omb2 (fmul total invMC)),
    folds := min 0xFFFFFFFF (s.folds + 1),
    fr := rs.map fun p => (p.1, fadd (fmul b2 (Tbl.get 0 s.fr p.1)) (fmul omb2 (fmul p.2 invC))),
    fc := cs.map fun p => (p.1, fadd (fmul b2 (Tbl.get 0 s.fc p.1)) (fmul omb2 (fmul p.2 invM))) }

/-- Whether a factor slot holds a NaN or an infinity (R197). -/
def FactorSlot.nonfinite (s : FactorSlot) : Bool :=
  fnonfinite s.fbar || s.fr.any (fun p => fnonfinite p.2) || s.fc.any fun p => fnonfinite p.2

/-- A factor slot's bytes in its guarded master: the header, then fr, then fc (R198). -/
def FactorSlot.toBytes (s : FactorSlot) : Bytes :=
  bytesOfNat 4 s.fbar.toNat ++ bytesOfNat 4 s.folds ++ List.replicate 56 0
    ++ s.fr.flatMap (fun p => bytesOfNat 4 p.2.toNat) ++ s.fc.flatMap fun p => bytesOfNat 4 p.2.toNat

/-- The bytes of a factor slot of a matrix entry spanning the given rows. -/
def slotBytes (rows cols : Nat) : Nat := 64 + 4 * (rows + cols)

/-! ### The schedule engine (R201, R202) -/

/-- An FP32 field of a schedule record. -/
def scWord (s : BitVec 512) (lo : Nat) : Word32 := flush32 (BitVec.ofNat 32 (field s lo 32))

/-- Entry i of the table T (R202). -/
def cosTable (i : Nat) : Word32 :=
  if i ≥ 4096 then 0
  else f32 ((fxVal (fxOne + fxCos (fxPi * (i : Int) / 4096))).mul (.dyadic false 1 (-1)))

/-- hc(f) (R202). -/
def halfCos (f : Word32) : Word32 :=
  match Val.of32 f with
  | .fin false n d =>
    let i := min 4095 (n * 4096 / d)
    let w := f32 (.fin false (n * 4096 - i * d) d)
    let dt := fsub (cosTable (i + 1)) (cosTable i)
    fadd (cosTable i) (fmul w dt)
  | _ => cosTable 0

/-- The warm restarts: the updates into the period, its length and its peak (R202). fuel bounds the loop,
which takes at least one update away in each round. -/
def restarts (mult peakMult : Word32) : Nat → Nat → Nat → Word32 → Nat × Nat × Word32
  | 0, x, d, peak => (x, d, peak)
  | fuel + 1, x, d, peak =>
    if d ≤ x then
      let nd := match Val.of32 (fmul (fofNat d) mult) with
        | .fin _ n q => Rnd.int .nearest false n q
        | _ => 0
      restarts mult peakMult fuel (x - d) nd (fmul peak peakMult)
    else (x, d, peak)

/-- The greater of two FP32 values. -/
def fmax (a b : Word32) : Word32 := if (Val.of32 a).lt (Val.of32 b) then b else a

/-- The learning rate from a schedule record with s updates committed (R202). -/
def scheduleEta (sc : BitVec 512) (s : Nat) : Word32 :=
  let eta0 := scWord sc 32
  let etaMax := scWord sc 64
  let etaMin := scWord sc 96
  let warm := field sc 128 32
  let period := field sc 192 32
  if flag sc 3 then scWord sc 288
  else if s < warm then fadd eta0 (fmul (fsub etaMax eta0) (fdiv (fofNat s) (fofNat warm)))
  else
    let r := if period = 0 then (s - warm, field sc 160 32, etaMax)
      else restarts (scWord sc 224) (scWord sc 256) (s - warm + 1) (s - warm) period etaMax
    let x := r.1
    let d := r.2.1
    let peak := r.2.2
    let f := if d = 0 then fone else fdiv (fofNat (min x d)) (fofNat d)
    let w1 := max warm 1
    let eta := match field sc 0 3 with
      | 0 => peak
      | 1 => fadd peak (fmul (fsub etaMin peak) f)
      | 2 => fadd etaMin (fmul (fsub peak etaMin) (halfCos f))
      | 3 => fmul peak (fsqrt (fdiv (fofNat w1) (fofNat (w1 + x))))
      | n => Config.openSchedule n s peak
    fmax eta etaMin

end Sys2Proof.Machine
end

