-- ==== Sys2Proof/Machine/Ops.lean ====
section
/-! DEFINITION. The operations every family shares: reaching a die, a tun, a MAC and the tun layout (R378), events
(R345, R346), fault reports (R28, R404, R412), program faults (R51), stopping a tun, and completing a token
(R42). -/

namespace Sys2Proof.Machine

/-! ### Reaching the parts -/

/-- Compute die n. -/
def State.die (s : State) (n : Nat) : Die := Tbl.get {} s.dies n
/-- Compute die n replaced. -/
def State.setDie (s : State) (n : Nat) (d : Die) : State := { s with dies := s.dies.put n d }
/-- Tun u at the hub. -/
def State.tun (s : State) (u : Nat) : Tun := Tbl.get {} s.tuns u
/-- Tun u replaced. -/
def State.setTun (s : State) (u : Nat) (t : Tun) : State := { s with tuns := s.tuns.put u t }
/-- The context of tun u on die n. -/
def State.ctx (s : State) (n u : Nat) : Ctx := (s.die n).ctx u
/-- The context of tun u on die n replaced. -/
def State.setCtx (s : State) (n u : Nat) (c : Ctx) : State := s.setDie n ((s.die n).setCtx u c)
/-- MAC m. -/
def State.mac (s : State) (m : Nat) : Mac := Tbl.get {} s.net.macs m
/-- MAC m replaced. -/
def State.setMac (s : State) (m : Nat) (x : Mac) : State := { s with net := { s.net with macs := s.net.macs.put m x } }
/-- Direction dir of link l. -/
def State.linkDir (s : State) (l dir : Nat) : LinkDir := Tbl.get {} s.links.dirs (2 * l + dir)
/-- Direction dir of link l replaced. -/
def State.setLinkDir (s : State) (l dir : Nat) (x : LinkDir) : State :=
  { s with links := { s.links with dirs := s.links.dirs.put (2 * l + dir) x } }
/-- What discovery has found of die n. -/
def State.found (s : State) (n : Nat) : Found := Tbl.get {} s.links.found n
/-- What discovery has found of die n replaced. -/
def State.setFound (s : State) (n : Nat) (x : Found) : State :=
  { s with links := { s.links with found := s.links.found.put n x } }

/-! ### The tun layout (R378) -/

/-- The tun layout in force: the configuration image's, or the one that a layout package has put in its place (R249). -/
def State.lay (s : State) (u : Nat) : BitVec 1024 := (s.tun u).layNow.getD (Tbl.get 0 s.layout.tuns u)
/-- A tun's layout put in force. -/
def State.setLay (s : State) (u : Nat) (l : Option (BitVec 1024)) : State := s.setTun u { s.tun u with layNow := l }

/-- TL_EN. -/
def tlEn (l : BitVec 1024) : Bool := flag l 0
/-- TL_SEALED. -/
def tlSealed (l : BitVec 1024) : Bool := flag l 1
/-- The dies of TL_DIES, ascending. -/
def tlDies (l : BitVec 1024) : List Nat := (List.range 8).filter fun n => flag l (2 + n)
/-- TL_TAP_FIRST. -/
def tlTap (l : BitVec 1024) : Nat := field l 10 10
/-- TL_TAP_COUNT. -/
def tlTaps (l : BitVec 1024) : Nat := field l 20 10
/-- TL_SLOTS. -/
def tlSlots (l : BitVec 1024) : Nat := field l 104 12
/-- The racking slots. -/
def tlRackSlots (l : BitVec 1024) : Nat := field l 116 11 + 1
/-- TL_MOVER_QUOTA. -/
def tlMovers (l : BitVec 1024) : Nat := field l 128 9
/-- TL_RACK_BUF in bytes. -/
def tlRackBuf (l : BitVec 1024) : Nat := field l 208 16 * 2 ^ 20

/-- A tun's share of scratchpad and loft lines. -/
def tlShare (l : BitVec 1024) : Share :=
  { spLine0 := field l 32 16, spLines := field l 48 16, loftLine0 := field l 64 20, loftLines := field l 84 20 }

/-- The share of tun u. -/
def State.share (s : State) (u : Nat) : Share := tlShare (s.lay u)

/-- The shares of every tun, for a die's replay. -/
def State.shares (s : State) : List (Nat × Share) := s.layout.tuns.map fun p => (p.1, s.share p.1)

/-- The run table entries of a tun, in layout order. -/
def State.runs (s : State) (u : Nat) : List (BitVec 64) :=
  let l := s.lay u
  (List.range (field l 176 7)).map fun i => Tbl.get 0 s.layout.runs (field l 160 16 + i)

/-- Whether a die holds a sealed tun (R55, R379). -/
def State.sealedDie (s : State) (n : Nat) : Bool :=
  s.layout.tuns.any fun p => let l := s.lay p.1; tlEn l && tlSealed l && (tlDies l).contains n

/-- The tuns laid out on a die. -/
def State.tunsOn (s : State) (n : Nat) : List Nat :=
  (s.layout.tuns.filter fun p => let l := s.lay p.1; tlEn l && (tlDies l).contains n).map Prod.fst

/-- Whether a die is shared with a sealed tun: the domains its tuns use then stay awake across switches (R55). -/
def State.sharedSealed (s : State) (n : Nat) : Bool := s.sealedDie n && decide (2 ≤ (s.tunsOn n).length)

/-- The ring links that are off, by the die they are named by (R319). -/
def State.ringOff (s : State) : List Nat :=
  (List.range 8).filter fun i => (Tbl.get ({} : LinkDir) s.links.dirs (2 * (8 + i))).off
    || (Tbl.get ({} : LinkDir) s.links.dirs (2 * (8 + i) + 1)).off

/-- The link whose port domain k of a die is: the hub link, and the ring links of its two sides. -/
def portLink (n k : Nat) : Option Nat :=
  match k with
  | 35 => some n
  | 36 => some (8 + (n + 7) % 8)
  | 37 => some (8 + n)
  | _ => none

/-- Whether a direction of a link has a transfer under way, or a group under repair (R27, R331). -/
def LinkDir.active (x : LinkDir) : Bool := !(x.transfers.isEmpty) || x.groups.any fun g => g.2.stopped && !g.2.retired

/-- Whether the link of port domain k of a die is in use. -/
def State.portBusy (s : State) (n k : Nat) : Bool :=
  match portLink n k with
  | some l => (List.range 2).any fun dir => (Tbl.get ({} : LinkDir) s.links.dirs (2 * l + dir)).active
  | none => false

/-- The domains of a die that something beside its own operations keeps from being gated now: the ports of links with a
transfer under way, and, on a die shared with a sealed tun, every domain (R27, R55). -/
def State.keptOn (s : State) (n : Nat) : List Nat :=
  (List.range 40).filter fun k => s.sharedSealed n || s.portBusy n k

/-- The dies of tun u. -/
def State.diesOf (s : State) (u : Nat) : List Nat := tlDies (s.lay u)

/-- The slice plan of a die: tun and nominal end unit, in plan order (R52, R378). -/
def State.plan (s : State) (n : Nat) : List (Nat × Nat) :=
  ((List.range 32).map fun i => Tbl.get 0 s.layout.plans (32 * n + i)).filterMap fun e =>
    if field e 5 9 = 0 then none else some (field e 0 5, field e 5 9)

/-! ### Time -/

/-- PTP time in ns, or the uptime while the clock is FREE (R345). -/
def State.timeNs (s : State) : Nat :=
  (s.nowPs - s.host.startedPs) / 1000 + if s.net.ptp.state = .free then 0 else s.net.ptp.timeNs

/-- A free value's number drawn. -/
def State.draw (s : State) : State := { s with draws := s.draws + 1 }

/-- Random bytes from the CTR_DRBG (R371): 32 bytes a request. -/
def State.random (s : State) : Bytes × State :=
  (bytesOfNat 32 (Config.drbg s.draws).toNat, { s.draw with sec := { s.sec with requests := s.sec.requests + 1 } })

/-! ### Events (R345, R346) -/

/-- An event slot. -/
def eventSlot (code u step time seq : Nat) (args : Bytes) : BitVec 512 :=
  BitVec.ofNat 512 (code % 2 ^ 16 + (u % 32) * 2 ^ 16 + (step % 2 ^ 48) * 2 ^ 32 + (time % 2 ^ 64) * 2 ^ 96
    + (seq % 2 ^ 32) * 2 ^ 160 + (Bytes.toNat args % 2 ^ 320) * 2 ^ 192)

/-- A ring with a slot filled and its index moved on. -/
def Ring.push (r : Ring) (slot : BitVec 512) : Ring :=
  { r with slots := slot :: r.slots, devIdx := r.devIdx + 64, seq := r.seq + 1 }

/-- Whether a ring of the given size has room for a slot. -/
def Ring.room (r : Ring) (size : Nat) : Bool := decide (r.devIdx + 64 ≤ r.hostIdx + size)

/-- The events-lost event that a ring of the given size gets once room has returned (R345). -/
def Ring.back (r : Ring) (size u step time : Nat) : Ring :=
  if r.dropped ≠ 0 && r.room size then
    { r.push (eventSlot 2 u step time r.seq (bytesOfNat 8 r.dropped)) with dropped := 0 }
  else r

/-- An event posted on a ring of the given size: dropped and counted where the ring is full, and after an events-lost event that is
due (R345). -/
def Ring.post (r : Ring) (size code u step time : Nat) (args : Bytes) : Ring :=
  let r := r.back size u step time
  if r.room size && r.dropped == 0 then r.push (eventSlot code u step time r.seq args)
  else { r with dropped := r.dropped + 1 }

/-- AR_LOG2's size of area a (0 for A, 1 for B) of a tap entry; 0 where the area is unused. -/
def areaSize (e : BitVec 1024) (a : Nat) : Nat :=
  let l := field e (64 + 256 * a + 64) 6
  if l = 0 then 0 else 2 ^ l

/-- The tap t's entry in force. -/
def State.tapEntry (s : State) (t : Nat) : BitVec 1024 := (Tbl.get {} s.host.taps t).entry

/-- The size of the event ring of a tap: none while the tap is off, and while the link is down, since no write reaches the host then
(R336; what becomes of an event then is DESIGN CHOICE, log entry 145). -/
def State.eventArea (s : State) (t : Nat) : Nat :=
  let e := s.tapEntry t
  if flag e 9 && s.host.linkUp then areaSize e 0 else 0

/-- An MSI-X vector fires for each slot by which its ring has advanced (R335). -/
def HostIf.fire (h : HostIf) (v slots : Nat) : HostIf :=
  if slots = 0 then h else { h with vectors := Tbl.modify 0 h.vectors v (· + slots) }

/-- A tun's event ring moved on by the device, and vector u with it. -/
def State.setEvents (s : State) (u : Nat) (r : Ring) : State :=
  let t := s.tun u
  { s with host := s.host.fire u ((r.devIdx - t.events.devIdx) / 64) }.setTun u { t with events := r }

/-- An event posted to the tun's tap, its arguments as bytes. -/
def State.eventBytes (s : State) (u code : Nat) (args : Bytes) : State :=
  let t := s.tun u
  s.setEvents u (t.events.post (s.eventArea (tlTap (s.lay u))) code u t.bung.step s.timeNs args)

/-- The events-lost event of a tun's tap, where it is due (R345). -/
def State.eventsBack (s : State) (u : Nat) : State :=
  let t := s.tun u
  s.setEvents u (t.events.back (s.eventArea (tlTap (s.lay u))) u t.bung.step s.timeNs)

/-- An event posted to the tun's tap, its arguments as 64-bit numbers in the order of the rule. -/
def State.event (s : State) (u code : Nat) (args : List Nat := []) : State :=
  s.eventBytes u code (args.flatMap (bytesOfNat 8))

/-- The device's event ring moved on, and vector 32 with it. -/
def State.setDeviceEvents (s : State) (r : Ring) : State :=
  { s with host := { s.host.fire 32 ((r.devIdx - s.host.events.devIdx) / 64) with events := r } }

/-- An event posted to tap 1, which also signals an in-band interrupt on I3C (R420). -/
def State.deviceEventBytes (s : State) (code : Nat) (args : Bytes) : State :=
  let s := s.setDeviceEvents (s.host.events.post (s.eventArea 1) code 0 0 s.timeNs args)
  { s with pins := { s.pins with inBand := s.pins.inBand + 1 } }

/-- The events-lost event of tap 1, where it is due. -/
def State.deviceEventsBack (s : State) : State := s.setDeviceEvents (s.host.events.back (s.eventArea 1) 0 0 s.timeNs)

/-- An event posted to tap 1 with 64-bit arguments. -/
def State.deviceEvent (s : State) (code : Nat) (args : List Nat := []) : State :=
  s.deviceEventBytes code (args.flatMap (bytesOfNat 8))

/-- The command-done event of a command slot (R344): status 0 for done. -/
def State.commandDone (s : State) (u : Nat) (cmdSeq : BitVec 32) (status : Nat) : State :=
  (s.setTun u { s.tun u with cmdIdx := (s.tun u).cmdIdx + 64 }).event u 1 [cmdSeq.toNat, status]

/-! ### Spoiling, stopping and faults -/

/-- A tun's spoil flag set on a die (R28, R51); a tun that holds no context there has none. -/
def State.spoil (s : State) (n u : Nat) : State :=
  if (s.ctx n u).resident then s.setCtx n u { s.ctx n u with spoil := true } else s

/-- A tun's spoil flag set on every die it runs on. -/
def State.spoilAll (s : State) (u : Nat) : State := (s.diesOf u).foldl (fun s n => s.spoil n u) s

/-- The step a tun runs. -/
def Tun.stepNow (t : Tun) : Nat := t.bung.step + 1

/-- A tun whose wait for its receiver is over: its cycles count as racking stall cycles (R2). -/
def Tun.endLag (t : Tun) (now : Nat) : Tun :=
  match t.step.lagSince with
  | none => t
  | some x => { t with step := { t.step with lagSince := none },
                       rackStat := { t.rackStat with stall := t.rackStat.stall + (now - x) / 800 } }

/-- A tun stopped with its committed step intact: no die issues its slices, and the hub takes no bung. -/
def State.stopTun (s : State) (u : Nat) : State :=
  let t := s.tun u
  if t.loaded then
    let s := s.setTun u { t.endLag s.nowPs with stopped := true, step := { (t.endLag s.nowPs).step with state := .stopped } }
    (s.diesOf u).foldl (fun s n => s.setCtx n u { s.ctx n u with stopped := true }) s
  else s

/-- Every tun stopped. -/
def State.stopAll (s : State) : State := (List.range 32).foldl State.stopTun s

/-- HUB_STOP_ALL: every tun stopped, and the moment noted for the loads that come with it (R335, R347). -/
def State.stopAllNow (s : State) : State :=
  let s := s.stopAll
  { s with host := { s.host with stopAllAt := some s.nowPs } }

/-- The number of a program fault in its event (the order of R51, then the faults R192, R234 and R256 add). -/
def ProgFault.code : ProgFault → Nat
  | .illegalSlice => 1
  | .tokenDoubleSet => 2
  | .strayCompletion => 3
  | .sealViolation => 4
  | .sealSpacing => 5
  | .sealedOverrun => 6
  | .doubleArrival => 7
  | .doubleContribution => 8
  | .lateContribution => 9

/-- A program fault (R51): the die stops issuing the tun, its spoil flag is set, the hub stops the tun on every
die, and the fault, with its class and slice address, goes to the tun's tap. -/
def State.programFault (s : State) (n u : Nat) (f : ProgFault) : State :=
  let pc := (s.ctx n u).pc
  ((s.spoil n u).stopTun u).event u 0x20 [f.code, pc, n]

/-- The detection time of the fault being handled: a held report keeps its own (R409, R412). -/
def State.detectedNs (s : State) : Nat := s.pwr.detected.getD s.timeNs

/-- A fault's place in the fault block (R412): its class counted and the last-fault fields set. -/
def State.countFault (s : State) (cls die unit intNs : Nat) : State :=
  let p := s.pwr
  { s with pwr := { p with
      faults := Tbl.modify 0 p.faults cls (· + 1), lastClass := cls, lastDie := die, lastUnit := unit,
      lastTime := s.detectedNs, lastIntNs := intNs,
      absorbedNsMax := if (cls ≤ 4 ∨ cls = 7) ∧ intNs < 2 ^ 64 - 1 then max p.absorbedNsMax intNs else p.absorbedNsMax } }

/-- A fault of a class (R404, R412): counted, and its event posted to tap 1 (R346). Class 5 events are posted at
most once a millisecond a die. A report while STOPPED is held (R409). -/
def State.fault (s : State) (cls die unit intNs : Nat) : State :=
  if s.pwr.state = .stopped ∧ cls ≠ 8 ∧ cls ≠ 13 then
    let r : HeldReport := { cls := cls, die := die, unit := unit, time := s.timeNs, intNs := some intNs }
    { s with pwr := { s.pwr with reports := s.pwr.reports ++ [r] } }
  else
    let s := s.countFault cls die unit intNs
    let args := [BitVec.ofNat 8 cls, BitVec.ofNat 8 die, BitVec.ofNat 8 unit] ++ List.replicate 5 0
      ++ bytesOfNat 8 s.detectedNs ++ bytesOfNat 8 intNs
    if cls = 5 then
      match s.pwr.class5.find die with
      | some t => if s.nowPs < t + 10 ^ 9 then s
                  else { s with pwr := { s.pwr with class5 := s.pwr.class5.put die s.nowPs } }.deviceEventBytes 0x45 args
      | none => { s with pwr := { s.pwr with class5 := s.pwr.class5.put die s.nowPs } }.deviceEventBytes 0x45 args
    else s.deviceEventBytes (0x40 + cls) args

/-- All ones: the interruption of a fault whose tuns are stopped (R412). -/
def allOnes64 : Nat := 2 ^ 64 - 1

/-- Every tun laid out on a die stopped. -/
def State.stopOnDie (s : State) (n : Nat) : State :=
  (List.range 32).foldl (fun s u => if (s.diesOf u).contains n then s.stopTun u else s) s

/-! ### Tokens and windows -/

/-- A completion or arrival sets a token of a tun on a die (R40, R42): a double set or a stray completion is a
program fault. -/
def State.completeToken (s : State) (n u tok : Nat) (remote : Bool) : State :=
  let r := (s.ctx n u).complete (s.die n).cycle tok remote
  let s := s.setCtx n u r.1
  match r.2 with
  | none => s
  | some f => s.programFault n u f

/-- A die after an operation's end: a double set or a stray completion of its tokens is a program fault of their tun (R42). -/
def State.putOut (s : State) (n : Nat) (r : DieOut) : State :=
  match r.2 with
  | none => s.setDie n r.1
  | some f => (s.setDie n r.1).programFault n f.1 f.2

/-- A window of a die written from outside: who is owed its credit. -/
def State.owe (s : State) (n u win writer : Nat) : State :=
  let c := s.ctx n u
  s.setCtx n u { c with owed := c.owed.put win writer }

/-- Writes at local addresses of a die, as the tun's results: the overlay of the statistics table is never
written so (R133). -/
def State.writeLocal (s : State) (n : Nat) (ws : List (Nat × Bytes)) : State :=
  let d := s.die n
  s.setDie n { d with mem := applyWrites d.mem ws }

/-! ### The ways between dies (R15, R20, R26) -/

/-- The groups of a link: 16 on a hub link, 8 on a ring link. -/
def linkGroups (l : Nat) : Nat := if l < 8 then 16 else 8

/-- A group of a direction. -/
def LinkDir.group (x : LinkDir) (g : Nat) : Group := Tbl.get {} x.groups g

/-- A group replaced. -/
def LinkDir.setGroup (x : LinkDir) (g : Nat) (y : Group) : LinkDir := { x with groups := x.groups.put g y }

/-- The role of a group; 3 none. -/
def LinkDir.role (x : LinkDir) (g : Nat) : Nat := Tbl.get 3 x.roles g

/-- The working groups of a direction. -/
def LinkDir.working (x : LinkDir) (l : Nat) : List Nat := (List.range (linkGroups l)).filter fun g => !((x.group g).retired)

/-- The port domains of a link's data lanes by their global numbers (R25, R26). -/
def linkPorts (l : Nat) : List Nat :=
  if l < 8 then [40 * l + 35, 320 + 24 + l] else [40 * (l - 8) + 37, 40 * ((l - 8 + 1) % 8) + 36]

/-- A keeper by its global number. -/
def State.keeperAt (s : State) (k : Nat) : Keeper :=
  if k < 320 then (s.die (k / 40)).keeper (k % 40) else Tbl.get {} s.hubKeepers k

/-- Whether the data lanes of a link run: gating a port at either end stops them (R26). -/
def State.linkAwake (s : State) (l : Nat) : Bool := (linkPorts l).all fun k => (s.keeperAt k).awake

/-- The links and directions that traffic from one die to another takes (R20, R319): the ring link that joins neighbours, or the
hub links of both between other dies and where that ring link is off. -/
def State.pathOf (s : State) (src dst : Nat) : List (Nat × Nat) :=
  if dst = (src + 1) % 8 ∧ !(s.ringOff.contains src) then [(8 + src, 0)]
  else if src = (dst + 1) % 8 ∧ !(s.ringOff.contains dst) then [(8 + dst, 1)]
  else [(src, 0), (dst, 1)]

/-- Whether traffic of a role finds its way from one die to another: every link of its path is on and awake, and a working group
of that role is not stopped for a repair (R20, R26, R318, R328). -/
def State.pathOpen (s : State) (role src dst : Nat) : Bool :=
  src == dst || (s.pathOf src dst).all fun p =>
    let x := s.linkDir p.1 p.2
    !x.off && s.linkAwake p.1 && (x.working p.1).any fun g => x.role g == role && !((x.group g).stopped)

/-- Whether the two dies of a parity group can reach each other in the memory-forwarding role, as parity upkeep and rebuild need
(R15); with one of them dark there is no such traffic (R405). -/
def State.groupLinked (s : State) (pg : Nat) : Bool :=
  (s.found (2 * pg)).state == .dark || (s.found (2 * pg + 1)).state == .dark
    || (s.pathOpen 1 (2 * pg) (2 * pg + 1) && s.pathOpen 1 (2 * pg + 1) (2 * pg))

/-- Whether two ranges meet. -/
def rangesMeet (a la b lb : Nat) : Bool := decide (a < b + lb) && decide (b < a + la)

end Sys2Proof.Machine
end

