-- ==== Sys2Proof/Machine/Cellar.lean ====
section
/-! DEFINITION. The cellar (R163 to R167, R171, R175): where a tun-local address lies, what its bytes read as
under the tun's key, writing under the run's protection class, what the devices store, and the parity assembler. -/

namespace Sys2Proof.Machine

/-- A run's parity group, first granule, granules and class (0 loose, 1 guarded, 2 rewrite). -/
structure Run where
  pg : Nat
  first : Nat
  count : Nat
  cls : Nat
  deriving DecidableEq, Repr

/-- A run table entry read (R378). -/
def Run.ofEntry (e : BitVec 64) : Run :=
  { pg := field e 0 2, first := field e 2 15, count := field e 17 15, cls := field e 32 2 }

/-- The bytes of a die's data in granule g of a group: 16.5 MiB, or 5.5 MiB in the short granule (R163). -/
def granuleBytes (g : Nat) : Nat := if g = 21845 then 5767168 else 17301504

/-- The parity position of a stripe (R164). -/
def parityPos (s : Nat) : Nat := (s % 12) / 2 + 6 * (s % 12 % 2)

/-- The stripe and position of data unit w of die h from stripe s on, fuel stripes at most (R164). -/
def locateUnit (h : Nat) : Nat → Nat → Nat → Nat × Nat
  | 0, s, _ => (s, 6 * h)
  | fuel + 1, s, w =>
    let p := parityPos s
    let own := p / 6 = h
    let n := if own then 5 else 6
    if w < n then (s, 6 * h + w + (if own ∧ p % 6 ≤ w then 1 else 0))
    else locateUnit h fuel (s + 1) (w - n)

/-- Where a byte of cellar lies. -/
structure Loc where
  pg : Nat
  granule : Nat
  stripe : Nat
  pos : Nat
  addr : Nat
  cls : Nat
  deriving DecidableEq, Repr

/-- Byte u of die h's share of granule g of group pg (R164). -/
def locate (pg g u h cls : Nat) : Loc :=
  let v := u / 256
  let r := locateUnit h 12 (g * 12288 + v / 66 * 12) (v % 66)
  { pg := pg, granule := g, stripe := r.1, pos := r.2,
    addr := (12 * pg + r.2) * 2 ^ 36 + r.1 * 256 + u % 256, cls := cls }

/-- The bytes of a run's share of one die. -/
def Run.bytes (r : Run) : Nat :=
  if r.first + r.count = 21846 then (r.count - 1) * 17301504 + 5767168 else r.count * 17301504

/-- The place of offset off of a tun's cellar space on die n, run by run in the order of the layout (R163). -/
def cellarLoc (n : Nat) : List Run → Nat → Option Loc
  | [], _ => none
  | r :: rest, off =>
    if r.pg ≠ n / 2 then cellarLoc n rest off
    else if off < r.bytes then
      let g := if off / 17301504 < r.count then off / 17301504 else r.count - 1
      some (locate r.pg (r.first + g) (off - g * 17301504) (n % 2) r.cls)
    else cellarLoc n rest (off - r.bytes)

/-- The runs of a tun. -/
def State.runsOf (s : State) (u : Nat) : List Run := (s.runs u).map Run.ofEntry

/-- The place of a tun-local cellar address. -/
def State.cellarAt (s : State) (u n off : Nat) : Option Loc := cellarLoc n (s.runsOf u) off

/-- The bytes of a tun's cellar space on a die. -/
def State.cellarSize (s : State) (u n : Nat) : Nat :=
  (s.runsOf u).foldl (fun x r => if r.pg = n / 2 then x + r.bytes else x) 0

/-- A parity group. -/
def State.group (s : State) (pg : Nat) : ParityGroup := Tbl.get {} s.cellar.groups pg

/-- A parity group replaced. -/
def State.setGroup (s : State) (pg : Nat) (g : ParityGroup) : State :=
  { s with cellar := { s.cellar with groups := s.cellar.groups.put pg g } }

/-- Whether a byte lies in a range that reads as zero until it is written (R171). -/
def Cellar.zeroAt (c : Cellar) (a : Nat) : Bool := c.zeros.any fun r => decide (r.1 ≤ a) && decide (a < r.1 + r.2)

/-- The tweak of the 64-byte unit of a tun-local cellar address (R175). -/
def cellarTweak (u n off : Nat) : Nat := u * 2 ^ 120 + n * 2 ^ 112 + off / 64

/-- The 64 bytes of a unit as the cellar lists them. -/
def Cellar.unit (c : Cellar) (unit : Nat) : Bytes := (List.range 64).map fun i => c.mem.read (64 * unit + i)

/-- A byte of cellar as the tun reads it that owns it (R175): its plaintext where the tun has written its unit, zero in a
range that reads so until it is written (R171), and otherwise what the unit decrypts to, which after a start's zero-fill
(R361) or under another tun's discarded keys (R384) is no data of the tun. -/
def Cellar.read (c : Cellar) (key : Bytes) (tweak a : Nat) : Byte :=
  if c.keys.find (a / 64) = some tweak then c.mem.read a
  else if (c.keys.find (a / 64)).isNone && c.zeroAt a then 0
  else (xtsDec (key.take 32) (key.drop 32) tweak (c.unit (a / 64))).getD (a % 64) 0

/-- A 64-byte unit made the tun's own before part of it is written: what the tun read in it stands. -/
def Cellar.adopt (c : Cellar) (key : Bytes) (tweak unit : Nat) : Cellar :=
  if c.keys.find unit = some tweak then c
  else
    let bs := (List.range 64).map fun i => c.read key tweak (64 * unit + i)
    { c with mem := c.mem.writeBytes (64 * unit) bs, keys := c.keys.put unit tweak }

/-- A 64-byte unit that is about to be written whole made the tun's own. -/
def Cellar.claim (c : Cellar) (tweak unit : Nat) : Cellar := { c with keys := c.keys.put unit tweak }

/-- One byte written by the tun of a key. -/
def Cellar.write (c : Cellar) (key : Bytes) (tweak a : Nat) (b : Byte) : Cellar :=
  let c := c.adopt key tweak (a / 64)
  { c with mem := c.mem.write a b }

/-- The unit as the cellar's devices store it (R164, R175): encrypted where a tun has written it. -/
def Cellar.stored (c : Cellar) (keyOf : Nat → Bytes) (unit : Nat) : Bytes :=
  match c.keys.find unit with
  | some w => xtsEnc ((keyOf (w / 2 ^ 120)).take 32) ((keyOf (w / 2 ^ 120)).drop 32) w (c.unit unit)
  | none => c.unit unit

/-- The units of a tun whose key goes (R384): what stays of them is their ciphertext. -/
def Cellar.forget (c : Cellar) (u : Nat) (key : Bytes) : Cellar :=
  (c.keys.filter fun p => p.2 / 2 ^ 120 == u).foldl (fun (c : Cellar) p =>
    { c with mem := c.mem.writeBytes (64 * p.1) (c.stored (fun _ => key) p.1), keys := c.keys.erase p.1 }) c

/-- The cellar key of a tun. -/
def State.cellarKey (s : State) (u : Nat) : Bytes := (s.tun u).cellarKey s.host.serial

/-- Byte at a tun-local cellar address; an address outside the share reads as zero (no access is made, R160). -/
def State.cellarByte (s : State) (u n off : Nat) : Byte :=
  match s.cellarAt u n off with
  | some l => s.cellar.read (s.cellarKey u) (cellarTweak u n off) l.addr
  | none => 0

/-- Bytes from a tun-local cellar address on. -/
def State.cellarBytes (s : State) (u n off len : Nat) : Bytes :=
  (List.range len).map fun i => s.cellarByte u n (off + i)

/-! ### The parity assembler (R166) -/

/-- The key of a stripe of a group. -/
def stripeKey (pg st : Nat) : Nat := pg * 2 ^ 28 + st

/-- The die whose assembler holds a stripe's parity. -/
def stripeDie (pg st : Nat) : Nat := 2 * pg + parityPos st / 6

/-- The open stripes with a unit written: opened, closed when all eleven are in, and the oldest filled where a
new one would be the 8,193rd. Answers the stripes and how many were filled. -/
def assemble (l : List (Nat × Nat)) (key pos : Nat) : List (Nat × Nat) × Nat :=
  match l.find? fun p => p.1 == key with
  | some p =>
    let m := Nat.lor p.2 (2 ^ pos)
    let n := (List.range 12).foldl (fun x i => x + m / 2 ^ i % 2) 0
    if n = 11 then (l.filter fun q => q.1 != key, 0)
    else (l.map fun q => if q.1 = key then (key, m) else q, 0)
  | none =>
    if l.length = 8192 then (l.drop 1 ++ [(key, 2 ^ pos)], 1) else (l ++ [(key, 2 ^ pos)], 0)

/-- Whether a stripe lies in a fenced row of its group: it has no parity. -/
def State.stripeFenced (s : State) (pg st : Nat) : Bool :=
  (List.range 2).any fun h => (s.die (2 * pg + h)).rowFences.any fun p => p.2 == st / 32

/-- Whether a place's stripe has a parity unit: none in a group that is exposed or fenced, where its row is fenced or its parity
lay on a dark die, and, in a group that is being rebuilt, none where the parity itself is lost or a lost data unit has been
rebuilt into its place (R172 to R174, R405). -/
def State.hasParity (s : State) (l : Loc) : Bool :=
  let g := s.group l.pg
  !(s.stripeFenced l.pg l.stripe) && (s.found (stripeDie l.pg l.stripe)).state != .dark
    && (match g.state with
      | .whole => true
      | .rebuilding => g.failed != some (parityPos l.stripe) && decide (g.rebuilt ≤ l.granule) && !(g.early.contains l.granule)
      | _ => false)

/-- A whole unit written in a rewrite run (R165, R166), where its stripe has parity. -/
def State.openStripe (s : State) (l : Loc) : State :=
  let n := stripeDie l.pg l.stripe
  let d := s.die n
  if !(s.hasParity l) then s else
  let r := assemble d.stripes (stripeKey l.pg l.stripe) l.pos
  s.setDie n { d with stripes := r.1, memStat := { d.memStat with stripeFills := d.memStat.stripeFills + r.2 } }

/-- Bytes written at a tun-local cellar address: whole units of rewrite runs go through the parity assembler.
A byte outside the share is never written. -/
def State.cellarWrite (s : State) (u n off : Nat) (bs : Bytes) : State :=
  let key := s.cellarKey u
  let whole := (List.range ((off + bs.length) / 64 - ceilDiv off 64)).map fun i => 64 * (ceilDiv off 64 + i)
  let s := whole.foldl (fun (s : State) o =>
    match s.cellarAt u n o with
    | some l => { s with cellar := s.cellar.claim (cellarTweak u n o) (l.addr / 64) }
    | none => s) s
  let s' := ((List.range bs.length).zip bs).foldl (fun (s : State) p =>
    match s.cellarAt u n (off + p.1) with
    | some l => { s with cellar := s.cellar.write key (cellarTweak u n (off + p.1)) l.addr p.2 }
    | none => s) s
  let firstU := ceilDiv off 256
  let lastU := (off + bs.length) / 256
  (List.range (lastU - firstU)).foldl (fun (s : State) i =>
    match s.cellarAt u n (256 * (firstU + i)) with
    | some l => if l.cls = 2 then s.openStripe l else s
    | none => s) s'

/-- Whether a stripe lies in a run of the tun. -/
def runHas (rs : List Run) (key : Nat) : Bool :=
  rs.any fun r => r.pg == key / 2 ^ 28 && decide (r.first * 12288 ≤ key % 2 ^ 28)
    && decide (key % 2 ^ 28 < (r.first + r.count) * 12288)

/-- Every open stripe of a tun filled (R166): each fill counts on the die that holds the parity. -/
def State.fillStripes (s : State) (u : Nat) : State :=
  let rs := s.runsOf u
  (List.range 8).foldl (fun s n =>
    let d := s.die n
    let mine := d.stripes.filter fun p => runHas rs p.1
    if mine.isEmpty then s
    else s.setDie n { d with stripes := d.stripes.filter fun p => !(runHas rs p.1),
                             memStat := { d.memStat with stripeFills := d.memStat.stripeFills + mine.length } }) s

/-- Whether a tun has an open stripe (R186 condition 4). -/
def State.stripesOpen (s : State) (u : Nat) : Bool :=
  (List.range 8).any fun n => (s.die n).stripes.any fun p => runHas (s.runsOf u) p.1

/-- Whether a read of a place is a degraded read (R171). -/
def State.degraded (s : State) (l : Loc) : Bool :=
  let g := s.group l.pg
  g.state == .rebuilding && g.failed == some l.pos && decide (g.rebuilt ≤ l.granule) && !(g.early.contains l.granule) && l.cls != 0

/-- The places of a write that wait for their granule to be rebuilt (R172). -/
def State.heldWrite (s : State) (u n off len : Nat) : List Loc :=
  (List.range (ceilDiv (off + len) 256 - off / 256)).filterMap fun i =>
    match s.cellarAt u n (256 * (off / 256 + i)) with
    | some l => if s.degraded l then some l else none
    | none => none

/-- A write that waits: its granule is demanded of the rebuilder, and CDS_STALL_CELLAR counts the wait, whose cycles are a free
value (R172; log entry 116). -/
def State.holdWrite (s : State) (n u : Nat) (ls : List Loc) : State :=
  let s := ls.foldl (fun (s : State) l =>
    let g := s.group l.pg
    if g.demand.contains l.granule then s else s.setGroup l.pg { g with demand := g.demand ++ [l.granule] }) s
  let c := s.ctx n u
  s.draw.setCtx n u { c with stall := { c.stall with cellar := c.stall.cellar + Config.openNat 23 s.draws } }

/-- The writes that wait for their granule, tried again in their order (R172). -/
def State.retryWrites (s : State) : State :=
  s.cellar.waiting.foldl (fun (s : State) w =>
    if (s.heldWrite w.1 w.2.1 w.2.2.1 w.2.2.2.length).isEmpty then s.cellarWrite w.1 w.2.1 w.2.2.1 w.2.2.2
    else { s with cellar := { s.cellar with waiting := s.cellar.waiting ++ [w] } })
    { s with cellar := { s.cellar with waiting := [] } }

/-- A write that has come over a link to the die n that owns the cellar, from die m: it waits where a lost unit of it is not yet
rebuilt (R172). -/
def State.remoteWrite (s : State) (m u n off : Nat) (bs : Bytes) : State :=
  let held := s.heldWrite u n off bs.length
  if held.isEmpty then s.cellarWrite u n off bs
  else
    let s := if m < 8 then s.holdWrite m u held else s
    { s with cellar := { s.cellar with waiting := s.cellar.waiting ++ [(u, n, off, bs)] } }

/-- The interfaces that hold the 256-byte units of a range, one for each unit (R49). -/
def State.unitsAt (s : State) (u n off len : Nat) : List Nat :=
  (List.range (ceilDiv (off + len) 256 - off / 256)).filterMap fun i =>
    (s.cellarAt u n (256 * (off / 256 + i))).map fun l => 12 * l.pg + l.pos

/-- The place of line i of a side. -/
def lineAt (addr : Nat) (pitch : Int) (i : Nat) : Nat := ((addr : Int) + pitch * i).toNat

/-- The interfaces of the units that the outstanding launches and the blocks in flight ask for, one for each unit (R49). -/
def State.unitsAsked (s : State) : List Nat :=
  s.dies.flatMap fun p =>
    (p.2.movs.flatMap fun j =>
      let d := j.desc
      if mdSrcLvl d = 1 ∧ !j.void then
        (List.range (mdLines d)).flatMap fun i => s.unitsAt j.tun (mdSrcDie d) (lineAt (mdSrcAddr d) (mdSrcPitch d) i) (mdLen d)
      else [])
    ++ p.2.ctxs.flatMap fun c => c.2.upd.inFlight.flatMap fun q =>
      let e := Tbl.get 0 c.2.upd.table (q.1 / 2 ^ 32)
      (if utKind e = 2 then [0, 1] else [(s.tun c.1).stepNow % 2]).flatMap fun g =>
        s.unitsAt c.1 p.1 (utKegAddr e g + q.1 % 2 ^ 32 * utBlockBytes e) (utBlockBytes e)

/-- Whether a read may meet the bound of 256 reads of an interface (R49): the outstanding launches and the blocks in flight ask
for more of its units than that, or its group is being rebuilt (DESIGN CHOICE, log entry 103). -/
def State.boundMet (s : State) (u n off len : Nat) : Bool :=
  let is := s.unitsAt u n off len
  (is.any fun i => (s.group (i / 12)).state == .rebuilding)
    || (decide (256 < is.length + s.unitsAsked.length) && is.any fun i => decide (256 < s.unitsAsked.count i))

/-- The cycles for which a mover's or the update engine's read of a range was held at the bound, a free value, counted on die m
(R49, R50; log entry 103). -/
def State.heldReads (s : State) (m u n off len : Nat) : State :=
  if s.boundMet u n off len then
    let c := s.ctx m u
    s.draw.setCtx m u { c with stall := { c.stall with cellar := c.stall.cellar + Config.openNat 19 s.draws } }
  else s

/-- A die's degraded reads counted for a range of units read (R171, R180). -/
def State.noteReads (s : State) (u n off len : Nat) : State :=
  let units := ceilDiv (off + len) 256 - off / 256
  let k := (List.range units).foldl (fun x i =>
    match s.cellarAt u n (256 * (off / 256 + i)) with
    | some l => if s.degraded l then x + 1 else x
    | none => x) 0
  if k = 0 then s
  else
    let d := s.die n
    s.setDie n { d with memStat := { d.memStat with degradedReads := d.memStat.degradedReads + k } }

end Sys2Proof.Machine
end

