-- ==== Sys2Proof/Machine/RackOps.lean ====
section
/-! DEFINITION. Racking and casks (R259 to R274): the coder and its code, segments and their headers, slots,
buffers and the spill limit, acknowledgements and the racking commit. -/

namespace Sys2Proof.Machine

/-! ### The difference code (R260) -/

/-- The 8-byte words of a run of bytes, the last padded with zeros. -/
def words8 : Nat → Bytes → List Bytes
  | 0, _ => []
  | n + 1, bs => ((bs ++ List.replicate 8 0).take 8) :: words8 n (bs.drop 8)

/-- One word that is not zero: its mask and its bytes that are not zero. -/
def codeWord (w : Bytes) : Bytes :=
  let nz := w.filter (· != 0)
  let m := ((List.range 8).zip w).foldl (fun x p => if p.2 = 0 then x else x + 2 ^ p.1) 0
  BitVec.ofNat 8 m :: nz

/-- The code of a sequence of words, with a run of zero words before them (0–255 held back). -/
def codeWords : Nat → List Bytes → Bytes
  | 0, [] => []
  | z, [] => [0, BitVec.ofNat 8 (z - 1)]
  | z, w :: ws =>
    if w.all (· == 0) then
      if z = 256 then [0, 255] ++ codeWords 1 ws else codeWords (z + 1) ws
    else (if z = 0 then [] else [0, BitVec.ofNat 8 (z - 1)]) ++ codeWord w ++ codeWords 0 ws

/-- The R260 code of bytes that are a whole number of words. -/
def rackCode (bs : Bytes) : Bytes := codeWords 0 (words8 (bs.length / 8) bs)

/-- The bytes a mask names put in their places. -/
def decodeWord (m : Nat) : Nat → Bytes → Bytes × Bytes
  | 0, bs => ([], bs)
  | n + 1, bs =>
    if m / 2 ^ (7 - n) % 2 = 1 then
      let r := decodeWord m n (bs.drop 1)
      (bs.headD 0 :: r.1, r.2)
    else
      let r := decodeWord m n bs
      (0 :: r.1, r.2)

/-- The words of a code (R260); fuel bounds the steps by the code's length. -/
def rackDecode : Nat → Bytes → Bytes
  | 0, _ => []
  | fuel + 1, bs =>
    match bs with
    | [] => []
    | b :: rest =>
      if b = 0 then List.replicate (8 * ((rest.headD 0).toNat + 1)) 0 ++ rackDecode fuel (rest.drop 1)
      else
        let r := decodeWord b.toNat 8 rest
        r.1 ++ rackDecode fuel r.2

/-! ### Segment headers (R261 to R263) -/

/-- The variable fields of a segment header. -/
structure RkFields where
  type : Nat
  tun : Nat := 0
  rank : Nat := 0
  die : Nat := 0
  vblk : Bool := false
  emb : Bool := false
  step : Nat := 0
  attempt : Nat := 0
  seq : Nat := 0
  tensor : Nat := 0
  first : Nat := 0
  count : Nat := 0
  len : Nat := 0
  deriving DecidableEq, Repr

/-- Header bits [255:0]. -/
def RkFields.low (f : RkFields) : Nat :=
  f.type % 16 + f.tun % 32 * 2 ^ 4 + f.rank % 64 * 2 ^ 9 + f.die % 8 * 2 ^ 15 + (if f.vblk then 2 ^ 18 else 0)
    + (if f.emb then 2 ^ 19 else 0) + f.step % 2 ^ 48 * 2 ^ 32 + f.attempt % 2 ^ 16 * 2 ^ 80
    + f.seq % 2 ^ 32 * 2 ^ 96 + f.tensor % 2 ^ 32 * 2 ^ 128 + f.first % 2 ^ 40 * 2 ^ 160
    + f.count % 2 ^ 24 * 2 ^ 200 + f.len % 2 ^ 16 * 2 ^ 224

/-- The fields of a header. -/
def RkFields.ofHeader (h : BitVec 512) : RkFields :=
  { type := field h 0 4, tun := field h 4 5, rank := field h 9 6, die := field h 15 3, vblk := flag h 18,
    emb := flag h 19, step := field h 32 48, attempt := field h 80 16, seq := field h 96 32,
    tensor := field h 128 32, first := field h 160 40, count := field h 200 24, len := field h 224 16 }

/-- The XTS tweak of a segment (R263). -/
def RkFields.tweak (f : RkFields) : Nat :=
  if f.type < 8 then
    f.type * 2 ^ 105 + f.rank * 2 ^ 99 + f.die * 2 ^ 96 + f.step * 2 ^ 48 + f.attempt * 2 ^ 32 + f.seq
  else f.type * 2 ^ 124 + f.rank * 2 ^ 118 + f.die * 2 ^ 115 + f.step * 2 ^ 67 + f.seq * 2 ^ 35 + f.first / 65472

/-- A payload encrypted; an empty or shorter-than-a-block payload is padded by no rule of the spec, and one
below 16 bytes is carried in one zero-padded block. -/
def sealPayload (key : Bytes) (f : RkFields) (plain : Bytes) : Bytes :=
  if plain.isEmpty then []
  else xtsEnc (key.take 32) (key.drop 32) f.tweak (if plain.length < 16 then plain ++ List.replicate (16 - plain.length) 0 else plain)

/-- A payload decrypted. -/
def openPayload (key : Bytes) (f : RkFields) (ct : Bytes) : Bytes :=
  if ct.isEmpty then [] else (xtsDec (key.take 32) (key.drop 32) f.tweak ct).take f.len

/-- RK_TAG: KMAC256 over header bytes 0–31 and the ciphertext (R263). -/
def rackTag (key : Bytes) (f : RkFields) (ct : Bytes) : Bytes := kmac256 key (bytesOfNat 32 f.low ++ ct) 16

/-- A segment with its tag. -/
def sealSegment (key : Bytes) (f : RkFields) (plain : Bytes) : RackSeg :=
  let f := { f with len := plain.length }
  let ct := sealPayload key f plain
  { header := BitVec.ofNat 512 (f.low + Bytes.toNat (rackTag key f ct) * 2 ^ 256), payload := ct }

/-- Whether an object's tag checks under a key. -/
def tagOk (key : Bytes) (o : RestoreObject) : Bool :=
  let f := RkFields.ofHeader o.header
  field o.header 256 128 == Bytes.toNat (rackTag key f o.payload)

/-- An evaluation segment arrives at a tun's input tap (R274): its header and plaintext under the import key that its tag checks under; one
that none checks is not delivered (R375; DEDUCED, log entry 125). -/
def Tun.importSeg (t : Tun) (bs : Bytes) : Tun :=
  let o : RestoreObject := { header := BitVec.ofNat 512 (Bytes.toNat (bs.take 64)), payload := bs.drop 64 }
  match t.imports.find? fun k => tagOk k o with
  | some k => { t with evalIn := t.evalIn ++ [bs.take 64 ++ openPayload k (RkFields.ofHeader o.header) o.payload] }
  | none => t

/-- A tap in force that is enabled (R338). -/
def tapOn (o : Option (BitVec 1024)) : Option (BitVec 1024) :=
  match o with
  | some e => if flag e 9 then some e else none
  | none => none

/-! ### Slots, buffers and the spill limit (R264) -/

/-- The racking slots a tun holds. -/
def Tun.slotsHeld (t : Tun) : Nat := (t.rack.segs.filter fun x => x.place == .slot).length

/-- The segments of a die in its racking buffer, and their bytes. -/
def Tun.buffered (t : Tun) (n : Nat) : List RackSeg := t.rack.segs.filter fun x => x.place == .buffer n

/-- The units that a segment of the given bytes takes in a racking buffer. -/
def spillUnits (bytes : Nat) : Nat := ceilDiv (64 + bytes) 256

/-- Cellar traffic that a segment of the given bytes causes as it is written to the buffer: 1,024 bytes a unit (R264). -/
def spillTraffic (bytes : Nat) : Nat := spillUnits bytes * 1024

/-- Cellar traffic that a segment of the given bytes causes as it is read back: 256 bytes a unit (R264). -/
def readTraffic (bytes : Nat) : Nat := spillUnits bytes * 256

/-- The spill bytes a die may cause in a bushel: 7.68 GB/s over 1,024 µs (R264). -/
def spillLimit : Nat := 7864320

/-- The spill bytes of the bushel that a tun has left on a die, and all it may cause: the die's limit is shared as the command
slots of the cellar are, a sealed tun's own share and the remainder for the pooled tuns together (R264, R379; DESIGN CHOICE,
log entry 121). -/
def State.spillRoom (s : State) (n u : Nat) : Nat :=
  let share (v : Nat) : Nat := spillLimit * field (s.lay v) 145 7 / 64
  let fixed := (List.range 32).filter fun v => tlEn (s.lay v) && tlSealed (s.lay v) && (s.diesOf v).contains n
  if fixed.contains u then share u - Tbl.get 0 (s.tun u).rack.spill n
  else
    let used := s.tuns.foldl (fun x p => if fixed.contains p.1 then x else x + Tbl.get 0 p.2.rack.spill n) 0
    spillLimit - fixed.foldl (fun x v => x + share v) 0 - used

/-- Where a segment of a die goes as it is handed over: a racking slot; the die's buffer, when every slot is held or an earlier
segment of the die is there; or, with the spill limit reached or the buffer full, it stays with the coder (R264). -/
def State.rackPlace (s : State) (n u bytes : Nat) : RackPlace :=
  let t := s.tun u
  let b := t.buffered n
  if t.rack.segs.any fun x => x.place == .coder n then .coder n
  else if b.isEmpty && !(t.rack.segs.any fun x => x.place == .hub) && decide (t.slotsHeld < tlRackSlots (s.lay u)) then .slot
  else if decide (spillTraffic bytes ≤ s.spillRoom n u)
      && decide ((b.foldl (fun x y => x + 256 * spillUnits y.payload.length) 0) + 256 * spillUnits bytes ≤ tlRackBuf (s.lay u)) then .buffer n
  else .coder n

/-- Whether a die's coder can hand over a segment of the given bytes (R264). -/
def State.coderFree (s : State) (n u bytes : Nat) : Bool := s.rackPlace n u bytes != .coder n

/-- Whether a segment goes to its ring in host memory: its tap is enabled and names no endpoint (R338, R341). -/
def Tun.overCxl (t : Tun) (x : RackSeg) : Bool :=
  let ty := (RkFields.ofHeader x.header).type
  match tapOn (if x.evaluation then t.evalTap else if ty < 8 then t.rackTap else t.caskTap) with
  | some e => !(flag e 10)
  | none => false

/-- The ring a segment goes to: 4 racking, 5 cask, 6 evaluation, the kinds of their taps. -/
def RackSeg.ringOf (x : RackSeg) : Nat :=
  if x.evaluation then 6 else if (RkFields.ofHeader x.header).type < 8 then 4 else 5

/-- The ring of a tap kind. -/
def Tun.ring (t : Tun) (k : Nat) : Ring :=
  match k with
  | 4 => t.rackRing
  | 5 => t.caskRing
  | _ => t.evalRing

/-- The ring of a tap kind replaced. -/
def Tun.setRing (t : Tun) (k : Nat) (r : Ring) : Tun :=
  match k with
  | 4 => { t with rackRing := r }
  | 5 => { t with caskRing := r }
  | _ => { t with evalRing := r }

/-- The tap of a kind in force. -/
def Tun.tapOf (t : Tun) (k : Nat) : Option (BitVec 1024) :=
  tapOn (match k with
    | 4 => t.rackTap
    | 5 => t.caskTap
    | _ => t.evalTap)

/-- The slot size of these rings. -/
def bulkSlot : Nat := 65536

/-- Segments in slots written into their rings in order while the link is up and room is left (R340). A segment's number
is that of its ring slot. -/
def fillRings (t : Tun) (now : Nat) : List RackSeg → List RackSeg × Tun
  | [] => ([], t)
  | x :: xs =>
    let k := x.ringOf
    let r := t.ring k
    let size := match t.tapOf k with
      | some e => areaSize e 0
      | none => 0
    if x.place == .slot && x.sentAt.isNone && t.overCxl x && decide (r.devIdx + bulkSlot ≤ r.hostIdx + size) then
      let y := fillRings (t.setRing k { r with devIdx := r.devIdx + bulkSlot, seq := r.seq + 1 }) now xs
      ({ x with sentAt := some now, mac := none, seq := r.devIdx / bulkSlot, numbered := true } :: y.1, y.2)
    else
      let y := fillRings t now xs
      (x :: y.1, y.2)

/-- A tun's rings filled. -/
def State.fillTunRings (s : State) (u : Nat) : State :=
  if s.host.linkUp then
    let t := s.tun u
    let r := fillRings t s.nowPs t.rack.segs
    s.setTun u { r.2 with rack := { r.2.rack with segs := r.1 } }
  else s

/-- A segment put at its place; one that goes to the buffer is counted with its traffic. -/
def Tun.placeRack (t : Tun) (n : Nat) (p : RackPlace) (x : RackSeg) : Tun :=
  let r := { t.rack with segs := t.rack.segs ++ [{ x with place := p }] }
  match p with
  | .buffer _ => { t with rack := { r with spill := Tbl.modify 0 r.spill n (· + spillTraffic x.payload.length) },
                          rackStat := { t.rackStat with spilled := t.rackStat.spilled + 1 } }
  | _ => { t with rack := r }

/-- A racking segment of a die handed to HD: into a slot, or into the die's buffer; or it waits with the coder (R264). -/
def State.handOver (s : State) (n u : Nat) (x : RackSeg) : State :=
  (s.setTun u ((s.tun u).placeRack n (s.rackPlace n u x.payload.length) x)).fillTunRings u

/-- A segment that HD forms itself, layout, abandon or commit: into a slot, or it waits for one. -/
def State.hubRack (s : State) (u : Nat) (x : RackSeg) : State :=
  let t := s.tun u
  let p : RackPlace := if (t.slotsHeld < tlRackSlots (s.lay u)) ∧ !(t.rack.segs.any fun y => y.place != .slot) then .slot else .hub
  (s.setTun u { t with rack := { t.rack with segs := t.rack.segs ++ [{ x with place := p }] } }).fillTunRings u

/-- What the move of a die's waiting racking segments has left: slots free, spill bytes left in the bushel and caused, bytes in
the buffer, whether a segment in the buffer or at the coder must stay, and how many were newly written to the buffer. -/
structure RackRoom where
  free : Nat
  room : Nat
  held : Nat
  caused : Nat := 0
  stays : Bool := false
  stuck : Bool := false
  wrote : Nat := 0
  deriving DecidableEq, Repr

/-- Spill traffic caused. -/
def RackRoom.spend (r : RackRoom) (x : Nat) : RackRoom := { r with room := r.room - x, caused := r.caused + x }

/-- One racking segment moved on for die n, with a buffer of size bytes (R264). -/
def RackRoom.move (r : RackRoom) (n size : Nat) (x : RackSeg) : RackSeg × RackRoom :=
  let len := x.payload.length
  let bytes := 256 * spillUnits len
  match x.place with
  | .slot => (x, r)
  | .hub => if r.free = 0 then (x, r) else ({ x with place := .slot }, { r with free := r.free - 1 })
  | .buffer m =>
    if m ≠ n then (x, r)
    else if r.stays ∨ r.free = 0 ∨ r.room < readTraffic len then (x, { r with stays := true })
    else ({ x with place := .slot }, ({ r with free := r.free - 1, held := r.held - bytes } : RackRoom).spend (readTraffic len))
  | .coder m =>
    if m ≠ n ∨ r.stuck then (x, r)
    else if r.held = 0 ∧ r.free ≠ 0 then ({ x with place := .slot }, { r with free := r.free - 1 })
    else if spillTraffic len ≤ r.room ∧ r.held + bytes ≤ size then
      ({ x with place := .buffer n }, ({ r with held := r.held + bytes, wrote := r.wrote + 1 } : RackRoom).spend (spillTraffic len))
    else (x, { r with stuck := true })

/-- The racking segments in their order, moved on for die n: HD's own and those of the die's buffer into slots as these are free
and the spill limit allows the reading, those its coder holds into the buffer as it has room (R264). -/
def moveRack (n size : Nat) (r : RackRoom) : List RackSeg → List RackSeg × RackRoom
  | [] => ([], r)
  | x :: xs =>
    let y := r.move n size x
    let z := moveRack n size y.2 xs
    (y.1 :: z.1, z.2)

/-- The bytes of a die's racking buffer in use. -/
def Tun.bufferBytes (t : Tun) (n : Nat) : Nat := (t.buffered n).foldl (fun x y => x + 256 * spillUnits y.payload.length) 0

/-- HD takes a die's buffered segments in order as slots free, and those its coder holds go on (R264). Where a cellar interface
has failed, how many of the buffer's units are read degraded is a free value: the place of the ring in its run is not given
(log entry 122). -/
def State.takeBuffered (s : State) (n u : Nat) : State :=
  let t := s.tun u
  let r := moveRack n (tlRackBuf (s.lay u)) { free := tlRackSlots (s.lay u) - t.slotsHeld, room := s.spillRoom n u, held := t.bufferBytes n }
    t.rack.segs
  let s := s.setTun u { t with
    rack := { t.rack with segs := r.1, spill := Tbl.modify 0 t.rack.spill n (· + r.2.caused) },
    rackStat := { t.rackStat with spilled := t.rackStat.spilled + r.2.wrote } }
  let s := if (t.buffered n).isEmpty || (List.range 4).all (fun g => (s.group g).state != .rebuilding) then s
    else
      let d := s.die n
      s.draw.setDie n { d with memStat := { d.memStat with degradedReads := d.memStat.degradedReads + Config.openNat 22 s.draws } }
  s.fillTunRings u

/-! ### The coder (R259, R264) -/

/-- A die's coder of a tun. -/
def State.coder (s : State) (n u : Nat) : Coder := (s.ctx n u).upd.coder

/-- A die's coder of a tun replaced. -/
def State.setCoder (s : State) (n u : Nat) (k : Coder) : State :=
  let c := s.ctx n u
  s.setCtx n u { c with upd := { c.upd with coder := k } }

/-- A difference or factor segment of a die numbered, sealed, counted and handed over (R261, R262, R267). -/
def State.sendRack (s : State) (n u : Nat) (f : RkFields) (plain : Bytes) : State :=
  let t := s.tun u
  let k := s.coder n u
  let f := { f with tun := u, rank := t.rank, die := n, step := t.stepNow, attempt := t.step.attempt, seq := k.seqData,
                    len := plain.length }
  let x := sealSegment t.rackKey f plain
  let s := s.setCoder n u { k with seqData := k.seqData + 1 }
  let t := s.tun u
  let emb := f.emb
  let s := s.setTun u { t with rack := { t.rack with
    counts := Tbl.modify 0 t.rack.counts n (· + 1),
    embCounts := if emb then Tbl.modify 0 t.rack.embCounts n (· + 1) else t.rack.embCounts,
    embHeaders := if emb then Tbl.modify [] t.rack.embHeaders n (· ++ bytesOfNat 64 x.header.toNat) else t.rack.embHeaders } }
  s.handOver n u x

/-- The coder's open segment closed and handed to HD (R264): its words are coded, or, where every word is zero,
the segment states so with an empty payload (R262). -/
def State.closeCoder (s : State) (n u : Nat) : State :=
  let k := s.coder n u
  if k.isOpen then
    let e := Tbl.get 0 (s.ctx n u).upd.table k.entry
    let v := utKind e != 0
    let plain := if k.payload.all (· == 0) then [] else rackCode k.payload
    let s := s.setCoder n u { k with isOpen := false, payload := [], count := 0 }
    s.sendRack n u { type := 1, vblk := v, emb := utKind e == 2, tensor := utTensor e, first := k.first,
                     count := k.count } plain
  else s

/-- The XOR of a block handed to the coder (R190 step 6, R259): first is the element index of its first
record. The segment is closed before a block that does not follow it, and when its code would pass 65,472
bytes; it is closed after the entry's last block. -/
def State.codeBlock (s : State) (n u entry first : Nat) (xor : Bytes) (last : Bool) : State :=
  let k := s.coder n u
  let follows := k.isOpen && k.entry == entry && k.first + 64 * k.count == first
  let fits := decide ((rackCode (k.payload ++ xor)).length ≤ 65472)
  let s := if k.isOpen && !(follows && fits) then s.closeCoder n u else s
  let k := s.coder n u
  let k' : Coder :=
    if k.isOpen then { k with count := k.count + 1, payload := k.payload ++ xor }
    else { k with isOpen := true, entry := entry, first := first, count := 1, payload := xor }
  let s := s.setCoder n u k'
  if last then s.closeCoder n u else s

/-- A range of blocks declared unchanged (R259, R262): segments of empty payload. -/
def State.codeUnchanged (s : State) (n u entry first : Nat) : Nat → Nat → State
  | 0, _ => s
  | _, 0 => s
  | fuel + 1, blocks =>
    let e := Tbl.get 0 (s.ctx n u).upd.table entry
    let c := min blocks 16777215
    let s := (s.closeCoder n u).sendRack n u
      { type := 1, vblk := utKind e != 0, emb := utKind e == 2, tensor := utTensor e, first := first, count := c } []
    s.codeUnchanged n u entry (first + 64 * c) fuel (blocks - c)

/-! ### The racking commit (R266 to R268) -/

/-- The racking commit record of step t (R267); a is the loop-count entry GV_LC for the next step, 0 where steering
is off. -/
def Tun.commitRecord (t : Tun) (step : Nat) (updated layout hist : Bool) (a : Nat) : BitVec 6144 :=
  let r := t.rack
  let st := t.step
  let segs (x : Tbl Nat) : Nat := (List.range 8).foldl (fun y n => y + (Tbl.get 0 x n % 2 ^ 32) * 2 ^ (32 * n)) 0
  let heads := (List.range 8).flatMap fun n => Tbl.get [] r.embHeaders n
  let digest := sha3_512 heads
  let grav := (List.range 64).foldl (fun y g =>
    let e := Tbl.get {} t.grav g
    y + (e.nbar.toNat + e.dbar.toNat * 2 ^ 32) * 2 ^ (64 * g)) 0
  BitVec.ofNat 6144 (step % 2 ^ 48 + (step + 1) % 2 * 2 ^ 48 + (if updated then 2 ^ 49 else 0)
    + (if layout then 2 ^ 50 else 0) + (if hist then 2 ^ 51 else 0) + st.k % 2 ^ 32 * 2 ^ 64
    + st.lsScale.toNat * 2 ^ 96 + st.lsClean % 2 ^ 32 * 2 ^ 128 + a % 2 ^ 16 * 2 ^ 160
    + segs r.counts * 2 ^ 192 + segs r.embCounts * 2 ^ 448 + Bytes.toNat digest * 2 ^ 704
    + Bytes.toNat r.chain * 2 ^ 1216 + grav * 2 ^ 2048)

/-- Whether every difference, factor, history and layout segment of a step is acknowledged: none is still
held (R266). -/
def Tun.stepDurable (t : Tun) (step : Nat) : Bool :=
  !(t.rack.segs.any fun x =>
    let f := RkFields.ofHeader x.header
    decide (f.type < 6) && decide (f.type ≠ 5) && f.step == step)

/-- Whether racking of step t stands as R2 and condition 7 of R186 test it: the receiver holds its commit, or t
is the step the tun was restored to. -/
def Tun.stands (t : Tun) (step : Nat) : Bool := decide (step ≤ t.rackStat.stood) || decide (step ≤ t.restoredTo)

/-- An acknowledged racking, cask or evaluation segment (R266, R270, R282). -/
def State.ackOne (s : State) (u : Nat) (x : RackSeg) : State :=
  let t := s.tun u
  let f := RkFields.ofHeader x.header
  let r := t.rackStat
  let r : RackStat :=
    if f.type < 8 then { r with segments := r.segments + 1, bytes := r.bytes + f.len }
    else if f.type = 8 then { r with caskBytes := r.caskBytes + f.len }
    else r
  let r : RackStat :=
    if f.type = 6 then { r with stood := max r.stood f.step }
    else if f.type = 9 && !x.evaluation then { r with caskPieces := r.caskPieces + 1 } else r
  let mine (p : CaskPiece) : Bool := p.die == f.die && p.piece == f.seq && p.base == f.step && p.evaluation == x.evaluation
  let pieces := if f.type = 8 ∨ f.type = 10 then
      t.rack.pieces.map fun p => if mine p then { p with unacked := p.unacked - 1 } else p
    else t.rack.pieces
  let t := { t with rackStat := r, rack := { t.rack with segs := t.rack.segs.filter (· != x), pieces := pieces } }
  s.setTun u (if t.stands (t.stepNow - 1) then t.endLag s.nowPs else t)

/-- A spoiled attempt's unsent segments discarded, and the abandon segment sent (R268). -/
def State.abandonRack (s : State) (u : Nat) : State :=
  let t := s.tun u
  let step := t.stepNow
  let gone (x : RackSeg) : Bool :=
    let f := RkFields.ofHeader x.header
    decide (f.type < 5) && f.step == step && f.attempt == t.step.attempt && x.sentAt.isNone && x.out == 0
  let f : RkFields := { type := 5, tun := u, rank := t.rank, step := step, attempt := t.step.attempt }
  let x := sealSegment t.rackKey f []
  let t := { t with
    rack := { t.rack with segs := t.rack.segs.filter (fun x => !(gone x)), counts := [], embCounts := [], embHeaders := [] },
    rackStat := { t.rackStat with abandoned := t.rackStat.abandoned + 1 } }
  (s.diesOf u).foldl (fun s n => s.setCoder n u { (s.coder n u) with isOpen := false, payload := [], count := 0, seqData := 0 })
    ((s.setTun u t).hubRack u x)

/-- History segments of a step from every die: the statistics slots as they stand after the push (R262). -/
def State.sendHistory (s : State) (u : Nat) : State :=
  let t := s.tun u
  (s.diesOf u).foldl (fun s n =>
    let c := s.ctx n u
    let body := (List.range 512).flatMap fun i =>
      let x := Tbl.get ({} : StatSlot) c.stats i
      (List.range 16).flatMap (fun h => bytesOfNat 4 (Tbl.get 0 x.hist h).toNat)
        ++ [BitVec.ofNat 8 x.valid, BitVec.ofNat 8 x.head, 0, 0]
    let f : RkFields := { type := 3, tun := u, rank := t.rank, die := n, step := t.stepNow, attempt := t.step.attempt }
    s.handOver n u (sealSegment t.rackKey f body)) s

end Sys2Proof.Machine
end

