-- ==== Sys2Proof/Machine/Granary.lean ====
section
/-! DEFINITION. Granary pages (R176, R177, R343): the granary map, a page's key, generation and tag, and what is posted for a
page written. -/

namespace Sys2Proof.Machine

/-- The granary map entries in use (R343). -/
def Tun.granary (t : Tun) : List (BitVec 256) := t.granMap

/-- The map entry that holds a tun-local granary address. -/
def Tun.granaryAt (t : Tun) (a : Nat) : Option (BitVec 256) :=
  t.granary.find? fun e => decide (field e 0 64 ≤ a) && decide (a < field e 0 64 + 4096 * field e 128 40)

/-- The generations of the private pages written move on by one (R176). -/
def Tun.bumpPages (t : Tun) (pages : List Nat) : Tun :=
  let own := pages.filter fun g => match t.granaryAt (4096 * g) with
    | some e => !(flag e 168)
    | none => false
  { t with generations := own.foldl (fun m g => Tbl.modify 0 m g (· + 1)) t.generations }

/-- The generation a page's tag must have: the table's for a private page, the step for a shared one (R176). -/
def Tun.pageGeneration (t : Tun) (g : Nat) : Nat :=
  match t.granaryAt (4096 * g) with
  | some e => if flag e 168 then t.stepNow else Tbl.get 0 t.generations g
  | none => 0

/-- The key of a page: granary key or exchange key. -/
def Tun.pageKey (t : Tun) (serial g : Nat) : Bytes :=
  match t.granaryAt (4096 * g) with
  | some e => if flag e 168 then t.exchangeKey else t.granaryKey serial
  | none => []

/-- The tag of a page (R176). -/
def pageTag (key : Bytes) (tun page gen : Nat) (ct : Bytes) : Bytes :=
  kmac256 key (bytesOfNat 8 tun ++ bytesOfNat 8 (4096 * page) ++ bytesOfNat 8 gen ++ ct) 16

/-- Whether a page and its tag record check (R176). -/
def State.pageOk (s : State) (u g : Nat) (ct : Bytes) (tagRec : BitVec 256) : Bool :=
  let t := s.tun u
  field tagRec 128 64 == t.pageGeneration g
    && field tagRec 0 128 == Bytes.toNat (pageTag (t.pageKey s.host.serial g) u g (t.pageGeneration g) ct)

/-- A page's plaintext. -/
def State.pagePlain (s : State) (u g : Nat) (ct : Bytes) : Bytes :=
  let k := (s.tun u).pageKey s.host.serial g
  xtsDec (k.take 32) (k.drop 32) g ct

/-- The host address of a tun-local granary page, and that of its tag record (R176, R177, R343). -/
def Tun.hostPage (t : Tun) (g : Nat) : Nat × Nat :=
  match t.granaryAt (4096 * g) with
  | some e => (field e 64 64 + (4096 * g - field e 0 64), field e 192 64 + 32 * ((4096 * g - field e 0 64) / 4096))
  | none => (0, 0)

/-- A page encrypted, tagged and posted at a generation (R176). -/
def State.pagePost (s : State) (u g : Nat) (plain : Bytes) : PageOut :=
  let t := s.tun u
  let k := t.pageKey s.host.serial g
  let ct := xtsEnc (k.take 32) (k.drop 32) g plain
  let gen := t.pageGeneration g
  { host := (t.hostPage g).1, page := ct, tagAt := (t.hostPage g).2,
    tag := BitVec.ofNat 256 (Bytes.toNat (pageTag k u g gen ct) % 2 ^ 128 + gen % 2 ^ 64 * 2 ^ 128) }

end Sys2Proof.Machine
end

