-- ==== Sys2Proof/Machine/UpdateOps.lean ====
section
/-! DEFINITION. The update engine over the device's state (R189 to R206, R214): what a reduced segment does to
the blocks it covers, the completion of a block, the fold of a sketch segment, freezing copies and granary
forwarding. -/

namespace Sys2Proof.Machine

/-! ### Reduction arithmetic (R234, R235) -/

/-- An FP32 result rounded by a mode, IEEE overflow (R234). -/
def f32By (m : Rnd) (v : Val) : Word32 := BitVec.ofNat 32 (Fmt.conv .fp32 m true v).code

/-- K_c: the low 64 bits of SHA3-512 over the job seed, 0xFF and the collective number, and, for a sketch, the
tensor id (R235). -/
def collKey (seed : Bytes) (c : Nat) (tensor : Option Nat) : Nat :=
  low64 (sha3_512 (seed ++ [0xFF] ++ bytesOfNat 2 c ++ (match tensor with
    | some x => bytesOfNat 4 x
    | none => [])))

/-- The random word of addition k of element e in step t (R235). -/
def collWord (key t e k : Nat) : Nat :=
  (mix64 (mix64 (BitVec.ofNat 64 key ^^^ BitVec.ofNat 64 (t % 2 ^ 24 * 2 ^ 40 + e)) ^^^ BitVec.ofNat 64 k)).toNat % 65536

/-- Partials added in order (R234 step 3): the first widened exactly, each later one rounded once. -/
def addPartials (long : Bool) (key t e : Nat) : Nat → Word32 → List Word32 → Word32
  | _, acc, [] => acc
  | k, acc, x :: xs =>
    let m := if long then Rnd.stochastic (collWord key t e k) else Rnd.nearest
    addPartials long key t e (k + 1) (f32By m ((Val.of32 acc).add (Val.of32 x))) xs

/-- The sum of an element's partials, in order. -/
def sumPartials (long : Bool) (key t e : Nat) : List Word32 → Word32
  | [] => 0
  | x :: xs => addPartials long key t e 1 (flush32 x) (xs.map flush32)

/-! ### Entries and blocks -/

/-- The update context of a tun on a die. -/
def State.upd (s : State) (n u : Nat) : UpdCtx := (s.ctx n u).upd

/-- The update context of a tun on a die replaced. -/
def State.setUpd (s : State) (n u : Nat) (x : UpdCtx) : State := s.setCtx n u { s.ctx n u with upd := x }

/-- The columns of a tensor's sketch and its rows (R198, R225). -/
def tensorDims (t : BitVec 256) : List Nat := (List.range (field t 35 2 + 1)).map fun i => field t (64 + 32 * i) 32

/-- The rows M of a tensor of C columns. -/
def tensorRows (t : BitVec 256) (cols : Nat) : Nat := (tensorDims t).foldl (· * ·) 1 / max cols 1

/-- The bytes of block b of an entry in keg g, at its place in the owning die's cellar. -/
def State.blockAddr (_s : State) (e : BitVec 512) (g b : Nat) : Nat := utKegAddr e g + b * utBlockBytes e

/-- A block read from a keg. -/
def State.readBlock (s : State) (n u : Nat) (e : BitVec 512) (g b : Nat) : Bytes :=
  s.cellarBytes u n (s.blockAddr e g b) (utBlockBytes e)

/-- The keg that held the current copy of an embedding block when step bung was the committed one: the larger
V_WRITTEN not above it, the even copy on a tie (R204). -/
def State.copyAt (s : State) (n u : Nat) (e : BitVec 512) (b bung : Nat) : Nat :=
  let w0 := (Block.ofBytes (s.readBlock n u e 0 b)).written
  let w1 := (Block.ofBytes (s.readBlock n u e 1 b)).written
  if bung < w0 then 1
  else if bung < w1 then 0
  else if w0 < w1 then 1 else 0

/-- The keg that holds the current copy of an embedding block (R204). -/
def State.currentKeg (s : State) (n u : Nat) (e : BitVec 512) (b : Nat) : Nat := s.copyAt n u e b (s.tun u).bung.step

/-- The keg a step reads a block of an entry from: keg t mod 2, or the current copy of an embedding row. -/
def State.readKeg (s : State) (n u : Nat) (e : BitVec 512) (b : Nat) : Nat :=
  if utKind e = 2 then s.currentKeg n u e b else (s.tun u).stepNow % 2

/-- The column of its row at which a segment of an embedding entry begins: 0, but where it holds a part of one row (log entry 120). -/
def partCol (e : BitVec 512) (g : GradSegment) : Nat := if g.rows.length = 1 then g.first % max (utCols e) 1 else 0

/-- The record blocks of an entry that a segment covers: the blocks of its element range, or of the rows it
names. -/
def segBlocks (e : BitVec 512) (g : GradSegment) : List Nat :=
  if utKind e = 2 then
    let per := utCols e / 64
    let row0 := utFirst e / max (utCols e) 1
    let rows := utCount e / max (utCols e) 1
    let from' := partCol e g
    let blocks := if g.rows.length = 1 then ceilDiv (min (utCols e) (from' + g.elems.length)) 64 - from' / 64 else per
    (g.rows.filter fun r => decide (row0 ≤ r) && decide (r < row0 + rows)).flatMap fun r =>
      (List.range blocks).map fun j => (r - row0) * per + from' / 64 + j
  else
    let lo := max g.first (utFirst e)
    let hi := min (g.first + g.elems.length) (utFirst e + utCount e)
    if hi ≤ lo then []
    else (List.range (ceilDiv (hi - utFirst e) 64 - (lo - utFirst e) / 64)).map fun i => (lo - utFirst e) / 64 + i

/-- The gradients of a block in a segment, one for each live record. -/
def segGrads (e : BitVec 512) (g : GradSegment) (b : Nat) : List Word32 :=
  if utKind e = 2 then
    let cols := max (utCols e) 1
    let row := utFirst e / cols + b / (cols / 64)
    let i := (g.rows.takeWhile (· != row)).length
    ((g.elems.drop (i * cols + b % (cols / 64) * 64 - partCol e g)).take 64)
  else (g.elems.drop (utFirst e + 64 * b - g.first)).take (utLive e b)

/-- The entries of a die's update table that a segment touches. -/
def UpdCtx.touched (x : UpdCtx) (g : GradSegment) : List (Nat × BitVec 512) :=
  x.table.filter fun p => utTensor p.2 == g.tensor && !((segBlocks p.2 g).isEmpty && !(utKind p.2 == 2 && g.last))

/-- The first block of an entry not yet done or in flight. -/
def UpdCtx.nextBlock (x : UpdCtx) (entry : Nat) (e : BitVec 512) : Nat :=
  ((List.range (entryBlocks e)).find? fun b =>
    !(x.done.contains (blockKey entry b)) && (x.inFlight.find (blockKey entry b)).isNone
      && !(x.forwards.any fun f => f.keys.contains (blockKey entry b))).getD (entryBlocks e)

/-- Blocks marked done. -/
def UpdCtx.markDone (x : UpdCtx) (keys : List Nat) : UpdCtx := { x with done := x.done ++ keys }

/-- The keys of the blocks of a staged segment that the engine has already taken (R191). -/
def UpdCtx.givenOf (x : UpdCtx) (g : GradSegment) : List Nat :=
  match x.begun.find? fun p => p.1 == g with
  | some p => p.2
  | none => []

/-- The blocks of an entry that a segment still has for the engine, ascending (R192). -/
def UpdCtx.left (x : UpdCtx) (g : GradSegment) (p : Nat × BitVec 512) : List Nat :=
  (segBlocks p.2 g).filter fun b => !((x.givenOf g).contains (blockKey p.1 b))

/-- Whether any element of a segment on some blocks of an entry is not ±0 (R148, R190 step 8). -/
def segLive (e : BitVec 512) (g : GradSegment) (bs : List Nat) : Bool :=
  bs.any fun b => (segGrads e g b).any fun w => !(Val.of32 w).isZero

/-- A segment's last result taken on an embedding entry: the entry's rows are all here once the last of each reducing member
is, due of them (R203, R237). -/
def UpdCtx.lastTaken (x : UpdCtx) (due entry : Nat) : UpdCtx :=
  let k := Tbl.get 0 x.lasts entry + 1
  let x := { x with lasts := x.lasts.put entry k }
  if due ≤ k then x.markDone [rowsKey entry] else x

/-! ### Watch and counters -/

/-- A watch record after a block of its bucket (R148, R190 step 8). -/
def UpdCtx.watchBlock (x : UpdCtx) (bucket : Nat) (live : Bool) : UpdCtx :=
  { x with watch := Tbl.modify {} x.watch bucket fun w => { w with seen := true, live := w.live || live } }

/-! ### A block computed (R190) -/

/-- The constants of an entry's coefficient set in the die's step. -/
def State.entryConst (s : State) (n u : Nat) (e : BitVec 512) : UpdConst :=
  updConst (Tbl.get 0 (s.tun u).coefs (utCoef e)) (s.ctx n u).stepRec

/-- Whether block b of a piece has been read for the cask: the last of its bytes in the payload is among those sent (R270, R272). -/
def CaskPiece.blockSent (p : CaskPiece) (b : Nat) : Bool :=
  let i := b - p.firstBlock
  let live := utLive p.ut b
  let k := min (64 * p.blocks) (utCount p.ut - 64 * p.firstBlock)
  let last := if p.evaluation then 2 * (64 * i + live)
    else match utKind p.ut with
      | 0 => 4 * k + 4 * (64 * i + live)
      | 2 => 9 * k + ceilDiv k 32 + 12 * (i / max (utCols p.ut / 64) 1 + 1)
      | _ => 9 * k + ceilDiv (64 * i + live) 32
  p.done || decide (last ≤ p.sent)

/-- Whether the step's write of a block of an entry overwrites what a piece is to read: of an embedding row, the copy that was current
at the piece's base step, in whatever step that is (R204); else the keg that the step before read (R270). -/
def State.overwrites (s : State) (n u entry b : Nat) (p : CaskPiece) : Bool :=
  let t := (s.tun u).stepNow
  let e := Tbl.get 0 (s.upd n u).table entry
  if utKind e = 2 then decide (p.base + 2 ≤ t) && s.copyAt n u e b p.base % 2 == (s.readKeg n u e b + 1) % 2 else p.base + 2 == t

/-- A late cask read (R270): the whole piece is taken before the step overwrites a block of it that the cask read has not reached. The
payload is what the reads on time would have given. How many cycles the update waits is a free value. -/
def State.lateRead (s : State) (n u entry b : Nat) (payload : CaskPiece → Bytes) : State :=
  let t := s.tun u
  let due (p : CaskPiece) : Bool := p.die == n && p.entry == entry && p.snapshot.isNone
    && s.overwrites n u entry b p && decide (p.firstBlock ≤ b) && decide (b < p.firstBlock + p.blocks) && !(p.blockSent b)
  if t.rack.pieces.any due then
    let s := s.setTun u { t with
      rack := { t.rack with pieces := t.rack.pieces.map fun p => if due p then { p with snapshot := some (payload p) } else p },
      rackStat := { t.rackStat with caskWait := t.rackStat.caskWait + Config.openNat 7 s.draws } }
    s.draw.event u 0x14 [t.stepNow, entry, b]
  else s

/-- A late read of the factor slot (R270): the pieces of the step before that are still to be sent are taken before the
fold overwrites the slot they hold. -/
def State.lateSlot (s : State) (n u entry : Nat) (payload : CaskPiece → Bytes) : State :=
  let t := s.tun u
  s.setTun u { t with rack := { t.rack with pieces := t.rack.pieces.map fun p =>
    if p.die == n && p.entry == entry && !p.done && p.snapshot.isNone && p.base + 2 == t.stepNow then
      { p with snapshot := some (payload p) } else p } }

/-- The payload of a cask or evaluation piece (R272, R274), read from keg g under its own entry, embedding rows from the copies
current at the base step. -/
def State.piecePayload (s : State) (n u g : Nat) (p : CaskPiece) : Bytes :=
  let e := p.ut
  let bs := (List.range p.blocks).map fun i =>
    let b := p.firstBlock + i
    (b, Block.ofBytes (s.readBlock n u e (if utKind e = 2 then s.copyAt n u e b p.base else g) b))
  let live (b : Nat) (l : List Rec) : List Rec := l.take (utLive e b)
  if p.evaluation then
    bs.flatMap fun x => (live x.1 x.2.recs).flatMap fun r => bytesOfNat 2 (Fmt.conv .bf16 .nearest false (Val.of32 r.w)).code
  else
    let w := bs.flatMap fun x => (live x.1 x.2.recs).flatMap fun r => bytesOfNat 4 r.w.toNat
    let m := bs.flatMap fun x => (live x.1 x.2.recs).flatMap fun r => bytesOfNat 4 r.m.toNat
    let codes := bs.flatMap fun x => (x.2.codes.take (utLive e x.1)).map (BitVec.ofNat 8)
    let scales := bs.flatMap fun x =>
      BitVec.ofNat 8 x.2.scale0 :: if 32 < utLive e x.1 then [BitVec.ofNat 8 x.2.scale1] else []
    match utKind e with
    | 0 =>
      let cols := max (utCols e) 1
      let f := (Tbl.get ({} : Factors) (s.upd n u).factors p.entry).slot g
      let first := utFirst e + 64 * p.firstBlock
      let count := min (64 * p.blocks) (utCount e - 64 * p.firstBlock)
      let r0 := first / cols
      let r1 := (first + count - 1) / cols
      let fr := (List.range (r1 + 1 - r0)).flatMap fun i => bytesOfNat 4 (Tbl.get 0 f.fr (r0 + i)).toNat
      let fc := (List.range cols).flatMap fun j => bytesOfNat 4 (Tbl.get 0 f.fc j).toNat
      w ++ m ++ bytesOfNat 4 f.fbar.toNat ++ bytesOfNat 4 f.folds ++ List.replicate 56 0 ++ fr ++ fc
    | 2 =>
      let per := max (utCols e / 64) 1
      let rows := (bs.filter fun x => x.1 % per == 0).flatMap fun x =>
        bytesOfNat 4 x.2.rowStep ++ bytesOfNat 6 x.2.written ++ [0, 0]
      w ++ m ++ codes ++ scales ++ rows
    | _ => w ++ m ++ codes ++ scales

/-- The reads of a block that an update makes (R49, R171, R204): the copy it reads, or both copies of an embedding's block. -/
def State.noteBlock (s : State) (n u : Nat) (e : BitVec 512) (b : Nat) : State :=
  (if utKind e = 2 then [0, 1] else [(s.tun u).stepNow % 2]).foldl (fun (s : State) g =>
    let a := s.blockAddr e g b
    (s.noteReads u n a (utBlockBytes e)).heldReads n u n a (utBlockBytes e)) s

/-- One block of an entry updated by the engine (R190 steps 2 to 8): the new bytes go in flight, their
difference to the coder, its squares to the sum buffer. -/
def State.updateBlock (s : State) (n u entry b : Nat) (gs : List Word32) (last : Bool) : State :=
  let e := Tbl.get 0 (s.upd n u).table entry
  let s := s.lateRead n u entry b (s.piecePayload n u ((s.tun u).stepNow % 2 + 1))
  let s := s.noteBlock n u e b
  let t := (s.tun u).stepNow
  let k := s.entryConst n u e
  let old := s.readBlock n u e (s.readKeg n u e b) b
  let ob := Block.ofBytes old
  let x := s.upd n u
  let f := Tbl.get ({} : Factors) x.factors entry
  let o : BlockOut :=
    if utKind e = 0 then updateM k f t (utFirst e + 64 * b) (max (utCols e) 1) ob gs
    else if utKind e = 2 then
      let o := updateV k (ob.rowStep + 1) f ob gs
      { o with block := { o.block with rowStep := ob.rowStep + 1, written := t } }
    else updateV k k.k f ob gs
  let new := o.block.toBytes (utKind e != 0)
  let bad := utKind e != 0 && ob.badScale
  let x := { x with inFlight := x.inFlight.put (blockKey entry b) new,
                    factors := if utKind e = 0 then x.factors.put entry o.factors else x.factors }
  let x := { x with stat := { x.stat with clipped := x.stat.clipped + o.clipped,
                                          nfResults := x.stat.nfResults + (if o.nonfinite then 1 else 0) } }
  let s := s.setUpd n u x
  let s := if o.nonfinite || bad then s.spoil n u else s
  let s := if bad then s.fault 6 n 29 0 else s
  s.codeBlock n u entry (utFirst e + 64 * b) (xorBytes new old) last

/-- A block's cellar write acknowledged (R190 step 9): the new bytes stand in the other keg, or the other copy of
an embedding row, and the block is marked updated. A write to a lost unit waits for its granule (R172). -/
def State.blockAcked (s : State) (n u entry b : Nat) : State :=
  let x := s.upd n u
  match x.inFlight.find (blockKey entry b) with
  | none => s
  | some new =>
    let e := Tbl.get 0 x.table entry
    let addr := s.blockAddr e (s.readKeg n u e b + 1) b
    let held := s.heldWrite u n addr new.length
    if !(held.isEmpty) then s.holdWrite n u held
    else if !(s.groupLinked (n / 2)) then s
    else
    let s := s.cellarWrite u n addr new
    let x := { x with inFlight := x.inFlight.erase (blockKey entry b), stat := { x.stat with
      blocks := x.stat.blocks + 1, records := x.stat.records + utLive e b } }
    let s := s.setUpd n u (x.markDone [blockKey entry b])
    let t := s.tun u
    s.setTun u { t with step := { t.step with applied := true } }

/-! ### The granary path (R214) -/

/-- A gradient segment's header in the gradient area (R214). -/
def gradHeader (step tun tensor first count fmt : Nat) (k : UpdConst) (coef : Nat) : Bytes :=
  bytesOfNat 64 (step % 2 ^ 48 + tun * 2 ^ 48 + tensor * 2 ^ 64 + first * 2 ^ 96 + count * 2 ^ 136 + fmt * 2 ^ 160
    + k.eta.toNat * 2 ^ 192 + k.lsInv.toNat * 2 ^ 224 + k.k * 2 ^ 256 + coef * 2 ^ 288)

/-- GS_FMT of a tensor's gradients: the format its update collective delivers (R214, R228). -/
def Tun.gradFmt (t : Tun) (tensor : Nat) : Fmt :=
  match t.job.colls.find? fun p => (field p.2 0 4 == 1 || field p.2 0 4 == 2) && field p.2 128 32 == tensor with
  | some p => (Fmt.ofCode (field p.2 9 5)).getD .fp32
  | none => .fp32

/-- A segment of a granary entry sent as pages into the gradient area: the header, its elements, and zeros to the end of the last
page (R214). The area's pages are used one after another in an attempt (DESIGN CHOICE, log entry 119). -/
def State.forwardGranary (s : State) (n u entry : Nat) (e : BitVec 512) (g : GradSegment) (blocks : List Nat) : State :=
  let t := s.tun u
  let k := s.entryConst n u e
  let fmt := t.gradFmt g.tensor
  let lo := max g.first (utFirst e)
  let hi := min (g.first + g.elems.length) (utFirst e + utCount e)
  let xs := (g.elems.drop (lo - g.first)).take (hi - lo)
  let body := xs.flatMap fun w => bytesOfNat (fmt.bits / 8) (fmt.conv .nearest true (Val.of32 w)).code
  let head := gradHeader t.stepNow u g.tensor lo (hi - lo) fmt.code k (utCoef e)
  let all := head ++ body
  let pages := ceilDiv all.length 4096
  let whole := all ++ List.replicate (4096 * pages - all.length) 0
  let at' := t.granArea / 4096 + t.gradPages
  let posts := (List.range pages).map fun i => s.pagePost u (at' + i) ((whole.drop (4096 * i)).take 4096)
  let x := s.upd n u
  let keys := blocks.map (blockKey entry)
  (s.setUpd n u { x with forwards := x.forwards ++ [{ keys := keys, bytes := body.length, posted := posts }] }).setTun u
    { t with gradPages := t.gradPages + pages }

/-- The completion read of the oldest forwarded segment returns: its blocks are done, and where the link is up its payload is counted
and the step's last forward is noted (R177, R214, R336). -/
def State.forwardDone (s : State) (n u : Nat) : State :=
  let x := s.upd n u
  match x.forwards with
  | [] => s
  | f :: rest =>
    let bytes := if s.host.linkUp then f.bytes else 0
    let x := { x with forwards := rest, stat := { x.stat with granaryBytes := x.stat.granaryBytes + bytes } }
    let s := s.setUpd n u (x.markDone f.keys)
    let t := s.tun u
    if s.host.linkUp then s.setTun u { t with step := { t.step with forwarded := some s.nowPs } } else s

/-! ### A segment at the engine (R190 to R192, R203, R205) -/

/-- What the engine does with a segment. -/
inductive SegOut where
  | taken | waits | fault (f : ProgFault)
  deriving DecidableEq, Repr

/-- The blocks in flight that the bound of R191 counts for a tun: those of the die, and for a sealed tun its own, since no other tun's
load holds it (R379, R381). A sealed tun's own blocks bound it, the pooled tuns' blocks bound them together (R5, R379, R381; DEDUCED,
log entry 160). -/
def State.blocksBusy (s : State) (n u : Nat) : Nat :=
  if tlSealed (s.lay u) then (s.upd n u).inFlight.length
  else (s.die n).ctxs.foldl (fun y q => if tlSealed (s.lay q.1) then y else y + q.2.upd.inFlight.length) 0

/-- Whether an earlier segment of an embedding entry still stands in hub staging (R192). -/
def Tun.earlierRows (t : Tun) (n : Nat) (g : GradSegment) : Bool :=
  t.segs.any fun x => x.role == .update n && field (Tbl.get 0 t.job.colls x.coll) 128 32 == g.tensor
    && decide (x.first < g.first) && !(x.rows.isEmpty)

/-- Whether a segment must wait on an entry: its bucket is not armed, it is ahead of the entry's next block, the
block bound is met, or the coder holds (R191, R192, R264). Answers which. -/
def State.segWaits (s : State) (n u : Nat) (g : GradSegment) (p : Nat × BitVec 512) : Option Nat :=
  let x := s.upd n u
  let bs := x.left g p
  if !((Tbl.get ({} : Bucket) x.buckets (utBucket p.2)).armed) then some 0
  else if utKind p.2 ≠ 2 ∧ !(bs.isEmpty) ∧ x.nextBlock p.1 p.2 < bs.headD 0 then some 1
  else if utKind p.2 = 2 ∧ (s.tun u).earlierRows n g then some 1
  else if utFrozen p.2 || utKind p.2 == 4 || g.nonfinite || bs.isEmpty then none
  else if 512 ≤ s.blocksBusy n u then some 2
  else if !(s.coderFree n u 65472) then some 3
  else none

/-- The cycles that a segment waits in hub staging for order, for the block bound or for the coder: a free value, since it is a
matter of timing (log entry 116). -/
def State.noteSegWait (s : State) (n u why : Nat) : State :=
  let k := Config.openNat 21 s.draws
  let x := s.upd n u
  let st := x.stat
  let st : UpdStat := if why = 1 then { st with orderWait := st.orderWait + k }
    else if why = 2 then { st with stallBlocks := st.stallBlocks + k }
    else if why = 3 then { st with rackHold := st.rackHold + k } else st
  s.draw.setUpd n u { x with stat := st }

/-- Blocks of a segment updated one after another until the block bound or the coder holds; answers the keys of those taken and
why the rest waits (R191, R264). -/
def State.applyBlocks (s : State) (n u : Nat) (g : GradSegment) (p : Nat × BitVec 512) : List Nat → State × List Nat × Option Nat
  | [] => (s, [], none)
  | b :: bs =>
    if 512 ≤ s.blocksBusy n u then (s, [], some 2)
    else if !(s.coderFree n u 65472) then (s, [], some 3)
    else
      let r := (s.updateBlock n u p.1 b (segGrads p.2 g b) (b + 1 == entryBlocks p.2)).applyBlocks n u g p bs
      (r.1, blockKey p.1 b :: r.2.1, r.2.2)

/-- A segment applied to one entry (R190, R192, R205): a frozen entry discards it, a granary entry sends it on, and the others
update its blocks. The watch sees every segment of an entry that is not frozen (R148). -/
def State.applyEntry (s : State) (n u : Nat) (g : GradSegment) (p : Nat × BitVec 512) : State × List Nat × Option Nat :=
  let e := p.2
  let x := s.upd n u
  let bs := x.left g p
  let keys := bs.map (blockKey p.1)
  if utFrozen e then
    let k := bs.foldl (fun y b => y + (segGrads e g b).length) 0
    (s.setUpd n u ({ x with stat := { x.stat with frozenElems := x.stat.frozenElems + k } }.markDone keys), keys, none)
  else
    let s := s.setUpd n u (x.watchBlock (utBucket e) (segLive e g bs))
    if utKind e = 4 then (s.forwardGranary n u p.1 e g bs, keys, none) else s.applyBlocks n u g p bs

/-- A segment applied to entries in turn; answers the keys taken and why the rest waits. -/
def State.applyEntries (s : State) (n u : Nat) (g : GradSegment) : List (Nat × BitVec 512) → State × List Nat × Option Nat
  | [] => (s, [], none)
  | p :: ps =>
    match s.applyEntry n u g p with
    | (s, ks, some why) => (s, ks, some why)
    | (s, ks, none) =>
      let r := s.applyEntries n u g ps
      (r.1, ks ++ r.2.1, r.2.2)

/-- A segment whose bucket bit is set discarded with no record traffic: its blocks are done, it is counted once, and the step
spoils (R192, R193, R207). -/
def State.discardSegment (s : State) (n u : Nat) (g : GradSegment) (ps : List (Nat × BitVec 512)) : State :=
  let x := s.upd n u
  let keys := ps.flatMap fun p => (x.left g p).map (blockKey p.1)
  let x := (ps.filter fun p => !(utFrozen p.2)).foldl (fun (x : UpdCtx) p => x.watchBlock (utBucket p.2) (segLive p.2 g (x.left g p))) x
  let s := s.setUpd n u ({ x with stat := { x.stat with nfSegments := x.stat.nfSegments + 1 } }.markDone keys)
  let t := s.tun u
  s.setTun u { t with step := { t.step with nfSeen := true } }

/-- A segment whose bit is clear but which holds a NaN or an infinity for an entry that reads it: a data fault (R192). -/
def State.contradicted (s : State) (n u : Nat) (g : GradSegment) (ps : List (Nat × BitVec 512)) : State :=
  if g.elems.any fnonfinite && (s.upd n u).givenOf g == [] && ps.any (fun p => !(utFrozen p.2)) then (s.spoil n u).fault 6 n 29 0
  else s

/-- A reduced gradient segment at the update engine: taken, staged, or a double arrival (R192). due is the number of last
segments that end an embedding entry's rows. -/
def State.takeSegment (s : State) (n u due : Nat) (g : GradSegment) : State × SegOut :=
  let x := s.upd n u
  let ps := x.touched g
  let seen (k : Nat) : Bool := x.done.contains k || (x.inFlight.find k).isSome || x.forwards.any fun f => f.keys.contains k
  if ps.any fun p => (x.left g p).any fun b => seen (blockKey p.1 b) then (s, .fault .doubleArrival)
  else
    match ps.findSome? fun p => s.segWaits n u g p with
    | some why => (s.noteSegWait n u why, .waits)
    | none =>
      let given := x.givenOf g
      let r := if g.nonfinite then (s.discardSegment n u g ps, [], none) else (s.contradicted n u g ps).applyEntries n u g ps
      let y := r.1.upd n u
      let y := { y with begun := y.begun.filter fun p => p.1 != g }
      match r.2.2 with
      | some why => ((r.1.setUpd n u { y with begun := (g, given ++ r.2.1) :: y.begun }).noteSegWait n u why, .waits)
      | none =>
        let emb := if g.last then ps.filter fun p => utKind p.2 == 2 else []
        let y := emb.foldl (fun (y : UpdCtx) p => y.lastTaken due p.1) y
        let s := r.1.setUpd n u y
        -- the coder closes its segment when the entry ends (R264)
        (if emb.any fun p => y.done.contains (rowsKey p.1) && (s.coder n u).entry == p.1 then s.closeCoder n u else s, .taken)

/-! ### The sketch (R198 to R200, R238) -/

/-- The pieces of a tensor on this device that hold sum buffers: die, entry number and entry. -/
def State.sketchPieces (s : State) (u tensor : Nat) : List (Nat × Nat × BitVec 512) :=
  (s.diesOf u).flatMap fun n => ((s.upd n u).table.filter fun p =>
    utTensor p.2 == tensor && utKind p.2 == 0 && !(utFrozen p.2)).map fun p => (n, p.1, p.2)

/-- The collective that carries a bucket's sketch (R238): its number and entry. -/
def Tun.sketchColl (t : Tun) (bucket : Nat) : Option (Nat × BitVec 256) :=
  t.job.colls.find? fun p => field p.2 0 4 == 8 && field p.2 28 16 == bucket

/-- The bytes of a factor slot of an M entry (R198). -/
def slotLen (e : BitVec 512) : Nat :=
  let cols := max (utCols e) 1
  slotBytes ((utFirst e + utCount e - 1) / cols + 1 - utFirst e / cols) cols

/-- Where the factor slot that this step's fold writes lies in cellar (R198). -/
def State.slotAddr (s : State) (u : Nat) (e : BitVec 512) : Nat := utFact e + ((s.tun u).stepNow + 1) % 2 * slotLen e

/-- The sums of a tensor added over its pieces in member and die order (R238): those of this device and those that a command brings
of others; none while a piece is missing. -/
def State.localSums (s : State) (u : Nat) (e : BitVec 512) (others : List SketchPart) : Option (List Word32 × Word32) :=
  let t := s.tun u
  let cols := max (utCols e) 1
  let tensor := utTensor e
  let coll := t.sketchColl (utBucket e)
  let group := match coll with
    | some c => Tbl.get 0 t.job.groups (field c.2 20 8)
    | none => 0
  let me := ((List.range t.rank).filter fun r => flag group r).length
  let spare (q : Nat × Nat × BitVec 512) : Bool :=
    t.job.shards.any fun h => shRank h == t.rank && shDie h == q.1 && shUt h == q.2.1 && shReplica h != 0
  let own := ((s.sketchPieces u tensor).filter fun q => !(spare q)).map fun q =>
    let fq := Tbl.get ({} : Factors) (s.upd q.1 u).factors q.2.1
    (me, q.1, (List.range cols).map (fun j => Tbl.get 0 fq.colSum j), fq.total)
  let rest := (others.filter fun o => o.member != me).map fun o => (o.member, o.die, o.cols, o.total)
  let all := (own ++ rest).foldl (fun l y => insertPart y l) []
  let cn := match coll with
    | some c => c.1
    | none => 0
  let long := decide (16 < all.length) || (match coll with
    | some c => flag c.2 16
    | none => false)
  let key := collKey t.job.seed cn (some tensor)
  let pieces := (t.job.shards.filter fun h => shTensor h == tensor && shReplica h == 0).length
  if all.length < pieces then none
  else some ((List.range cols).map fun j => sumPartials long key t.stepNow j (all.map fun y => y.2.2.1.getD j 0),
             sumPartials long key t.stepNow cols (all.map fun y => y.2.2.2))
where
  /-- a piece put in member and die order -/
  insertPart (y : Nat × Nat × List Word32 × Word32) : List (Nat × Nat × List Word32 × Word32) → List (Nat × Nat × List Word32 × Word32)
    | [] => [y]
    | z :: l => if y.1 < z.1 ∨ (y.1 = z.1 ∧ y.2.1 < z.2.1) then y :: z :: l else z :: insertPart y l

/-- The returned sketch segment of an entry folded into slot (t + 1) mod 2 (R200): the reduced column sums and total, and the sums of
the piece's own rows. -/
def State.foldSketch (s : State) (n u entry : Nat) (sums : List Word32 × Word32) : State :=
  let s := s.lateSlot n u entry (s.piecePayload n u ((s.tun u).stepNow % 2 + 1))
  let x := s.upd n u
  let e := Tbl.get 0 x.table entry
  let t := s.tun u
  let f := Tbl.get ({} : Factors) x.factors entry
  let cols := max (utCols e) 1
  let tensor := utTensor e
  let cs := (List.range cols).map fun j => (j, sums.1.getD j 0)
  let total := sums.2
  let r0 := utFirst e / cols
  let r1 := (utFirst e + utCount e - 1) / cols
  let rs := (List.range (r1 + 1 - r0)).map fun i => (r0 + i, Tbl.get 0 f.rowSum (r0 + i))
  let k := s.entryConst n u e
  let old := f.slot t.stepNow
  let new := old.fold k.b2 k.omb2 (tensorRows (Tbl.get 0 t.job.tensors tensor) cols) cols rs cs total
  let bytes := new.toBytes
  let oldFull : FactorSlot := { old with fr := rs.map fun p => (p.1, Tbl.get 0 old.fr p.1),
                                         fc := cs.map fun p => (p.1, Tbl.get 0 old.fc p.1) }
  let pad (b : Bytes) : Bytes := b ++ List.replicate ((8 - b.length % 8) % 8) 0
  let x := { x with factors := x.factors.put entry { (f.setSlot (t.stepNow + 1) new) with folded := true },
                    stat := { x.stat with nfResults := x.stat.nfResults + (if new.nonfinite then 1 else 0) } }
  let s := s.setUpd n u x
  let s := if new.nonfinite then s.spoil n u else s
  let s := s.cellarWrite u n (s.slotAddr u e) bytes
  let s := s.closeCoder n u
  factorSegments s n u tensor (xorBytes (pad bytes) (pad oldFull.toBytes)) 0 ((pad bytes).length / 32768 + 1)
where
  /-- the factor segments of a slot's difference, at most 4,096 words each so that no code passes 65,472 bytes -/
  factorSegments (s : State) (n u tensor : Nat) (diff : Bytes) (first : Nat) : Nat → State
    | 0 => s
    | fuel + 1 =>
      if diff.isEmpty then s
      else
        let part := diff.take 32768
        let plain := if part.all (· == 0) then [] else rackCode part
        factorSegments (s.sendRack n u { type := 2, tensor := tensor, first := first, count := part.length / 8 } plain)
          n u tensor (diff.drop 32768) (first + 4096) fuel

/-! ### Freezing (R205) -/

/-- The freezing copy of an entry: each block from keg t mod 2 to the other (R205); the casks of the step before still read
the one it overwrites (R270). -/
def State.freezeEntry (s : State) (n u g entry : Nat) : State :=
  let e := Tbl.get 0 (s.upd n u).table entry
  let s := (List.range (entryBlocks e)).foldl (fun (s : State) b =>
    let s := (s.lateRead n u entry b (s.piecePayload n u (g + 1))).noteReads u n (s.blockAddr e g b) (utBlockBytes e)
    s.cellarWrite u n (s.blockAddr e (g + 1) b) (s.readBlock n u e g b)) s
  let x := s.upd n u
  s.setUpd n u { x with stat := { x.stat with freezeCopies := x.stat.freezeCopies + entryBlocks e } }

/-- The freezing copies of a step (R205, R259): an entry one of whose writes must wait for its granule waits whole, and its
granules are demanded (R172). Embedding entries need none. -/
def State.freezeCopies (s : State) (n u : Nat) : State :=
  let g := (s.tun u).stepNow % 2
  let r := (s.upd n u).toFreeze.foldl (fun (r : State × List Nat) entry =>
    let e := Tbl.get 0 (s.upd n u).table entry
    if utKind e = 2 ∨ utKind e = 4 then r
    else
      let held := (List.range (entryBlocks e)).flatMap fun b => r.1.heldWrite u n (r.1.blockAddr e (g + 1) b) (utBlockBytes e)
      if held.isEmpty then (r.1.freezeEntry n u g entry, r.2) else (r.1.holdWrite n u held, r.2 ++ [entry])) (s, [])
  r.1.setUpd n u { r.1.upd n u with toFreeze := r.2 }

/-- The frozen ranges of a step declared unchanged to the racking stream (R259). -/
def State.rackFrozen (s : State) (n u : Nat) : State :=
  (s.upd n u).table.foldl (fun s p =>
    if utFrozen p.2 && utKind p.2 != 4 then
      s.codeUnchanged n u p.1 (utFirst p.2) (entryBlocks p.2 / 16777215 + 1) (entryBlocks p.2)
    else s) s

end Sys2Proof.Machine
end

