-- ==== Sys2Proof/Machine/StepOps.lean ====
section
/-! DEFINITION. The step of a tun at the hub (R185 to R217, R253 to R255): the step close, the vote, the bung, the
step outcome on each die, gravity and the staged changes that a step start applies. -/

namespace Sys2Proof.Machine

/-! ### Limits record fields (R212) -/

/-- UPD_VOTE_TIMEOUT in ms. -/
def Tun.voteTimeoutMs (t : Tun) : Nat := field t.limits 0 32
/-- UPD_GRANARY_TIMEOUT in ms. -/
def Tun.granaryTimeoutMs (t : Tun) : Nat := field t.limits 32 32
/-- UPD_SPOIL_LIMIT. -/
def Tun.spoilLimit (t : Tun) : Nat := field t.limits 64 16
/-- UPD_DIGEST_N. -/
def Tun.digestN (t : Tun) : Nat := field t.limits 80 16
/-- UPD_GRANARY_WINDOW in ns. -/
def Tun.granaryWindowNs (t : Tun) : Nat := field t.limits 96 32 * 4000

/-- Whether a limits record keeps its ranges (R212). -/
def limitsOk (l : BitVec 512) : Bool :=
  let v := field l 0 32
  let g := field l 32 32
  decide (1 ≤ v) && decide (v ≤ 3600000) && decide (1 ≤ g) && decide (g ≤ 3600000) && decide (1 ≤ field l 64 16)
    && decide (1 ≤ field l 96 32) && field l 128 384 == 0

/-- Whether a gravity record keeps its ranges (R255). -/
def gravityOk (g : BitVec 512) : Bool :=
  let lo := field g 11 16
  let hi := field g 27 16
  decide (field g 7 4 ≠ 0) && decide (1 ≤ lo) && decide (lo ≤ hi) && decide (1 ≤ field g 43 16)

/-! ### Members and the vote payload (R208, R239) -/

/-- The ranks of group 0. -/
def Tun.members (t : Tun) : List Nat := List.range t.job.cluster.length

/-- Whether the device is alone in group 0 (R208). -/
def Tun.alone (t : Tun) : Bool := decide (t.job.cluster.length ≤ 1)

/-- The gravity sums of a device as the vote carries them (R253). -/
def Tun.gravOut (t : Tun) : Tbl (Word32 × Word32) :=
  t.gravAcc.map fun p => (p.1, (f32 (.fin false p.2.l (2 ^ 96)), f32 (.fin false p.2.g (2 ^ 96))))

/-- The result member 0 forms from every member's vote: bits ORed, gravity fields added in member order under
R234 with c = 0x1000; L of group g is element 2g and G element 2g + 1 (R239). -/
def Tun.voteSum (t : Tun) (vs : List VoteData) : VoteData :=
  let long := decide (16 < vs.length)
  let key := collKey t.job.seed 0x1000 none
  let sum (e : Nat) (f : VoteData → Word32) : Word32 := sumPartials long key t.stepNow e (vs.map f)
  { spoiled := vs.any (·.spoiled), nf := vs.any (·.nf), step := t.stepNow,
    grav := (List.range 64).filterMap fun g =>
      if vs.any fun v => (v.grav.find g).isSome then
        some (g, (sum (2 * g) fun v => (Tbl.get (0, 0) v.grav g).1, sum (2 * g + 1) fun v => (Tbl.get (0, 0) v.grav g).2))
      else none }

/-- The result of the votes that member 0 has: it stands, and goes to every other member (R239). -/
def Tun.formResult (t : Tun) : Tun :=
  let r := t.voteSum (t.members.filterMap t.step.votes.find)
  { t.sendCtl ((t.members.drop 1).map fun m => .voteResult m r) with step := { t.step with result := some r } }

/-- A vote taken at member 0; once every member's vote is in, the result stands. -/
def Tun.takeVote (t : Tun) (src : Nat) (v : VoteData) : Tun :=
  let t := { t with step := { t.step with votes := t.step.votes.put src v } }
  if t.members.all fun m => (t.step.votes.find m).isSome then t.formResult else t

/-- The ranks that a re-sharding step leaves out of the cluster (R249, R250). -/
def Tun.leaving (t : Tun) : List Nat :=
  match t.reshard, t.package with
  | .moved, some pkg => t.members.filter fun m => (pkg.rankMap.find m).isNone
  | _, _ => []

/-- Whether the vote timeout does not run (R252): in a re-sharding step a rank that leaves the cluster may have failed, and ranks that
stay then wait for its records from their restore taps. Member 0 knows that none has once all of them have voted; another rank is not
told (log entry 69). -/
def Tun.voteWaits (t : Tun) : Bool := t.leaving.any fun m => t.rank != 0 || (t.step.votes.find m).isNone

/-- Whether the votes that member 0 has are those of every rank but such as leave the cluster, so that the step commits without these
(R252, R256). -/
def Tun.votesLeft (t : Tun) : Bool :=
  t.rank == 0 && !(t.leaving.isEmpty) && t.members.all fun m => (t.step.votes.find m).isSome || t.leaving.contains m

/-! ### The step close (R34, R166) -/

/-- A die's step close of the attempt reaches the commit unit, with its non-finite flag; when every die's has
come, the tun's open stripes are filled (R103, R166, R207). -/
def State.stepClosed (s : State) (n u : Nat) (nonfinite : Bool) : State :=
  let t := s.tun u
  let closed := if t.step.closed.contains n then t.step.closed else n :: t.step.closed
  let all := (s.diesOf u).all closed.contains
  let s := s.setTun u { t with step := { t.step with
    closed := closed, spoil := t.step.spoil || nonfinite,
    state := if t.step.state = .running || t.step.state = .awaitingDies then
        (if all && t.step.forwarded.isSome && t.step.hostWord.isNone then .awaitingHost else .awaitingDies)
      else t.step.state } }
  if all then s.fillStripes u else s

/-- Whether conditions 1 to 5 of R186 hold, and the freezing copies of the step are made (R205); in a re-sharding step, whether
its records have moved (R250). -/
def State.voteReady (s : State) (u : Nat) : Bool :=
  let t := s.tun u
  match t.reshard with
  | .held => false
  | .moved => t.permDue.isEmpty && t.perms.isEmpty && !(s.stripesOpen u)
  | .no =>
    (s.diesOf u).all (fun n => t.step.closed.contains n && (s.upd n u).toFreeze.isEmpty)
      && (s.diesOf u).all (fun n => bucketsComplete t.coefs (s.upd n u))
      && !(s.stripesOpen u) && (t.step.forwarded.isNone || t.step.hostWord.isSome)

/-- A device's vote (R207): its bit and its gravity fields. -/
def State.ownVote (s : State) (u : Nat) : VoteData :=
  let t := s.tun u
  { spoiled := (s.diesOf u).any (fun n => (s.ctx n u).spoil) || t.step.spoil || t.step.nfSeen || t.step.hostWord == some true,
    nf := t.step.nfSeen, step := t.stepNow, grav := t.gravOut }

/-- The vote given (R208): the dies' spoil flags are taken into it, so that a later fault sets the flag of the next
step (R209). -/
def State.giveVote (s : State) (u : Nat) : State :=
  let v := s.ownVote u
  let t := s.tun u
  let t := { t with step := { t.step with given := some v, givenAt := s.nowPs, outcome := none, state := .voteOpen } }
  let t := if t.rank = 0 then t.takeVote 0 v else t.sendCtl [.vote v]
  let s := s.setTun u t
  (s.diesOf u).foldl (fun s n => s.setCtx n u { s.ctx n u with spoil := false }) s

/-! ### Gravity (R254, R255) -/

/-- The size of the groups that feed a gravity group. -/
def Tun.gravSize (t : Tun) (g : Nat) : Nat :=
  match t.job.colls.find? fun p => flag p.2 44 && field p.2 45 6 == g with
  | none => 1
  | some p =>
    let gr := field p.2 20 8
    if gr = 255 then 1
    else (List.range 64).foldl (fun n r => if flag (Tbl.get 0 t.job.groups gr) r then n + 1 else n) 0

/-- The current accumulation count A. -/
def State.accum (s : State) (u : Nat) : Nat :=
  let t := s.tun u
  match (s.diesOf u).head? with
  | some n => Tbl.get 1 (s.ctx n u).loopCounts (field t.gravity 7 4)
  | none => 1

/-- A gravity entry after a clean vote with delivered sums, and whether the step was discarded (R254). -/
def GravEntry.take (e : GravEntry) (l g : Word32) (n b : Nat) (rho : Word32) : GravEntry × Bool :=
  let nl := fmul (fofNat n) l
  let omr := fsub fone rho
  let e := { e with l := l, g := g }
  if (Val.of32 l).lt (Val.of32 g) && (Val.of32 g).lt (Val.of32 nl) then
    ({ e with nbar := fadd (fmul rho e.nbar) (fmul omr (fmul (fofNat b) (fsub nl g))),
              dbar := fadd (fmul rho e.dbar) (fmul omr (fsub g l)) }, false)
  else (e, true)

/-- The gravity groups that a job's collectives feed (R253). -/
def Tun.gravFed (t : Tun) : List Nat := (List.range 64).filter fun g => t.job.colls.any fun p => flag p.2 44 && field p.2 45 6 == g

/-- The gravity groups of a tun after a clean vote (R254, R258): every group that is fed takes the sums delivered for it, which
are zero where nothing was added. -/
def State.takeGravity (s : State) (u : Nat) (v : VoteData) : State :=
  let t := s.tun u
  let b := field t.gravity 64 32 * s.accum u
  let rho := flush32 (BitVec.ofNat 32 (field t.gravity 96 32))
  let r := t.gravFed.foldl (fun (r : Tbl GravEntry × Nat) g =>
    let q := Tbl.get (0, 0) v.grav g
    let x := (Tbl.get ({} : GravEntry) r.1 g).take q.1 q.2 (t.gravSize g) b rho
    (r.1.put g x.1, if x.2 then r.2 + 1 else r.2)) (t.grav, t.coll.gravDiscards)
  s.setTun u { t with grav := r.1, gravAcc := [], coll := { t.coll with gravDiscards := r.2 } }

/-- The new accumulation count A′ of a committed step, where the record steers (R255). -/
def State.steer (s : State) (u step : Nat) : Option Nat :=
  let t := s.tun u
  let g := t.gravity
  let e := Tbl.get ({} : GravEntry) t.grav (field g 1 6)
  if flag g 0 && (Val.of32 0).lt (Val.of32 e.dbar) && step % field g 43 16 == 0 then
    let a := s.accum u
    let q := fdiv (fdiv e.nbar e.dbar) (fmul (fofNat (t.gravSize (field g 1 6))) (fofNat (field g 64 32)))
    let r := match Val.of32 q with
      | .fin false n d => Rnd.int .nearest true n d
      | .fin true _ _ => 0
      | _ => 2 ^ 32
    some (clampNat (max (field g 11 16) ((a + 1) / 2)) (min (field g 27 16) (2 * a)) r)
  else none

/-! ### Step starts -/

/-- Staged changes taken at a step start (R194, R201, R212, R255, R150, R177, R265). -/
def Tun.stepStart (t : Tun) : Tun :=
  { t with
    limits := t.limitsNext.getD t.limits, limitsNext := none,
    coefs := t.coefsNext.getD t.coefs, coefsNext := none,
    schedule := t.scheduleNext.getD t.schedule, scheduleNext := none,
    gravity := t.gravityNext.getD t.gravity, gravityNext := none,
    silent := t.silentNext.getD t.silent, silentNext := none,
    granMap := t.granMapNext.getD t.granMap, granMapNext := none,
    rackTap := t.rackTapNext.or t.rackTap, rackTapNext := none,
    caskTap := t.caskTapNext.or t.caskTap, caskTapNext := none }

/-- The hub's attempt state cleared: rounds, reductions, buckets and staged segments of the attempt; received
segments still in staging count as stale (R234, R256). -/
def Tun.clearAttempt (t : Tun) (stale : Bool) : Tun :=
  let dead := t.segs.filter fun x => match x.role with
    | .deliver _ => true
    | .update _ => true
    | .sketch _ => true
    | _ => false
  { t with rounds := [], reductions := [], buckets := [], gravAcc := [], dlvCount := [], dlvRound := [],
           gradPages := 0,
           segs := if stale then [] else t.segs,
           partials := if stale then [] else t.partials,
           coll := if stale then { t.coll with stale := t.coll.stale + dead.length } else t.coll }

/-! ### The result (R208 to R213) -/

/-- The loss scale and its count after a spoiled vote (R213). -/
def scaleSpoiled (on nf : Bool) (x : Word32) (clean : Nat) : Word32 × Nat :=
  if on && nf then (fmax fone (fmul x 0x3F000000), 0) else (x, clean)

/-- The loss scale and its count after a clean committed step (R213). -/
def scaleClean (on : Bool) (x : Word32) (clean : Nat) : Word32 × Nat :=
  if !on then (x, clean)
  else if clean + 1 = 2000 then
    (if (Val.of32 0x4B800000).lt (Val.of32 (fmul x 0x40000000)) then 0x4B800000 else fmul x 0x40000000, 0)
  else (x, clean + 1)

/-- A vote delivered spoiled (R209 to R213): no bung is driven, the attempt is abandoned and the dies are told; at
the spoil limit the tun stops. What was staged for the next step start is taken, since the next attempt starts here (DEDUCED,
log entry 93). -/
def State.voteSpoiled (s : State) (u : Nat) (nf : Bool) : State :=
  let s := s.abandonRack u
  let t := s.tun u
  let st := t.step
  let ls := scaleSpoiled t.job.lossScaling nf st.lsScale st.lsClean
  let t := { t with
    commit := { t.commit with lastSpoiled := true, lastNf := nf, spoiled := t.commit.spoiled + 1 },
    refusedBefore := t.refusedBefore || t.refusedLaunch, refusedLaunch := false,
    reshard := if t.reshard == Reshard.moved then Reshard.held else t.reshard, permDue := [], perms := [],
    step := { st with attempt := st.attempt + 1, prevNf := nf, spoils := st.spoils + 1, lsScale := ls.1, lsClean := ls.2,
                      closed := [], spoil := false, nfSeen := false, applied := false, forwarded := none, hostWord := none,
                      votes := [], given := none, result := none, outcome := some (.spoiled nf), toTell := s.diesOf u,
                      state := .running } }
  let s := (s.setTun u (t.clearAttempt true).stepStart).event u 0x10 [t.stepNow, st.attempt, 1, if nf then 1 else 0]
  if t.spoilLimit ≤ st.spoils + 1 then (s.stopTun u).event u 0x11 [t.stepNow, st.spoils + 1] else s

/-- The wait of the bung for racking begins (R2, R186 condition 7): with the vote clean and the racking commit of the step before
not standing, the wait is a racking stall, with one racking-lag event. -/
def State.startLag (s : State) (u : Nat) : State :=
  let t := s.tun u
  if t.stands (t.stepNow - 1) || t.step.lagSince.isSome then s
  else
    let s := s.setTun u { t with step := { t.step with lagSince := some s.nowPs, state := .awaitingRacking },
                                 rackStat := { t.rackStat with lagEvents := t.rackStat.lagEvents + 1 } }
    s.event u 0x13 [t.stepNow, t.rackStat.stood]

/-- A vote's delivered result at a device (R208). -/
def State.voteDelivered (s : State) (u : Nat) (v : VoteData) : State :=
  if v.spoiled then s.voteSpoiled u v.nf
  else
    let s := s.takeGravity u v
    let t := s.tun u
    (s.setTun u { t with commit := { t.commit with lastSpoiled := false, lastNf := v.nf },
                         step := { t.step with outcome := some .clean } }).startLag u

/-! ### The bung (R185, R186) -/

/-- Bytes 0–7 of a bung word (R185). -/
def Bung.low (b : Bung) (u : Nat) : Nat :=
  b.step % 2 ^ 48 + b.keg % 2 * 2 ^ 48 + u % 32 * 2 ^ 49 + (if b.granary then 2 ^ 54 else 0) + (if b.valid then 2 ^ 55 else 0)

/-- A bung word with its check (R185). A word that was never written reads as zero. -/
def Bung.word (b : Bung) (u : Nat) : Nat :=
  if b.valid then b.low u + low64 (sha3_512 (bytesOfNat 8 (b.low u))) * 2 ^ 64 else 0

/-- A watch record when a bung is driven (R149). -/
def Watch.bung (w : Watch) : Watch :=
  if w.seen then
    if w.live then { run := 0, seen := false, live := false, raised := false }
    else { w with run := min 0xFFFF (w.run + 1), seen := false, live := false }
  else w

/-- A watch record when a vote spoils (R149). -/
def Watch.spoil (w : Watch) : Watch := { w with seen := false, live := false }

/-- Silent-layer events after a bung (R150): one for each bucket whose run has reached the limit on every die that
owns part of it and has not been raised there. -/
def State.silentEvents (s : State) (u step : Nat) : State :=
  let limit := (s.tun u).silent
  if limit = 0 then s
  else
    let owns (n b : Nat) : Bool := (s.upd n u).table.any fun p => utBucket p.2 == b && !(utFrozen p.2)
    let buckets := ((s.diesOf u).flatMap fun n => (s.upd n u).watch.map Prod.fst).eraseDups
    buckets.foldl (fun (s : State) b =>
      let ns := (s.diesOf u).filter fun n => owns n b
      let w (n : Nat) : Watch := Tbl.get {} (s.upd n u).watch b
      if !(ns.isEmpty) && ns.all fun n => decide (limit ≤ (w n).run) && !((w n).raised) then
        let least := ns.foldl (fun x n => min x (w n).run) 0xFFFF
        let s := ns.foldl (fun (s : State) n =>
          let x := s.upd n u
          let c := s.ctx n u
          s.setCtx n u { c with upd := { x with watch := Tbl.modify {} x.watch b fun w => { w with raised := true } },
                                narrow := { c.narrow with silentEvents := c.narrow.silentEvents + 1 } }) s
        s.event u 0x16 [b, least, step]
      else s) s

/-! ### Replica digests (R219, R220) -/

/-- The XOR of H_b = SHA3-512 of tensor id, block index and block over the blocks of an entry that the step wrote, 4 and 8 bytes
before the block (R219; log entry 42). -/
def State.entryDigest (s : State) (n u keg : Nat) (p : Nat × BitVec 512) : Bytes :=
  let wrote := Tbl.get [] (s.tun u).written n
  ((List.range (entryBlocks p.2)).filter fun b => wrote.contains (blockKey p.1 b)).foldl (fun x b =>
    xorBytes x (sha3_512 (bytesOfNat 4 (utTensor p.2) ++ bytesOfNat 8 b ++ s.readBlock n u p.2 keg b))) (List.replicate 64 0)

/-- The replica digest of this device over the blocks written into a keg, SHA3-512 of the entry digests in update table order
(R219); with replicated entries among them, the same over those alone follows it, which R220 compares across every device
(DESIGN CHOICE, log entry 42). -/
def State.ownDigest (s : State) (u keg : Nat) : Bytes :=
  let all := (s.diesOf u).flatMap fun n => ((s.upd n u).table.filter fun p => utDigest p.2 && !(utFrozen p.2)).map fun p => (n, p)
  let of' (l : List (Nat × Nat × BitVec 512)) : Bytes := sha3_512 (l.flatMap fun q => s.entryDigest q.1 u keg q.2)
  let rep := all.filter fun q => utKind q.2.2 == 3
  of' all ++ if rep.isEmpty then [] else of' rep

/-- The rank of the reference of a piece's replica group (R220, R227): the holder of its replica 0. -/
def Tun.referenceOf (t : Tun) (e : BitVec 256) : Option Nat :=
  (t.job.shards.find? fun o => field o 0 32 == field e 0 32 && field o 48 40 == field e 48 40 && field o 41 3 == 0).map fun o => field o 32 6

/-- The ranks whose digests are references for another's: those of the groups of all its pieces that are no replica 0; replicated
tensors are compared apart. -/
def Tun.referencesFor (t : Tun) (src : Nat) : List Nat :=
  ((t.job.shards.filter fun e => field e 32 6 == src && field e 41 3 != 0
      && field (Tbl.get 0 t.job.tensors (field e 0 32)) 32 3 != 3).filterMap t.referenceOf).eraseDups

/-! ### The casks of a step (R270, R274) -/

/-- The pieces of a die in update table order: entry, first block and blocks; an embedding piece holds whole rows. -/
def UpdCtx.pieces (x : UpdCtx) : List (Nat × BitVec 512 × Nat × Nat) :=
  (x.table.filter fun p => utKind p.2 != 4).flatMap fun p =>
    let per := if utKind p.2 = 2 then max (utCols p.2 / 64) 1 else 1
    let most := max (2 ^ 21 / per) 1 * per
    let nb := entryBlocks p.2
    (List.range (ceilDiv nb most)).map fun i => (p.1, p.2, i * most, min most (nb - i * most))

/-- The pieces a tun's dies read in a step: those of its class where a cask tap stands, and every piece where an
evaluation cask was requested. A replicated tensor is casked by rank 0 only. attempt is that of the base step. -/
def State.planCasks (s : State) (u attempt : Nat) : State :=
  let t := s.tun u
  let step := t.stepNow
  let period := max t.job.caskPeriod 1
  let of' (ev : Bool) : List CaskPiece := (s.diesOf u).flatMap fun n =>
    let ps := (s.upd n u).pieces
    ((List.range ps.length).zip ps).filterMap fun p =>
      if (utKind p.2.2.1 == 3 && t.rank != 0) || (!ev && p.1 % period != step % period) then none
      else some { die := n, piece := p.1, entry := p.2.1, ut := p.2.2.1, firstBlock := p.2.2.2.1, blocks := p.2.2.2.2, base := step - 1,
                  attempt := attempt, evaluation := ev }
  let cask := if (tapOn t.caskTap).isSome then of' false else []
  let ev := if t.rack.evalReq then of' true else []
  let ends : List EvalCask := if t.rack.evalReq then (s.diesOf u).map fun n => { die := n, base := step - 1, attempt := attempt } else []
  s.setTun u { t with rack := { t.rack with pieces := t.rack.pieces ++ cask ++ ev, evalReq := false, evals := t.rack.evals ++ ends } }

/-! ### A re-sharding step's end (R249 to R251) -/

/-- The layout segments of a re-sharding step: the new shard table entries, 2,046 a segment (R251, R262). -/
def State.sendLayout (s : State) (u : Nat) (shards : List (BitVec 256)) : State :=
  let t := s.tun u
  (List.range (ceilDiv shards.length 2046)).foldl (fun (s : State) i =>
    let part := (shards.drop (2046 * i)).take 2046
    let f : RkFields := { type := 4, tun := u, rank := t.rank, step := t.stepNow, attempt := t.step.attempt, seq := i,
                          first := 2046 * i, count := part.length }
    s.hubRack u (sealSegment t.rackKey f (part.flatMap fun e => bytesOfNat 32 e.toNat))) s

/-- A factor slot read from its master (R198). -/
def FactorSlot.ofBytes (r0 rows cols : Nat) (bs : Bytes) : FactorSlot :=
  let w (i : Nat) : Word32 := wordAt bs i
  { fbar := w 0, folds := (w 4).toNat,
    fr := (List.range rows).map fun i => (r0 + i, w (64 + 4 * i)),
    fc := (List.range cols).map fun j => (j, w (64 + 4 * rows + 4 * j)) }

/-- Whether an entry has factor slots: an M entry under AdamW (R196, R198). -/
def utFactored (coefs : Tbl (BitVec 512)) (e : BitVec 512) : Bool := utKind e == 0 && coRule (Tbl.get 0 coefs (utCoef e)) == 0

/-- The reads of the factor slots' masters of a die (R171, R198). -/
def State.noteSlots (s : State) (n u : Nat) : State :=
  ((s.upd n u).table.filter fun p => utFactored (s.tun u).coefs p.2).foldl (fun (s : State) p =>
    s.noteReads u n (utFact p.2) (2 * slotLen p.2)) s

/-- The factors of an M entry as their masters in cellar hold them. -/
def State.masterFactors (s : State) (n u : Nat) (e : BitVec 512) : Factors :=
  let cols := max (utCols e) 1
  let r0 := utFirst e / cols
  let rows := (utFirst e + utCount e - 1) / cols + 1 - r0
  let slot (g : Nat) : FactorSlot :=
    FactorSlot.ofBytes r0 rows cols (s.cellarBytes u n (utFact e + g * slotBytes rows cols) (slotBytes rows cols))
  { even := slot 0, odd := slot 1 }

/-- The step-start tokens of a job image's die. -/
def startTokens (j : DieJob) : Tbl Tok := (j.present.map fun n => (n, Tok.present)).foldl (fun t p => Tbl.put t p.1 p.2) []

/-- The update table entry of a shard (R189, R227): its tensor, kind, first element and count are those of the shard and of its
tensor; what else it says is the image's. -/
def shardEntry (j : JobImage) (h : BitVec 256) : BitVec 512 :=
  let e := Tbl.get 0 j.entries (shDie h * 16384 + shUt h)
  let e := setField e 0 32 (shTensor h)
  let e := setField e 32 3 (field (Tbl.get 0 j.tensors (shTensor h)) 32 3)
  setField (setField e 64 40 (shFirst h)) 104 40 (shCount h)

/-- The update table of a die, derived from the shard table entries that name the device's rank and the die (R227). -/
def jobEntries (j : JobImage) (rank n : Nat) : Tbl (BitVec 512) :=
  (j.shards.filter fun h => shRank h == rank && shDie h == n).foldl (fun t h => Tbl.put t (shUt h) (shardEntry j h)) []

/-- The banks ZERO and the tun's tiles dropped (R63, R210); an open tile of another tun keeps its banks (R5). -/
def Die.clearBanks (d : Die) (u : Nat) : Die :=
  let mine := d.tiles.any fun y => y.tun == u
  let idle := d.tiles.all fun y => y.tun == u
  { d with tiles := d.tiles.filter fun y => y.tun != u,
           bank0 := if mine || idle then {} else d.bank0, bank1 := if mine || idle then {} else d.bank1 }

/-- The step record the commit unit writes (R188, R201). -/
def Tun.record (t : Tun) : StepRecord :=
  let st := t.step
  { t := t.stepNow, eta := scheduleEta t.schedule (st.k - 1), lsScale := st.lsScale,
    lsInv := fdiv fone st.lsScale, k := st.k, attempt := st.attempt, prevNf := st.prevNf, lsClean := st.lsClean }

/-- The generator key of a tun on a die (R97). -/
def genKeyOf (j : JobImage) (n : Nat) : Nat := low64 (sha3_512 (j.seed ++ [BitVec.ofNat 8 n]))

/-- The update table entries of a device. -/
def ownEntries (j : JobImage) (rank : Nat) : List (BitVec 512) := (List.range 8).flatMap fun n => (jobEntries j rank n).map Prod.snd

/-- Nothing of an earlier stream of a tun is in a die's loop buffer (R33). -/
def Die.freshStream (d : Die) (u : Nat) : Die := { d with loopBuf := d.loopBuf.filter fun k => k / 2 ^ 22 != u }

/-- A die's context under a new layout: its stream and tables are the package's, the history of the slots declared
unchanged stands, the entries newly frozen are to be copied (R205), and the step-start slice waits for the step
outcome (R250). The generator stands at the step that follows (R97). -/
def State.relaidCtx (s : State) (n u rank : Nat) (j : JobImage) : Ctx :=
  let c := if (s.ctx n u).resident then s.ctx n u else { resident := true, genKey := genKeyOf j n, stepRec := (s.tun u).record }
  let d := Tbl.get ({} : DieJob) j.dies n
  let table := jobEntries j rank n
  { c with
    stream := (List.range d.stream.length).zip d.stream, streamLen := d.stream.length, stepStart := d.stepStart, pc := d.stepStart,
    rep := 0, loops := [], genPos := (s.tun u).stepNow % 2 ^ 24 * 2 ^ 40, tokens := startTokens d, windows := d.windows, descs := d.descs, masks := d.masks,
    crossDie := d.crossDie, spent := [], owed := [], returning := [], hold := true, closed := false, halted := false,
    stats := c.stats.filter fun p => j.keepStats.contains (512 * n + p.1),
    upd := { c.upd with
      table := table, buckets := [], done := [], inFlight := [], staged := [], begun := [], lasts := [], forwards := [], watch := [], coder := {},
      toFreeze := (table.filter fun p => utFrozen p.2 && c.upd.table.any fun q =>
        utTensor q.2 == utTensor p.2 && !(utFrozen q.2)).map Prod.fst,
      factors := ((table.filter fun p => utKind p.2 == 0).map fun p => (p.1, s.masterFactors n u p.2)) } }

/-- The job as a package makes it (R249). -/
def relaidJob (j : JobImage) (pkg : LayoutPackage) : JobImage :=
  let p := pkg.job
  { j with cluster := p.cluster, groups := p.groups, shards := p.shards, colls := p.colls, dlvs := p.dlvs,
           entries := p.entries, dies := p.dies, keepStats := p.keepStats }

/-- The pieces not yet read whole are read before the layout changes, under the entries they belong to (R270). -/
def State.keepPieces (s : State) (u : Nat) : State :=
  let t := s.tun u
  s.setTun u { t with rack := { t.rack with pieces := t.rack.pieces.map fun p =>
    if p.done || p.snapshot.isSome then p else { p with snapshot := some (s.piecePayload p.die u ((p.base + 1) % 2) p) } } }

/-- The new layout in force (R249, R250): the tun layout, tables and streams, SEC_TMR, the count; a die that the layout no longer gives
the tun loses its context, and one it gives anew gets one; a rank that the new cluster table does not hold stops its tun. -/
def State.relay (s : State) (u : Nat) (pkg : LayoutPackage) : State :=
  let s := s.keepPieces u
  let t := s.tun u
  let job := relaidJob t.job pkg
  let rank := pkg.rankMap.find t.rank
  let old := s.diesOf u
  let s := s.setLay u ((rank.bind pkg.layouts.find).or t.layNow)
  let s := (old.filter fun n => !((s.diesOf u).contains n)).foldl (fun (s : State) n => s.setDie n ((((s.die n).clearBanks u).freshStream u).setCtx u {})) s
  let s := (s.diesOf u).foldl (fun (s : State) n => s.setDie n (((s.die n).freshStream u).setCtx u (s.relaidCtx n u (rank.getD 64) job))) s
  let s := (s.diesOf u).foldl (fun s n => s.noteSlots n u) s
  let t := s.tun u
  let s := s.setTun u { t with job := job, rank := rank.getD t.rank, package := none, reshard := .no, halted := [], step := { t.step with toTell := s.diesOf u },
                               tmr := sha3_512 (t.tmr ++ pkg.digest), dlvSpent := [], farSpent := [], farOwed := [],
                               coll := { t.coll with reshards := t.coll.reshards + 1 } }
  if rank.isNone then s.stopTun u else s

/-- The watch when a bung is driven: the records, and then the events under the limit in force (R149, R150). -/
def State.watchBung (s : State) (u step : Nat) : State :=
  ((s.diesOf u).foldl (fun (s : State) n =>
    let x := s.upd n u
    s.setUpd n u { x with watch := x.watch.mapVals Watch.bung }) s).silentEvents u step

/-- The racking of a step completed as its bung is driven (R259, R262, R266): open coders closed, since every entry has ended, and,
where the step applied updates, the frozen ranges declared unchanged and the history sent. -/
def State.endRacking (s : State) (u : Nat) (hist : Bool) : State :=
  let s := (s.diesOf u).foldl (fun s n => s.closeCoder n u) s
  if hist then (s.diesOf u).foldl (fun s n => s.rackFrozen n u) (s.sendHistory u) else s

/-- The blocks that a digest step wrote, by die (R219). -/
def State.writtenNow (s : State) (u : Nat) : Tbl (List Nat) := (s.diesOf u).foldl (fun w n => Tbl.put w n (s.upd n u).done) []

/-- A digest step's digest: this device's stands, beside those of the step that have come, and goes to every other rank (R219,
R220). -/
def State.digestStep (s : State) (u step : Nat) (on : Bool) : State :=
  if on then
    let t := s.tun u
    let s := s.setTun u { t with written := s.writtenNow u }
    let d := s.ownDigest u (step + 1)
    let t := s.tun u
    let ahead := t.digestsAhead.filterMap fun p => if p.2.1 = step then some (p.1, p.2.2) else none
    s.setTun u ({ t with digests := ahead.foldl (fun (m : Tbl Bytes) (p : Nat × Bytes) => Tbl.put m p.1 p.2) ([(t.rank, d)] : Tbl Bytes), digestsAhead := [] }.sendCtl ((t.members.filter (· != t.rank)).map fun r => .digest r d))
  else
    let t := s.tun u
    s.setTun u { t with digests := [], digestsAhead := [], written := [] }

/-- The bung of the tun's step driven (R185 to R187): the word, the counters, the update count, the loss scale, the
watch, the steering of A, the history and commit of racking, and the step start's staged changes. -/
def State.driveBung (s : State) (u : Nat) : State :=
  let st := (s.tun u).step
  let step := (s.tun u).stepNow
  let hist := st.applied
  let s := (s.watchBung u step).endRacking u hist
  let a := s.steer u step
  let t := s.tun u
  let ls := scaleClean t.job.lossScaling st.lsScale st.lsClean
  let moved := match t.package with
    | some p => if t.reshard == Reshard.moved then some p else none
    | none => none
  let s := match moved with
    | some p => s.sendLayout u p.job.shards
    | none => s
  let t := (s.tun u).endLag s.nowPs
  let lc := field t.gravity 7 4
  let t := { t with
    bung := { step := step, keg := (step + 1) % 2, granary := st.hostWord.isSome, valid := true },
    commit := { t.commit with committed := t.commit.committed + 1 },
    loopNext := match a with
      | some x => t.loopNext.put lc x
      | none => t.loopNext,
    step := { st with attempt := 0, k := if st.applied then st.k + 1 else st.k, lsScale := ls.1, lsClean := ls.2, prevNf := false,
                      spoils := 0, closed := [], spoil := false, nfSeen := false, applied := false, forwarded := none,
                      hostWord := none, votes := [], given := none, result := none, outcome := some .clean,
                      toTell := s.diesOf u, state := .running, lagSince := none },
    inputs := t.inputs.filter fun x => decide (step < x.1), refusedBefore := false, refusedLaunch := false, ueSeen := [] }
  let rec' := t.commitRecord step st.applied moved.isSome hist (if flag t.gravity 0 then Tbl.get (s.accum u) t.loopNext lc else 0)
  let t := { t with rack := { t.rack with
    commits := t.rack.commits.put step rec', pending := t.rack.pending ++ [(step, st.attempt)],
    chain := sha3_512 (bytesOfNat 768 rec'.toNat), counts := [], embCounts := [], embHeaders := [] } }
  let n := t.digestN
  let s := (s.setTun u t).digestStep u step (n != 0 && step % n == 0 && moved.isNone)
  let s := s.setTun u ((s.tun u).clearAttempt false).stepStart
  let s := match moved with
    | some p => s.relay u p
    | none => s
  s.planCasks u st.attempt

/-! ### The step outcome on a die (R187, R188, R210) -/

/-- A die's update context at the start of an attempt: nothing armed, nothing done, the sums cleared (R193, R199). -/
def UpdCtx.newAttempt (x : UpdCtx) : UpdCtx :=
  { x with buckets := [], done := [], staged := [], begun := [], lasts := [], forwards := [], inFlight := [],
           factors := x.factors.mapVals fun f => { f with rowSum := [], colSum := [], total := 0, folded := false, flushed := false },
           coder := { x.coder with isOpen := false, payload := [], count := 0, seqData := 0 } }

/-- Whether an operation the tun launched on a die is still to complete (R210). -/
def State.outstanding (s : State) (n u : Nat) : Bool :=
  let d := s.die n
  d.movs.any (fun j => j.tun == u) || (d.vec0 ++ d.vec1).any (fun j => j.tun == u) || !((s.upd n u).inFlight.isEmpty)

/-- The loop-count table at a step start (R33, R255): what SYNC and the tap have written since the last one is taken. -/
def Ctx.takeLoops (c : Ctx) (next : Tbl Nat) : Ctx :=
  { c with loopCounts := next.foldl (fun l p => Tbl.put l p.1 p.2) (c.loopCountsNext.foldl (fun l p => Tbl.put l p.1 p.2) c.loopCounts),
           loopCountsNext := [] }

/-- A die after the outcome of a clean step: its record advances and the step-start slice may issue (R187). -/
def State.outcomeClean (s : State) (n u : Nat) : State :=
  let t := s.tun u
  let c := s.ctx n u
  let c := { c.takeLoops t.loopNext with hold := false, closed := false, stepRec := t.record, upd := c.upd.newAttempt }
  (s.setCtx n u c).freezeCopies n u

/-- A die after a spoiled outcome, prepared for the next attempt (R139, R149, R210); a context with an uncorrectable word
has its tables rebuilt from the job image (R170). -/
def State.outcomeSpoiled (s : State) (n u : Nat) : State :=
  let t := s.tun u
  let d := s.die n
  let c := s.ctx n u
  let x := c.upd.newAttempt
  let c := c.takeLoops t.loopNext
  let c := { c with hold := false, closed := false, stepRec := t.record, stats := c.stats.mapVals StatSlot.undo,
                    genPos := t.stepNow % 2 ^ 24 * 2 ^ 40, tokens := startTokens (Tbl.get {} t.job.dies n),
                    spent := [], owed := [], returning := [],
                    upd := { x with watch := x.watch.mapVals Watch.spoil } }
  let j := Tbl.get ({} : DieJob) t.job.dies n
  let c := if c.rebuild then { c with windows := j.windows, descs := j.descs, masks := j.masks, rebuild := false } else c
  s.setDie n ((d.clearBanks u).setCtx u c)

/-- The credits of remote and delivery windows at the hub made whole for a new attempt (R210). -/
def Tun.fullCredits (t : Tun) : Tun := { t with dlvSpent := [], farSpent := [], farOwed := [] }

end Sys2Proof.Machine
end

