-- ==== Sys2Proof/Machine/CollTable.lean ====
section
/-! DEFINITION. The tables of a job's collectives (R224 to R233): groups, shards, the collective table and the
delivery records, and what a launch that hands a piece to the hub names (R229, R240). -/

namespace Sys2Proof.Machine

/-! ### Fields -/

/-- COL_KIND. -/
def colKind (e : BitVec 256) : Nat := field e 0 4
/-- COL_IN_FMT. -/
def colIn (e : BitVec 256) : Nat := field e 4 5
/-- COL_OUT_FMT. -/
def colOut (e : BitVec 256) : Nat := field e 9 5
/-- COL_OP is max. -/
def colMax (e : BitVec 256) : Bool := field e 14 2 == 1
/-- COL_LONG. -/
def colLong (e : BitVec 256) : Bool := flag e 16
/-- COL_SUMMED. -/
def colSummed (e : BitVec 256) : Bool := flag e 17
/-- COL_SPARSE. -/
def colSparse (e : BitVec 256) : Bool := flag e 18
/-- COL_REVERSE. -/
def colReverse (e : BitVec 256) : Bool := flag e 19
/-- COL_GROUP. -/
def colGroup (e : BitVec 256) : Nat := field e 20 8
/-- COL_BUCKET. -/
def colBucket (e : BitVec 256) : Nat := field e 28 16
/-- COL_GRAV_EN. -/
def colGravEn (e : BitVec 256) : Bool := flag e 44
/-- COL_GRAV. -/
def colGrav (e : BitVec 256) : Nat := field e 45 6
/-- COL_LEN. -/
def colLen (e : BitVec 256) : Nat := field e 64 36
/-- COL_DLV_N. -/
def colDlvN (e : BitVec 256) : Nat := field e 100 4
/-- COL_DLV. -/
def colDlv (e : BitVec 256) : Nat := field e 104 12
/-- COL_TENSOR. -/
def colTensor (e : BitVec 256) : Nat := field e 128 32
/-- COL_FIRST. -/
def colFirst (e : BitVec 256) : Nat := field e 160 40

/-- DL_DIE. -/
def dlDie (r : BitVec 128) : Nat := field r 0 3
/-- DL_WIN. -/
def dlWin (r : BitVec 128) : Nat := field r 3 10
/-- DL_SWIN. -/
def dlSwin (r : BitVec 128) : Nat := field r 13 10
/-- DL_SHALF. -/
def dlHalf (r : BitVec 128) : Bool := flag r 23
/-- DL_XFORM. -/
def dlXform (r : BitVec 128) : Nat := field r 24 2
/-- DL_FIRST. -/
def dlFirst (r : BitVec 128) : Nat := field r 26 36
/-- DL_COUNT. -/
def dlCount (r : BitVec 128) : Nat := field r 62 36

/-- The gradient kinds, whose results go to the update engine: REDSCAT_UPD and ALLRED_UPD. -/
def colUpdates (e : BitVec 256) : Bool := colKind e == 1 || colKind e == 2
/-- The kinds that have a bucket (R234): the update kinds and SKETCH. -/
def colBucketed (e : BitVec 256) : Bool := colUpdates e || colKind e == 8
/-- The kinds that reduce elements: ALLRED_WIN and the update kinds. -/
def colReduces (e : BitVec 256) : Bool := decide (colKind e ≤ 2)

/-! ### Groups (R224) -/

/-- The ranks of a group in ascending order; 255 is the device alone. -/
def Tun.groupRanks (t : Tun) (g : Nat) : List Nat :=
  if g = 255 then [t.rank]
  else (List.range 64).filter fun r => flag (Tbl.get 0 t.job.groups g) r

/-- The dies of a group on this device, ascending. -/
def State.groupDies (s : State) (u g : Nat) : List Nat :=
  if g = 255 then s.diesOf u
  else (List.range 8).filter fun n => flag (Tbl.get 0 (s.tun u).job.groups g) (64 + n)

/-- The member index of a rank in a list of ranks. -/
def memberOf (ranks : List Nat) (r : Nat) : Nat := (ranks.takeWhile (· != r)).length

/-- Collective c of a tun. -/
def Tun.collAt (t : Tun) (c : Nat) : BitVec 256 := Tbl.get 0 t.job.colls c

/-- The shard table entries that hold an element of a tensor. -/
def Tun.holders (t : Tun) (tensor e : Nat) : List (BitVec 256) :=
  t.job.shards.filter fun x => shTensor x == tensor && decide (shFirst x ≤ e) && decide (e < shFirst x + shCount x)

/-- The tensor element a buffer element of a collective stands for; in the row form the key of a record is
row × UT_COLS + column, and COL_FIRST is not added. -/
def colElem (e : BitVec 256) (i : Nat) : Nat := if colSparse e then i else colFirst e + i

/-- The rank of the reducing member of a buffer element (R233). -/
def Tun.reducer (t : Tun) (e : BitVec 256) (i : Nat) : Nat :=
  let ranks := t.groupRanks (colGroup e)
  if colKind e = 1 then
    match (t.holders (colTensor e) (colElem e i)).find? fun x => shReplica x == 0 with
    | some x => shRank x
    | none => ranks.headD t.rank
  else
    let blocks := max (ceilDiv (colLen e) 64) 1
    ranks.getD (i / 64 * ranks.length / blocks) t.rank

/-- The ranks that receive a result or an element that is not reduced, from the member that has it (R233). -/
def Tun.receivers (t : Tun) (e : BitVec 256) (i : Nat) : List Nat :=
  let ranks := t.groupRanks (colGroup e)
  let n := max ranks.length 1
  let me := memberOf ranks t.rank
  match colKind e with
  | 1 => ((t.holders (colTensor e) (colElem e i)).map shRank).eraseDups
  | 2 => ((t.holders (colTensor e) (colElem e i)).map shRank).eraseDups.filter ranks.contains
  | 5 => [ranks.getD (i / max (colLen e / n) 1) t.rank]
  | 6 => [ranks.getD ((me + 1) % n) t.rank]
  | 7 => if colReverse e then (if me = 0 then [] else [ranks.getD (me - 1) t.rank])
         else if me + 1 < n then [ranks.getD (me + 1) t.rank] else []
  | _ => ranks

/-- Where a receiver finds an element that a member sends unreduced: ALLTOALL blocks lie in source member order
(R241). -/
def resultIndex (e : BitVec 256) (n src i : Nat) : Nat :=
  if colKind e = 5 then
    let b := max (colLen e / max n 1) 1
    src * b + i % b
  else i

/-- The delivery records of a collective, with their numbers. -/
def Tun.records (t : Tun) (e : BitVec 256) : List (Nat × BitVec 128) :=
  (List.range (colDlvN e)).map fun i => (colDlv e + i, Tbl.get 0 t.job.dlvs (colDlv e + i))

/-- The delivery records that cover a result element. -/
def Tun.recordsAt (t : Tun) (e : BitVec 256) (i : Nat) : List Nat :=
  (t.records e).filterMap fun r => if dlFirst r.2 ≤ i ∧ i < dlFirst r.2 + dlCount r.2 then some r.1 else none

/-! ### Contribution pieces (R229, R240) -/

/-- The collective number a launch names. -/
def pieceColl (d : BitVec 512) : Nat := mdDstAddr d % 4096
/-- The element offset of a piece. -/
def pieceFirst (d : BitVec 512) : Nat := mdDstAddr d / 4096

/-- Whether a launch is a GATHER_REGEN range: cellar to a GATHER_REGEN collective. -/
def pieceRegen (e : BitVec 256) (d : BitVec 512) : Bool := mdSrcLvl d == 1 && colKind e == 4

/-- The columns of a tensor: its last extent (R225). -/
def Tun.tensorCols (t : Tun) (tensor : Nat) : Nat := max ((tensorDims (Tbl.get 0 t.job.tensors tensor)).getLastD 1) 1

/-- The length of a row of the tensor of a row-form collective: its last extent (R225, R237). -/
def Tun.rowWidth (t : Tun) (e : BitVec 256) : Nat := t.tensorCols (colTensor e)

/-- The reducing member of a row: that of its first element, so that a row is never split (R233, R237; log entry 120). -/
def Tun.rowReducer (t : Tun) (e : BitVec 256) (row : Nat) : Nat := t.reducer e (row * t.rowWidth e)

/-- The reducing member of the elements of a segment that begins at an element (R233, R237). -/
def Tun.reducerAt (t : Tun) (e : BitVec 256) (i : Nat) : Nat :=
  if colSparse e then t.rowReducer e (i / t.rowWidth e) else t.reducer e i

/-- A row that a rank reduces, where it reduces any: the first of its partition, or of a piece it holds as replica 0. -/
def Tun.firstRow (t : Tun) (e : BitVec 256) (r : Nat) : Option Nat :=
  let cols := t.rowWidth e
  if colKind e = 1 then
    (t.job.shards.find? fun x => shTensor x == colTensor e && shRank x == r && shReplica x == 0).map fun x => shFirst x / cols
  else
    let ranks := t.groupRanks (colGroup e)
    let blocks := max (ceilDiv (colLen e) 64) 1
    let row := ceilDiv (64 * ceilDiv (memberOf ranks r * blocks) (max ranks.length 1)) cols
    if ranks.contains r && decide (row * cols < colLen e) && t.rowReducer e row == r then some row else none

/-- Whether a rank that reduces rows of a collective sends results to a holder: under REDSCAT_UPD the replica-0 holder to the
holders of the replicas of its pieces, under ALLRED_UPD every reducing member to every member that holds rows (R233). -/
def Tun.rowsGoTo (t : Tun) (e : BitVec 256) (r : Nat) (h : BitVec 256) : Bool :=
  shTensor h == colTensor e &&
    (if colKind e = 1 then
      t.job.shards.any fun x => shTensor x == colTensor e && shRank x == r && shReplica x == 0 && shFirst x == shFirst h
    else (t.firstRow e r).isSome && (t.groupRanks (colGroup e)).contains (shRank h))

/-- The last segments of row-form results that a die waits for on its entries of a tensor: one of each reducing member that
sends it results (R203, R237; log entry 120). -/
def Tun.lastsDue (t : Tun) (n tensor : Nat) : Nat :=
  match t.job.colls.find? fun p => colUpdates p.2 && colSparse p.2 && colTensor p.2 == tensor with
  | none => 1
  | some p =>
    let mine := t.job.shards.filter fun h => shTensor h == tensor && shRank h == t.rank && shDie h == n
    let from' := (List.range t.job.cluster.length).filter fun r => mine.any fun h => t.rowsGoTo p.2 r h
    max from'.length 1

/-- The ranks that hold a tensor's rows and get the results of this device's rows. -/
def Tun.rowHolders (t : Tun) (e : BitVec 256) : List Nat :=
  ((t.job.shards.filter fun h => t.rowsGoTo e t.rank h).map shRank).eraseDups

/-- The member from which a RING or STAGE result comes (R233). -/
def Tun.sender (t : Tun) (e : BitVec 256) : Nat :=
  let ranks := t.groupRanks (colGroup e)
  let n := max ranks.length 1
  let me := memberOf ranks t.rank
  if colKind e = 6 then ranks.getD ((me + n - 1) % n) t.rank
  else if colReverse e then ranks.getD (me + 1) t.rank else ranks.getD (me - 1) t.rank

/-- The reducing members of a bucket, to which its markers go (R236): the holders of replica 0 of a REDSCAT_UPD's tensor, and the
members of the other kinds' groups. -/
def Tun.markerRanks (t : Tun) (b : Nat) : List Nat :=
  ((t.job.colls.filter fun p => colBucketed p.2 && colBucket p.2 == b).flatMap fun p =>
    if colKind p.2 = 1 then (t.job.shards.filter fun h => shTensor h == colTensor p.2 && shReplica h == 0).map shRank
    else t.groupRanks (colGroup p.2)).eraseDups

/-! ### Sketches (R200, R233, R238)

The buffer of a SKETCH collective is the model's (DESIGN CHOICE, log entry 123): the M tensors of its bucket in the order of their
ids, and of each its pieces in the order of their members, dies and first elements, with the C column sums and the total of each. -/

/-- The M tensors of a bucket: those that its update collectives name. -/
def Tun.sketchTensors (t : Tun) (b : Nat) : List Nat :=
  ((t.job.colls.filter fun p => colUpdates p.2 && colBucket p.2 == b && field (Tbl.get 0 t.job.tensors (colTensor p.2)) 32 3 == 0).foldl
    (fun (m : Tbl Unit) p => Tbl.put m (colTensor p.2) ()) []).map Prod.fst

/-- The pieces of a tensor whose sums a SKETCH adds, in the order in which it adds them; the replicas of a piece hold the same sums,
and replica 0 gives them. -/
def Tun.sketchShards (t : Tun) (e : BitVec 256) (tensor : Nat) : List (BitVec 256) :=
  let ranks := t.groupRanks (colGroup e)
  ((t.job.shards.filter fun h => shTensor h == tensor && shReplica h == 0 && ranks.contains (shRank h)).foldl
    (fun (m : Tbl (BitVec 256)) h => Tbl.put m ((memberOf ranks (shRank h) * 8 + shDie h) * 2 ^ 40 + shFirst h) h) []).map Prod.snd

/-- A tensor's part of a SKETCH's buffer: where it begins, its columns, its pieces, and the rank that reduces it. -/
structure SketchRun where
  tensor : Nat
  base : Nat
  cols : Nat
  shards : List (BitVec 256)
  reducer : Nat
  deriving DecidableEq, Repr

/-- The elements of a tensor's part. -/
def SketchRun.len (r : SketchRun) : Nat := r.shards.length * (r.cols + 1)

/-- The parts of a SKETCH's buffer; tensor i of N is reduced by member ⌊i × n / N⌋. -/
def Tun.sketchRuns (t : Tun) (e : BitVec 256) : List SketchRun :=
  let ranks := t.groupRanks (colGroup e)
  let ts := t.sketchTensors (colBucket e)
  (((List.range ts.length).zip ts).foldl (fun (r : Nat × List SketchRun) p =>
    let x : SketchRun := { tensor := p.2, base := r.1, cols := t.tensorCols p.2, shards := t.sketchShards e p.2,
                           reducer := ranks.getD (p.1 * ranks.length / max ts.length 1) t.rank }
    (r.1 + x.len, r.2 ++ [x])) (0, [])).2

/-- The part of a SKETCH's buffer that an element lies in. -/
def Tun.sketchRun (t : Tun) (e : BitVec 256) (i : Nat) : Option SketchRun :=
  (t.sketchRuns e).find? fun r => decide (r.base ≤ i) && decide (i < r.base + r.len)

/-- The bytes of a row record (R237). -/
def recordBytes (cols : Nat) (e : BitVec 256) : Nat := 8 + cols * fmtBits (colIn e) / 8

/-- The elements of a piece: of a regenerated range, of row records, or of a run of codes. -/
def State.pieceCount (s : State) (u : Nat) (e : BitVec 256) (d : BitVec 512) : Nat :=
  let x := mdLen d * mdLines d
  if pieceRegen e d then x
  else if colSparse e then x / max (recordBytes ((s.tun u).rowWidth e) e) 1 * (s.tun u).rowWidth e
  else x * 8 / fmtBits (colIn e)

/-- The update table entry of a die that holds a range of a tensor whole (R240). -/
def State.regenEntry (s : State) (n u : Nat) (e : BitVec 256) (first count : Nat) : Option (Nat × BitVec 512) :=
  (s.upd n u).table.find? fun p => utTensor p.2 == colTensor e && decide (utFirst p.2 ≤ first)
    && decide (first + count ≤ utFirst p.2 + utCount p.2)

/-- Whether a launch that hands a piece to the hub keeps R224, R229, R233 and R240. A SKETCH takes its
contributions from UPD_OP 0x3 only (log entry 31). -/
def State.pieceLegal (s : State) (n u : Nat) (d : BitVec 512) : Bool :=
  let t := s.tun u
  let e := t.collAt (pieceColl d)
  let ranks := t.groupRanks (colGroup e)
  let me := memberOf ranks t.rank
  let count := s.pieceCount u e d
  decide (colKind e ≤ 7) && ranks.contains t.rank && (s.groupDies u (colGroup e)).contains n
    && decide (pieceFirst d + count ≤ colLen e)
    && (if pieceRegen e d then
          (match s.regenEntry n u e (mdSrcAddr d) count with
            | some p => utWfmt p.2 == colIn e
            | none => false)
        else mdSrcLvl d != 0 || winFmt ((s.ctx n u).win (mdSrcWin d)) == colIn e)
    && !(colKind e == 7 && (if colReverse e then me == 0 else me + 1 == ranks.length))

/-- The windows on other devices a RING or STAGE piece is delivered into, by rank × 8,192 + die × 1,024 +
window: the records of the collective that its elements meet, on the receiving device (R232). -/
def State.pieceFar (s : State) (u : Nat) (d : BitVec 512) : List Nat :=
  let t := s.tun u
  let e := t.collAt (pieceColl d)
  if colKind e = 6 ∨ colKind e = 7 then
    let first := pieceFirst d
    let count := s.pieceCount u e d
    let rs := (t.records e).filter fun r => decide (dlFirst r.2 < first + count) && decide (first < dlFirst r.2 + dlCount r.2)
    ((t.receivers e first).filter (· != t.rank)).flatMap fun r =>
      (rs.map fun x => r * 8192 + dlDie x.2 * 1024 + dlWin x.2).eraseDups
  else []

/-- The pieces a slice hands to the hub. -/
def slicePieces (c : Ctx) (s : Slice) : List (BitVec 512) :=
  ((launches s).map fun m => launchDesc c s m).filter fun d => mdDstLvl d == 4

/-- The far windows a slice's pieces need a credit for. -/
def State.sliceFar (s : State) (n u : Nat) (sl : Slice) : List Nat :=
  (slicePieces (s.ctx n u) sl).flatMap fun d => s.pieceFar u d

end Sys2Proof.Machine
end

