-- ==== Sys2Proof/Machine/Permute.lean ====
section
/-! DEFINITION. The permutation collective (R220, R250): the record stream of a die under a layout, what this device holds of
it, and records put into their places. Byte places within a die's record stream are the model's (log entry 38). -/

namespace Sys2Proof.Machine

/-! ### The record stream of a die -/

/-- The kind of a tensor of a job. -/
def kindOf (j : JobImage) (tensor : Nat) : Nat := field (Tbl.get 0 j.tensors tensor) 32 3

/-- The columns of a shard's matrix: its tensor's last extent. -/
def shardCols (j : JobImage) (h : BitVec 256) : Nat := max ((tensorDims (Tbl.get 0 j.tensors (shTensor h))).getLastD 1) 1

/-- The first row that a shard meets, and how many it meets. -/
def shardRows (j : JobImage) (h : BitVec 256) : Nat × Nat :=
  let cols := shardCols j h
  (shFirst h / cols, (shFirst h + shCount h - 1) / cols + 1 - shFirst h / cols)

/-- The blocks of a shard; the records of a granary tensor are the host's. -/
def shardBlocks (j : JobImage) (h : BitVec 256) : Nat := if kindOf j (shTensor h) = 4 then 0 else ceilDiv (shCount h) 64

/-- The bytes of one of its blocks (R181). -/
def shardBlockBytes (j : JobImage) (h : BitVec 256) : Nat := if kindOf j (shTensor h) = 0 then 512 else 640

/-- The bytes of its factor slot (R198). -/
def shardSlot (j : JobImage) (h : BitVec 256) : Nat :=
  if kindOf j (shTensor h) = 0 then slotBytes (shardRows j h).2 (shardCols j h) else 0

/-- The shards of a die of a rank in update table order, each with the place of its blocks in the die's record stream: every
shard's blocks, and after them its factor slot. -/
def recordStream (j : JobImage) (rank die : Nat) : List (Nat × BitVec 256) :=
  let hs := ((j.shards.filter fun h => shRank h == rank && shDie h == die).foldl (fun t h => Tbl.put t (shUt h) h) []).map Prod.snd
  (hs.foldl (fun (r : Nat × List (Nat × BitVec 256)) h =>
    (r.1 + shardBlocks j h * shardBlockBytes j h + shardSlot j h, r.2 ++ [(r.1, h)])) (0, [])).2

/-! ### What this device holds -/

/-- A run of a record stream, with its bytes where this device holds them. -/
abbrev Chunk := Nat × Nat × Option Bytes

/-- The piece of replica 0 in the layout in force that holds an element of a tensor; of a replicated tensor, whose pieces all are
that, the copy of the rank named, or else of rank 0. -/
def Tun.oldHolder (t : Tun) (pref tensor i : Nat) : Option (BitVec 256) :=
  let hs := (t.holders tensor i).filter fun e => shReplica e == 0
  (hs.find? fun e => shRank e == pref).or ((hs.find? fun e => shRank e == 0).or hs.head?)

/-- The entry of the layout in force that holds an element, where this device serves it: die, number and entry. -/
def State.oldEntry (s : State) (u pref tensor i : Nat) : Option (Nat × Nat × BitVec 512) :=
  match (s.tun u).oldHolder pref tensor i with
  | none => none
  | some h => if shRank h = (s.tun u).rank then some (shDie h, shUt h, Tbl.get 0 (s.upd (shDie h) u).table (shUt h)) else none

/-- The bytes of the block that holds an element, from the current keg or the current copy, where this device serves it. -/
def State.oldBlock (s : State) (u pref tensor i : Nat) : Option Bytes :=
  (s.oldEntry u pref tensor i).map fun q =>
    let b := (i - utFirst q.2.2) / 64
    s.readBlock q.1 u q.2.2 (s.readKeg q.1 u q.2.2 b) b

/-- The factor slot that the step reads of the entry that holds an element, where this device serves it. -/
def State.oldSlot (s : State) (u pref tensor i : Nat) : Option FactorSlot :=
  (s.oldEntry u pref tensor i).map fun q => (Tbl.get ({} : Factors) (s.upd q.1 u).factors q.2.1).slot (s.tun u).stepNow

/-- The bytes of a word. -/
def wordBytes (w : Word32) : Bytes := bytesOfNat 4 w.toNat

/-- The runs of a shard that starts at a place of a record stream: its blocks; the header of its factor slot; a word for each
row, from the holder of the row; and the columns, from the holder of the first row. pref is the rank whose own copy serves it. -/
def State.shardChunks (s : State) (u pref : Nat) (j : JobImage) (at' : Nat) (h : BitVec 256) : List Chunk :=
  let size := shardBlockBytes j h
  let nb := shardBlocks j h
  let blocks := (List.range nb).map fun b => (at' + size * b, size, s.oldBlock u pref (shTensor h) (shFirst h + 64 * b))
  if shardSlot j h = 0 then blocks
  else
    let cols := shardCols j h
    let (r0, rows) := shardRows j h
    let o := at' + size * nb
    let head := s.oldSlot u pref (shTensor h) (r0 * cols)
    blocks
      ++ [(o, 64, head.map fun f => wordBytes f.fbar ++ bytesOfNat 4 f.folds ++ List.replicate 56 0)]
      ++ ((List.range rows).map fun i =>
          (o + 64 + 4 * i, 4, (s.oldSlot u pref (shTensor h) ((r0 + i) * cols)).map fun f => wordBytes (Tbl.get 0 f.fr (r0 + i))))
      ++ [(o + 64 + 4 * rows, 4 * cols, head.map fun f => (List.range cols).flatMap fun k => wordBytes (Tbl.get 0 f.fc k))]

/-- The runs of a die's record stream under a layout. -/
def State.streamChunks (s : State) (u pref : Nat) (j : JobImage) (rank die : Nat) : List Chunk :=
  (recordStream j rank die).flatMap fun p => s.shardChunks u pref j p.1 p.2

/-- Runs that follow one another joined, up to the 64 KiB of a segment. -/
def joinRuns : List (Nat × Bytes) → List (Nat × Bytes)
  | [] => []
  | x :: xs =>
    match joinRuns xs with
    | [] => [x]
    | y :: ys => if x.1 + x.2.length = y.1 ∧ x.2.length + y.2.length ≤ 65536 then (x.1, x.2 ++ y.2) :: ys else x :: y :: ys

/-- A run cut where it is longer than a segment. -/
def cutRun (x : Nat × Bytes) : List (Nat × Bytes) :=
  (List.range (ceilDiv x.2.length 65536)).map fun i => (x.1 + 65536 * i, (x.2.drop (65536 * i)).take 65536)

/-- The runs that this device holds, joined and cut. -/
def heldRuns (cs : List Chunk) : List (Nat × Bytes) :=
  (joinRuns (cs.filterMap fun c => c.2.2.map fun b => (c.1, b))).flatMap cutRun

/-- The next segment number towards a rank for collective segments. -/
def Tun.nextSeq (t : Tun) (rank kind : Nat) : Nat × Tun :=
  let k := rank * 16 + kind
  let x := Tbl.get 0 t.seqs k
  (x, { t with seqs := t.seqs.put k ((x + 1) % 2 ^ 32) })

/-- Permutation segments numbered and staged. -/
def Tun.stagePerms (t : Tun) (ps : List Perm) : Tun :=
  ps.foldl (fun t p =>
    let q := t.nextSeq p.rank 3
    { q.2 with perms := q.2.perms ++ [{ p with seq := q.1 }] }) t

/-- A range taken out of the ranges still to come. -/
def cutDue (n lo hi : Nat) (due : List (Nat × Nat × Nat)) : List (Nat × Nat × Nat) :=
  due.flatMap fun d =>
    if d.1 ≠ n ∨ hi ≤ d.2.1 ∨ d.2.2 ≤ lo then [d]
    else [(d.1, d.2.1, min lo d.2.2), (d.1, max hi d.2.1, d.2.2)].filter fun x => decide (x.2.1 < x.2.2)

/-! ### Records put into their places -/

/-- A write of a permutation: the address in the die's cellar, the bytes, and whether they are records. -/
abbrev PermWrite := Nat × Bytes × Bool

/-- The part of bytes at lo that falls into [a, b), moved to its place from base on. -/
def partAt (lo : Nat) (bs : Bytes) (a b base : Nat) : List (Nat × Bytes) :=
  let x := max lo a
  let y := min (lo + bs.length) b
  if y ≤ x then [] else [(base + (x - a), (bs.drop (x - lo)).take (y - x))]

/-- Where bytes of a record stream go: blocks into keg g, and into the other keg too where both holds; a factor slot into slot g.
An embedding or frozen entry has its records in both kegs in a re-sharding step. -/
def permWrites (j : JobImage) (rank die g : Nat) (both : BitVec 512 → Bool) (lo : Nat) (bs : Bytes) : List PermWrite :=
  (recordStream j rank die).flatMap fun p =>
    let e := shardEntry j p.2
    let o := p.1 + shardBlocks j p.2 * shardBlockBytes j p.2
    let kegs := if both e then [g, g + 1] else [g]
    (kegs.flatMap fun k => (partAt lo bs p.1 o (utKegAddr e k)).map fun w => (w.1, w.2, true))
      ++ (partAt lo bs o (o + shardSlot j p.2) (utFact e + g % 2 * slotLen e)).map fun w => (w.1, w.2, false)

/-- The tun layout of this device's rank in a package, where it brings one (R249); otherwise the layout in force stays. It stays in
force until the next start (DESIGN CHOICE, log entry 149). -/
def Tun.layUnder (t : Tun) (pkg : LayoutPackage) : Option (BitVec 1024) :=
  ((pkg.rankMap.find t.rank).bind pkg.layouts.find).or t.layNow

/-- The layout under which a tun's permuted records are written: the package's in a re-sharding step (R250), else that in force. -/
def Tun.permLay (t : Tun) : Option (BitVec 1024) :=
  match t.reshard, t.package with
  | .no, _ => t.layNow
  | _, none => t.layNow
  | _, some pkg => t.layUnder pkg

/-- The writes made, and their record bytes counted (R257). -/
def State.putRecords (s : State) (u n : Nat) (ws : List PermWrite) : State :=
  let now := (s.tun u).layNow
  let s := s.setLay u (s.tun u).permLay
  let s := ws.foldl (fun (s : State) w => s.cellarWrite u n w.1 w.2.1) s
  let s := s.setLay u now
  let t := s.tun u
  let k := ws.foldl (fun x w => if w.2.2 then x + w.2.1.length else x) 0
  s.setTun u { t with coll := { t.coll with permuteBytes := t.coll.permuteBytes + k } }

/-- The places that the writes wait for (R172). -/
def State.permHeld (s : State) (u n : Nat) (ws : List PermWrite) : List Loc :=
  let s := s.setLay u (s.tun u).permLay
  ws.flatMap fun w => s.heldWrite u n w.1 w.2.1.length

/-! ### The re-sharding step's layout -/

/-- The writes of a re-sharding step for bytes of a die's new record stream: into the keg and slot that the step's bung makes
current, and of an embedding or a frozen entry into the other copy too (R250). -/
def Tun.reshardWrites (t : Tun) (j : JobImage) (rank die lo : Nat) (bs : Bytes) : List PermWrite :=
  permWrites j rank die (t.stepNow + 1) (fun e => utKind e == 2 || utFrozen e) lo bs

/-- The writes of a repair: into the current keg and slot (R220). -/
def Tun.repairWrites (t : Tun) (die lo : Nat) (bs : Bytes) : List PermWrite :=
  permWrites t.job t.rank die t.stepNow (fun _ => false) lo bs

/-- The factors of the M entries of a die read again from their masters, as a repair has changed them. -/
def State.reloadFactors (s : State) (n u : Nat) : State :=
  let s := s.noteSlots n u
  let x := s.upd n u
  s.setUpd n u { x with factors := (x.table.filter fun p => utKind p.2 == 0).map fun p => (p.1, s.masterFactors n u p.2) }

/-! ### Digests that differ (R220) -/

/-- Whether a rank's device digest differs from that of a reference whose digest is here. -/
def Tun.differsFrom (t : Tun) (r ref : Nat) : Bool :=
  match t.digests.find ref with
  | some q => q.take 64 != (Tbl.get [] t.digests r).take 64
  | none => false

/-- The references from whose digests a member's differs, and whether its digest of the replicated entries differs from rank 0's. -/
def Tun.differs (t : Tun) (r : Nat) : List Nat × Bool :=
  ((t.referencesFor r).filter (t.differsFrom r),
    match t.digests.find 0 with
    | some q => q.drop 64 != (Tbl.get [] t.digests r).drop 64
    | none => false)

/-- The ranks that differ. -/
def Tun.divergent (t : Tun) : List Nat :=
  (t.digests.map Prod.fst).filter fun r => !((t.differs r).1.isEmpty) || (t.differs r).2

/-- The records with which this device, as a reference from which a rank differs, repairs it: the blocks and factor slots, from its
current keg, of the pieces of the rank whose replica 0 it holds, or, for the digest of the replicated entries, of those. -/
def State.repairPerms (s : State) (u r : Nat) : List Perm :=
  let t := s.tun u
  let x := t.differs r
  (List.range 8).flatMap fun die =>
    let cs := (recordStream t.job r die).flatMap fun p =>
      let k := kindOf t.job (shTensor p.2)
      if (k = 3 ∧ x.2 ∧ t.rank = 0) ∨ (k ≠ 3 ∧ x.1.contains t.rank ∧ t.referenceOf p.2 = some t.rank ∧ shReplica p.2 ≠ 0) then s.shardChunks u 0 t.job p.1 p.2
      else []
    (heldRuns cs).map fun x => { rank := r, die := die, at' := x.1, data := x.2 }

/-- The digests that are here compared (R220): a member that differs newly is counted and reported, the step-start slice waits, and
the reference sends its shard. A member that has been repaired sends its digest again. -/
def State.compareDigests (s : State) (u : Nat) : State :=
  let t := s.tun u
  if t.digests.isEmpty then s else
  let bad := t.divergent
  let new := bad.filter fun r => !(t.digestBad.contains r)
  let t := { t with digestBad := bad, commit := { t.commit with digestMismatches := t.commit.digestMismatches + new.length } }
  let t := (new.filter (· != t.rank)).foldl (fun t r => t.stagePerms ((s.setTun u t).repairPerms u r)) t
  new.foldl (fun (s : State) r => s.event u 0x17 [t.bung.step, r]) (s.setTun u t)

/-- The ranges of cellar an update table's records hold on a die in keg g; an embedding's copies are both current. -/
def kegRanges (table : Tbl (BitVec 512)) (g : Nat) : List (Nat × Nat) :=
  (table.filter fun p => utKind p.2 != 4).flatMap fun p =>
    let e := p.2
    let len := entryBlocks e * utBlockBytes e
    let cols := max (utCols e) 1
    let rows := (utFirst e + utCount e - 1) / cols + 1 - utFirst e / cols
    (if utKind e = 2 then [(utKegAddr e 0, len), (utKegAddr e 1, len)] else [(utKegAddr e g, len)])
      ++ if utKind e = 0 then [(utFact e + g % 2 * slotBytes rows cols, slotBytes rows cols)] else []

/-- The ranges of new embedding and frozen entries, both kegs. -/
def fixedRanges (table : Tbl (BitVec 512)) : List (Nat × Nat) :=
  (table.filter fun p => utKind p.2 != 4 && (utKind p.2 == 2 || utFrozen p.2)).flatMap fun p =>
    let len := entryBlocks p.2 * utBlockBytes p.2
    [(utKegAddr p.2 0, len), (utKegAddr p.2 1, len)]

/-- Whether a package's new places meet the data that its re-sharding step reads, where that step follows the bung of step t (R249). -/
def State.packageMeets (s : State) (u t : Nat) (pkg : LayoutPackage) : Bool :=
  let j := relaidJob (s.tun u).job pkg
  let rank := (pkg.rankMap.find (s.tun u).rank).getD 64
  (s.diesOf u).any fun n =>
    let old := kegRanges (s.upd n u).table (t + 1)
    let new := kegRanges (jobEntries j rank n) (t + 2) ++ fixedRanges (jobEntries j rank n)
    new.any fun a => old.any fun b => rangesMeet a.1 a.2 b.1 b.2

end Sys2Proof.Machine
end

