-- ==== Sys2Proof/Machine/SliceOps.lean ====
section
/-! DEFINITION. The time of a die (R52 to R55, R81): bushels, the slice plan, the late-work rule, switches and the
fixed slices of dies that hold a sealed tun. A unit of the plan is 4 µs, 5,000 cycles. -/

namespace Sys2Proof.Machine

/-- The cycles of a bushel. -/
def bushelCycles : Nat := 1280000
/-- The cycles of a plan unit. -/
def unitCycles : Nat := 5000
/-- The cycles of a switch (R53). -/
def switchCycles : Nat := 125

/-- Whether a tun can use a share of a die: loaded, keyed, and neither halted nor stopped (R54). -/
def State.canRun (s : State) (n u : Nat) : Bool :=
  let t := s.tun u
  let c := s.ctx n u
  t.loaded && t.ts.isSome && !t.stopped && c.resident && !c.halted && !c.stopped

/-- A tun's debt on a die. -/
def State.debt (s : State) (n u : Nat) : Nat := (s.ctx n u).stall.debt

/-- A tun's debt on a die replaced. -/
def State.setDebt (s : State) (n u x : Nat) : State :=
  let c := s.ctx n u
  s.setCtx n u { c with stall := { c.stall with debt := x } }

/-- The die's slice state replaced. -/
def State.setSlice (s : State) (n : Nat) (x : SliceState) : State := s.setDie n { s.die n with slice := x }

/-- What a tun that was stopped or halted between seal points has left on the array is gone when another tun's slice begins:
its tiles that no drain has taken, and the values of their banks (R51; log entry 97). -/
def Die.clearLeft (d : Die) (u : Nat) : Die :=
  let gone (v : Nat) : Bool := v != u && (!((d.ctx v).resident) || (d.ctx v).stopped || (d.ctx v).halted)
  let left := d.tiles.filter fun t => gone t.tun && !t.drained
  let clear (b : Nat) (x : Bank) : Bank := if left.any fun t => t.bank == b then {} else x
  { d with tiles := d.tiles.filter (fun t => !(gone t.tun) || t.drained), bank0 := clear 0 d.bank0, bank1 := clear 1 d.bank1 }

/-- A switch into a tun: its slice begins, its next slices are fetched in the switch, and the domains of its seal record are
woken (R53). -/
def State.switchIn (s : State) (n u i start nominal target : Nat) : State :=
  let d := s.die n
  let d := d.wakeAll (d.ctx u).sealRec.awake
  let d := (d.clearLeft u).setCtx u { d.ctx u with fetchWait := 0 }
  s.setDie n { d with slice := { d.slice with cur := some u, switching := true, idx := i, start := start,
                                              nominalEnd := nominal, target := target, reached := false, idle := false } }

/-- The die without a slice until the next bushel, or until the nominal end of a slice that is skipped under R55. -/
def State.idleDie (s : State) (n i nominal : Nat) : State :=
  let x := (s.die n).slice
  s.setSlice n { x with cur := none, switching := false, idx := i, nominalEnd := nominal, idle := true }

/-- The shares of a pooled die in their order, each with its tun, its place in the plan and its nominal end, the one before
having stopped in cycle start: the first whose tun can run and is not wholly owed runs (R54). last is the nominal end after
which the die idles when none does. -/
def State.runPooled (s : State) (n start last : Nat) : List (Nat × Nat × Nat) → State
  | [] => s.idleDie n (s.plan n).length last
  | (u, i, nominal) :: rest =>
    if !(s.canRun n u) then s.runPooled n start last rest
    else
      let owed := s.debt n u
      let target := max start (nominal - owed)
      let s := s.setDebt n u (owed - (nominal - target))
      if target = start then s.runPooled n start last rest
      else s.switchIn n u i start nominal target

/-- The shares of a plan in the bushel that begins at base, from entry i on. -/
def planShares (l : List (Nat × Nat)) (base i : Nat) : List (Nat × Nat × Nat) :=
  ((l.zip (List.range l.length)).drop i).map fun p => (p.1.1, p.2, base + unitCycles * p.1.2)

/-- The shares a pooled die may run from plan entry i of the bushel that begins at base: those of this bushel, and, while a
tun of the plan can run, those of as many bushels after it as what its tuns owe may use up (R54). -/
def State.sharesFrom (s : State) (n base start i : Nat) : List (Nat × Nat × Nat) × Nat :=
  let l := s.plan n
  let ready := l.filter fun p => s.canRun n p.1
  let more := if ready.isEmpty then 0
    else (ready.foldl (fun x p => x + s.debt n p.1) 0 + (start - base)) / bushelCycles + 2
  (planShares l base i ++ (List.range more).flatMap fun k => planShares l (base + bushelCycles * (k + 1)) 0,
   base + bushelCycles * (more + 1))

/-- The slices of a die that holds a sealed tun from plan entry i on: one that cannot run keeps its time (R55). -/
def State.runSealed (s : State) (n base start : Nat) (l : List (Nat × Nat)) (i : Nat) : State :=
  match l with
  | [] => s.idleDie n i (base + bushelCycles)
  | (u, unit) :: _ =>
    let nominal := base + unitCycles * unit
    if s.canRun n u then s.switchIn n u i start nominal (nominal - unitCycles)
    else s.idleDie n i nominal

/-- The slices of a die from plan entry i of the bushel that begins at base. -/
def State.runPlan (s : State) (n base start i : Nat) : State :=
  if s.sealedDie n then s.runSealed n base start ((s.plan n).drop i) i
  else
    let r := s.sharesFrom n base start i
    s.runPooled n start r.2 r.1

/-- The first cycle of the bushel a die's slice belongs to. -/
def State.sliceBase (s : State) (n : Nat) : Nat :=
  let x := (s.die n).slice
  match (s.plan n)[x.idx]? with
  | some p => x.nominalEnd - unitCycles * p.2
  | none => x.bushelAt

/-- The next slice of a die after the present one has stopped in cycle stop. Past the last entry, a pooled die goes on with the
next bushel's shares at once, as long as a tun of its plan can run (R54); a die that holds a sealed tun begins the plan again
when the next bushel has begun (R55). -/
def State.nextSlice (s : State) (n stop : Nat) : State :=
  let x := (s.die n).slice
  let base := s.sliceBase n
  if (s.plan n).length ≤ x.idx + 1 then
    if base + bushelCycles ≤ stop || (!(s.sealedDie n) && (s.plan n).any fun p => s.canRun n p.1) then
      s.runPlan n (base + bushelCycles) stop 0
    else s.idleDie n (x.idx + 1) (base + bushelCycles)
  else s.runPlan n base stop (x.idx + 1)

/-- A slice that has reached a seal point at or after its target stops there: on a pooled die the overrun becomes
debt and the next slice begins; on a sealed die, or while the plan is suspended, the die is clock-gated (R54, R55,
R81). -/
def State.sliceStop (s : State) (n u stop : Nat) : State :=
  let x := (s.die n).slice
  if x.suspended || s.sealedDie n then s.setSlice n { x with idle := true, reached := true }
  else
    let owed := s.debt n u + (stop - x.target)
    let s := s.setDebt n u owed
    let s := if 80000 < owed then s.event u 0x15 [n, owed] else s
    s.nextSlice n stop

/-- A seal slice of the running tun has issued: the slice ends if its target is reached. -/
def State.sealPassed (s : State) (n u : Nat) : State :=
  let d := s.die n
  if d.slice.cur = some u ∧ (d.slice.reached ∨ d.slice.suspended ∨ d.slice.target ≤ d.cycle) then s.sliceStop n u d.cycle else s

/-- A bushel begins on a die: its boundary moves on; a die that is idle for the rest of the last bushel, or whose plan was suspended and
whose tun has stopped, begins the plan. A bushel that begins before that tun has stopped carries the suspension on to the next one (R81;
DESIGN CHOICE, log entry 150). -/
def State.bushelOn (s : State) (n k : Nat) : State :=
  let d := s.die n
  let x := d.slice
  if d.lost ∨ (x.bushel ≠ 0 ∧ k ≤ x.bushel) then s
  else
    let at' := if x.bushel = 0 then d.cycle else x.bushelAt + bushelCycles * (k - x.bushel)
    let free := x.idle && (x.suspended || x.bushel == 0 || decide (x.nominalEnd ≤ at'))
    let s := s.setDie n { d with cycle := max d.cycle at',
                                 slice := { x with bushelAt := at', bushel := k, suspended := x.suspended && !free } }
    if free then s.runPlan n at' (max d.cycle at') 0 else s

/-- A sealed slice's nominal end: a tun that has not reached a seal point is stopped as an overrun, its banks
discarded, unless the device throttles, when it runs on to its next seal point; the next slice begins (R55, R393). -/
def State.sealedEnd (s : State) (n : Nat) : State :=
  let d := s.die n
  let x := d.slice
  if !(s.sealedDie n) || x.suspended || (x.cur.isNone && !x.idle) then s
  else
    let stop := max d.cycle x.nominalEnd
    match x.cur with
    | none => (s.setDie n { d with cycle := stop }).nextSlice n stop
    | some u =>
      if x.idle || !(s.canRun n u) then (s.setDie n { d with cycle := stop }).nextSlice n stop
      else if s.pwr.throttle ≠ 0 then s
      else
        let d := { d with cycle := stop, bank0 := {}, bank1 := {}, tiles := d.tiles.filter fun t => t.tun != u }
        ((s.setDie n d).programFault n u .sealedOverrun).nextSlice n stop

end Sys2Proof.Machine
end

