-- ==== Sys2Proof/Machine/Operands.lean ====
section
/-! DEFINITION. The operands of a die slice: the slice at the program's place, what the gate is told of the device,
the launches that R160 refuses (R41, R160, R161, R393). -/

namespace Sys2Proof.Machine

/-! ### Launches refused (R160) -/

/-- The offsets of the lines of one side of a transfer. -/
def lineStarts (addr : Nat) (pitch : Int) (lines : Nat) : Int × Int :=
  let last := (addr : Int) + pitch * ((lines : Int) - 1)
  (min (addr : Int) last, max (addr : Int) last)

/-- Whether lines of len bytes stay in [0, size). -/
def linesInside (addr : Nat) (pitch : Int) (lines len size : Nat) : Bool :=
  let r := lineStarts addr pitch lines
  len == 0 || lines == 0 || (decide (0 ≤ r.1) && decide (r.2 + len ≤ size))

/-- Whether lines of a transfer stay inside the granary map: each line's pages are mapped. -/
def Tun.granaryInside (t : Tun) (addr : Nat) (pitch : Int) (lines len : Nat) : Bool :=
  (List.range lines).all fun i =>
    let a := (addr : Int) + pitch * i
    len == 0 || (decide (0 ≤ a) && (List.range (((a.toNat + len - 1) / 4096) + 1 - a.toNat / 4096)).all fun k =>
      (t.granaryAt ((a.toNat / 4096 + k) * 4096)).isSome)

/-- The elements a re-tiling side names stay in the feed window: lines of count elements from (i0, κ0). The rows or columns are
those the window has places for, and the inner indices those whose bytes it holds (R156, R158, R160). -/
def feedInside (w : BitVec 128) (xform addr count lines : Nat) : Bool :=
  let i0 := addr % 512
  let k0 := addr / 512 % 16384
  let di := if xform = 2 then count else lines
  let dk := if xform = 2 then lines else count
  di == 0 || dk == 0 || (decide (i0 + di ≤ winExtMn w)
    && decide ((feedIndex w (i0 + di - 1) (k0 + dk - 1) + 1) * fmtBits (winFmt w) ≤ 8 * winBytes w))

/-- Whether a line of a side of a launch at the cellar of a die meets a keg, to which the stream has no path (R181, R184;
DEDUCED, log entry 133). -/
def State.meetsKeg (s : State) (u n addr : Nat) (pitch : Int) (lines len : Nat) : Bool :=
  let ks := ((s.upd n u).table.filter fun p => utKind p.2 != 4).flatMap fun p =>
    (List.range 2).map fun g => (utKegAddr p.2 g, entryBlocks p.2 * utBlockBytes p.2)
  let r := lineStarts addr pitch lines
  (ks.any fun k => decide (r.1 < k.1 + k.2) && decide ((k.1 : Int) < r.2 + len))
    && (List.range lines).any fun i =>
      let a := lineAt addr pitch i
      ks.any fun k => decide (a < k.1 + k.2) && decide (k.1 < a + len)

/-- Whether a descriptor's bytes lie where it may reach: inside the window it names, or inside the tun's cellar or
granary share (R160). -/
def State.launchInside (s : State) (n u : Nat) (d : BitVec 512) : Bool :=
  let t := s.tun u
  let c := s.ctx n u
  let len := mdLen d
  let lines := mdLines d
  let ws := c.win (mdSrcWin d)
  let wd := c.win (mdDstWin d)
  let x := mdXform d
  let count := 8 * len / max (fmtBits (winFmt ws)) 1
  let src := match mdSrcLvl d with
    | 0 => if x = 3 then feedInside ws x (mdSrcAddr d) count lines
           else linesInside (mdSrcAddr d) (mdSrcPitch d) lines len (winBytes ws)
    | 1 => if mdDstLvl d = 4 && pieceRegen (t.collAt (pieceColl d)) d then true
           else linesInside (mdSrcAddr d) (mdSrcPitch d) lines len (s.cellarSize u (mdSrcDie d))
             && !(s.meetsKeg u (mdSrcDie d) (mdSrcAddr d) (mdSrcPitch d) lines len)
    | 2 => t.granaryInside (mdSrcAddr d) (mdSrcPitch d) lines len
    | _ => true
  let dst := match mdDstLvl d with
    | 0 => if x = 1 ∨ x = 2 then feedInside wd x (mdDstAddr d) count lines
           else linesInside (mdDstAddr d) (mdDstPitch d) lines len (winBytes wd)
    | 1 => linesInside (mdDstAddr d) (mdDstPitch d) lines len (s.cellarSize u (mdDstDie d))
             && !(s.meetsKeg u (mdDstDie d) (mdDstAddr d) (mdDstPitch d) lines len)
    | 2 => t.granaryInside (mdDstAddr d) (mdDstPitch d) lines len
    | 3 => linesInside (mdDstAddr d) (mdDstPitch d) lines len (winBytes ((s.ctx (mdDstDie d) u).win (mdDstWin d)))
    | _ => true
  src && dst

/-- The movers whose launch a slice has refused. -/
def State.voids (s : State) (n u : Nat) (sl : Slice) : List Nat :=
  (launches sl).filter fun m => !(s.launchInside n u (launchDesc (s.ctx n u) sl m))

/-! ### What the gate is told -/

/-- A tun's bound on outstanding launches and the tuns that share it (R161): a sealed tun's own quota on a shared
die, and the remainder for the pooled tuns. -/
def State.quota (s : State) (n u : Nat) : Nat × List Nat :=
  let us := s.tunsOn n
  let sealedOnes := us.filter fun v => tlSealed (s.lay v)
  if decide (us.length ≤ 1) || sealedOnes.isEmpty then (512, us)
  else if tlSealed (s.lay u) then (tlMovers (s.lay u), [u])
  else (512 - sealedOnes.foldl (fun x v => x + tlMovers (s.lay v)) 0, us.filter fun v => !(tlSealed (s.lay v)))

/-- Whether a cycle is one in which throttle level h holds issue (R393): the last h of each 16. -/
def throttledAt (h cycle : Nat) : Bool := decide (16 - h ≤ cycle % 16)

/-- Whether a launch may write the window of another die that it names: a defined window, which starts at the first byte of
its line (R155, R156). -/
def State.farLegal (s : State) (u : Nat) (d : BitVec 512) : Bool :=
  let w := (s.ctx (mdDstDie d) u).win (mdDstWin d)
  mdDstLvl d != 3 || (winLvl w != 0 && winByte w == 0)

/-- What the gate is told for a slice of tun u on die n. -/
def State.gateIn (s : State) (n u : Nat) (sl : Slice) : GateIn :=
  let q := s.quota n u
  let ns := s.diesOf u
  { die := n, tun := u, sh := s.share u, peers := ns.filter (· != n), arrives := ns.map fun m => (s.ctx m u).arrives,
    coefs := (s.tun u).coefs, quota := q.1, pool := q.2, throttled := throttledAt s.pwr.throttle (s.die n).cycle,
    collIllegal := (slicePieces (s.ctx n u) sl).any fun d => !(s.pieceLegal n u d),
    collBlocked := (s.sliceFar n u sl).any (fun k => (s.tun u).farSpent.contains k),
    farIllegal := (launches sl).any (fun m => !(s.farLegal u (launchDesc (s.ctx n u) sl m))), ringOff := s.ringOff }

end Sys2Proof.Machine
end

