-- ==== Sys2Proof/Machine/RepairOps.lean ====
section
/-! DEFINITION. Repairs (R72, R169, R170, R174, R179, R360): the repair log, the rows that wait for their copy at a
seal point, and an uncorrectable error met again. -/

namespace Sys2Proof.Machine

/-- The thing an entry repairs: the die of an ARR_REPAIR record, or the whole record (R72, R179, R330). -/
def RepairEntry.key (e : RepairEntry) : Nat × Nat :=
  if e.type = 0x10 then (e.type, field e.body 140 3) else (e.type, e.body.toNat)

/-- The repairs of a log merged: of the entries for one thing, the newest (R360). -/
def mergeRepairs (l : List RepairEntry) : List RepairEntry :=
  l.foldl (fun l e => (l.filter fun x => x.key != e.key) ++ [e]) []

/-- Whether half B of the repair log is the one in use: the half whose header stands and has the higher generation (R360). -/
def Flash.useB (f : Flash) : Bool :=
  match f.halfA.generation, f.halfB.generation with
  | some a, some b => decide (a < b)
  | none, some _ => true
  | _, none => false

/-- A half of the repair log. -/
def Flash.half (f : Flash) (b : Bool) : LogHalf := if b then f.halfB else f.halfA

/-- A half replaced. -/
def Flash.setHalf (f : Flash) (b : Bool) (h : LogHalf) : Flash := if b then { f with halfB := h } else { f with halfA := h }

/-- The repairs that the half in use holds. -/
def Flash.repairs (f : Flash) : List RepairEntry := (f.half f.useB).entries

/-- An entry appended to a half. -/
def Flash.append (f : Flash) (b : Bool) (e : RepairEntry) : Flash :=
  f.setHalf b { f.half b with entries := (f.half b).entries ++ [e] }

/-- A compaction begins once the half in use has 6,144 entries, its header among them: the other half is erased and gets the merged
repairs. -/
def Flash.compact (f : Flash) : Flash :=
  if f.compacting || decide (f.repairs.length < 6143) then f
  else { f.setHalf (!f.useB) { entries := mergeRepairs f.repairs } with compacting := true }

/-- A compaction ends with the header, of the next generation. After which repair it is over is a free value, and it is over before the half
in use is full (log entry 147). -/
def Flash.headerLast (f : Flash) : Flash :=
  if f.compacting && (Config.openNat 30 f.repairs.length % 2 == 0 || decide (8191 ≤ f.repairs.length)) then
    { f.setHalf (!f.useB) { f.half (!f.useB) with generation := (f.half f.useB).generation.map (· + 1) } with compacting := false }
  else f

/-- A repair logged: into the half in use, and during a compaction into both (R360). -/
def Flash.log (f : Flash) (e : RepairEntry) : Flash :=
  let f := if f.compacting then f.append (!f.useB) e else f
  (f.append f.useB e).compact.headerLast

/-- An entry appended to the repair log (R360). -/
def State.logRepair (s : State) (type : Nat) (body : BitVec 192) : State :=
  { s with flash := s.flash.log { type := type, body := body } }

/-- A CDS_ROW_REPAIR record (R179). -/
def rowRecord (n : Nat) (r : RowRepair) (done : Bool) : BitVec 192 :=
  BitVec.ofNat 192 (r.lvl % 4 + n % 8 * 2 ^ 2 + r.unit % 64 * 2 ^ 5 + r.row % 2 ^ 23 * 2 ^ 11 + (if done then 2 ^ 34 else 0))

/-- The spare rows of a bank: 8 in scratchpad, 32 in loft (R174). -/
def spareRows (lvl : Nat) : Nat := if lvl = 0 then 8 else 32

/-- A scratchpad or loft row queued for its copy (R174). With no spare left in its bank it goes to the log as not in
place, and an event is posted, whose code is a free value. -/
def State.queueRow (s : State) (n : Nat) (r : RowRepair) : State :=
  let d := s.die n
  if d.rowsQueued.contains r then s
  else
    let key := 64 * r.lvl + r.unit
    if Tbl.get 0 d.sparesUsed key < spareRows r.lvl then
      s.setDie n { d with rowsQueued := d.rowsQueued ++ [r], sparesUsed := Tbl.modify 0 d.sparesUsed key (· + 1) }
    else (s.logRepair 0x11 (rowRecord n r false)).deviceEvent (Config.openNat 13 0) [n, r.lvl, r.unit, r.row]

/-- The rows a die copies to spares at a seal slice hold it 128 cycles, counted as CDS_STALL_SEAL; each goes to the
repair log (R174). -/
def State.copyRows (s : State) (n u : Nat) : State :=
  let d := s.die n
  if d.rowsQueued.isEmpty then s
  else
    let c := d.ctx u
    let s := d.rowsQueued.foldl (fun (s : State) r => s.logRepair 0x11 (rowRecord n r true)) s
    s.setDie n { (d.setCtx u { c with stall := { c.stall with sealed := c.stall.sealed + 128 } }) with
      cycle := d.cycle + 128, rowsQueued := [] }

/-- An uncorrectable error noted at a place: whether it failed there in an earlier attempt of the step (R170). -/
def State.noteUe (s : State) (u key : Nat) : State × Bool :=
  let t := s.tun u
  let a := t.step.attempt
  (s.setTun u { t with ueSeen := (key, a) :: t.ueSeen }, t.ueSeen.any fun p => p.1 == key && decide (p.2 < a))

end Sys2Proof.Machine
end

