-- ==== Sys2Proof/Machine/MoverOps.lean ====
section
/-! DEFINITION. What the data movers do (R159, R160, R176, R177): the bytes of a source, the writes of a
destination, re-tiling, granary pages, and the completion of a launch. -/

namespace Sys2Proof.Machine

/-- The codes packed in a run of bytes (R88). -/
def unpackCodes (bits : Nat) (bs : Bytes) : List Nat :=
  (List.range (8 * bs.length / max bits 1)).map fun i => bitsOf (Bytes.toNat bs) (i * bits) bits

/-- The outstanding launch of a tun's slot on a die. -/
def Die.mov (d : Die) (u slot : Nat) : Option MovJob := d.movs.find? fun j => j.tun == u && j.slot == slot

/-- A launch replaced by what it has become. -/
def Die.putMov (d : Die) (j : MovJob) : Die :=
  { d with movs := d.movs.map fun x => if x.tun = j.tun ∧ x.slot = j.slot then j else x }

/-- A launch that is over: no other waits for it any longer. -/
def Die.dropMov (d : Die) (u slot : Nat) : Die :=
  { d with movs := (d.movs.filter fun j => !(j.tun == u && j.slot == slot)).map fun j =>
      { j with after := j.after.filter (· != 512 * u + slot) } }

/-! ### Granary pages (R176, R177) -/

/-- The tun-local pages a granary side of a descriptor touches, in order. -/
def granaryPages (addr : Nat) (pitch : Int) (lines len : Nat) : List Nat :=
  ((List.range lines).flatMap fun i =>
    let a := lineAt addr pitch i
    if len = 0 then [] else (List.range ((a + len - 1) / 4096 + 1 - a / 4096)).map fun k => a / 4096 + k).eraseDups

/-- The granary pages a launch reads. -/
def movPages (d : BitVec 512) : List Nat :=
  if mdSrcLvl d = 2 then granaryPages (mdSrcAddr d) (mdSrcPitch d) (mdLines d) (mdLen d) else []

/-- The granary pages a launch writes. -/
def movPagesOut (d : BitVec 512) : List Nat :=
  if mdDstLvl d = 2 then granaryPages (mdDstAddr d) (mdDstPitch d) (mdLines d) (mdLen d) else []

/-- The page reads of a launch in flight. -/
def MovJob.pagesIn (j : MovJob) : Nat := if j.void then 0 else (j.sent.filter fun g => (j.pages.find g).isNone).length

/-- The pages of a launch whose read is held at the bound. -/
def MovJob.pagesHeld (j : MovJob) : List Nat := if j.void then [] else (movPages j.desc).filter fun g => !(j.sent.contains g)

/-- The page reads in flight of some tuns (R161). -/
def State.pagesInFlight (s : State) (us : Nat → Bool) : Nat :=
  s.dies.foldl (fun x p => x + p.2.movs.foldl (fun y j => if us j.tun then y + j.pagesIn else y) 0) 0

/-- The 512 page reads of the package that a tun may have in flight, and the tuns it shares them with (R161, R379): a sealed
tun its sixteenths of them, the pooled tuns the remainder (DESIGN CHOICE, log entry 113). -/
def State.pageQuota (s : State) (u : Nat) : Nat × (Nat → Bool) :=
  let fixed := (List.range 32).filter fun v => tlEn (s.lay v) && tlSealed (s.lay v)
  if fixed.contains u then (32 * field (s.lay u) 204 4, fun v => v == u)
  else (512 - fixed.foldl (fun x v => x + 32 * field (s.lay v) 204 4) 0, fun v => !(fixed.contains v))

/-- The page reads of a launch go out, as many as the bound has room for (R161). -/
def State.sendPages (s : State) (n : Nat) (j : MovJob) : State :=
  let q := s.pageQuota j.tun
  let more := j.pagesHeld.take (q.1 - s.pagesInFlight q.2)
  let d := s.die n
  if more.isEmpty then s
  else s.setDie n { d with movs := d.movs.map fun x => if x = j then { j with sent := j.sent ++ more } else x }

/-- The held page reads go out in the order of dies and launches, as the bound has room. -/
def State.fillPages (s : State) : State :=
  (List.range 8).foldl (fun (s : State) n => (s.die n).movs.foldl (fun s j => s.sendPages n j) s) s

/-! ### Sources and destinations -/

/-- Line i of a launch's source. -/
def State.srcLine (s : State) (n : Nat) (j : MovJob) (i : Nat) : Bytes :=
  let d := j.desc
  let a := lineAt (mdSrcAddr d) (mdSrcPitch d) i
  match mdSrcLvl d with
  | 0 =>
    let c := s.ctx n j.tun
    (List.range (mdLen d)).map fun k => readWin (s.share j.tun) (s.die n).mem c (c.win (mdSrcWin d)) (a + k)
  | 1 => s.cellarBytes j.tun (mdSrcDie d) a (mdLen d)
  | 2 => (List.range (mdLen d)).map fun k => (Tbl.get [] j.pages ((a + k) / 4096)).getD ((a + k) % 4096) 0
  | _ => List.replicate (mdLen d) 0

/-- Every byte of a launch's source, line after line. -/
def State.srcBytes (s : State) (n : Nat) (j : MovJob) : Bytes :=
  (List.range (mdLines j.desc)).flatMap fun i => s.srcLine n j i

/-- The bits of a window from bit position p on written: the bytes that hold them, as they become. -/
def setElem (sh : Share) (m : Mem) (w : BitVec 128) (bits p code : Nat) : Mem :=
  let lo := p / 8
  let hi := (p + bits - 1) / 8
  let addrs := (List.range (hi + 1 - lo)).map fun k => winAddr sh w (lo + k)
  let x := setBitsOf (Bytes.toNat (addrs.map (Mem.read m))) (p % 8) bits code
  (addrs.zip (bytesOfNat (hi + 1 - lo) x)).foldl (fun m p => m.write p.1 p.2) m

/-- Elements of a window written, each at its bit position. -/
def setElems (sh : Share) (m : Mem) (w : BitVec 128) (bits : Nat) (xs : List (Nat × Nat)) : Mem :=
  xs.foldl (fun m x => setElem sh m w bits x.1 x.2) m

/-- The feed-layout index of element e of line l of a re-tiling launch (R158, R160). -/
def feedPlace (w : BitVec 128) (xform addr l e : Nat) : Nat :=
  let i0 := addr % 512
  let k0 := addr / 512 % 16384
  if xform = 2 then feedIndex w (i0 + e) (k0 + l) else feedIndex w (i0 + l) (k0 + e)

/-- A re-tiling launch carried out: elements move between the row-layout and the feed-layout window (R160). -/
def State.retile (s : State) (n : Nat) (j : MovJob) : State :=
  let d := j.desc
  let x := mdXform d
  let c := s.ctx n j.tun
  let sh := s.share j.tun
  let die := s.die n
  let ws := c.win (mdSrcWin d)
  let wd := c.win (mdDstWin d)
  let bits := fmtBits (winFmt ws)
  let per := 8 * mdLen d / max bits 1
  let moves := (List.range (mdLines d)).flatMap fun l => (List.range per).map fun e =>
    if x = 3 then (8 * lineAt (mdDstAddr d) (mdDstPitch d) l + bits * e,
                   readElem sh die.mem c ws bits (feedPlace ws x (mdSrcAddr d) l e))
    else (bits * feedPlace wd x (mdDstAddr d) l e,
          readBits sh die.mem c ws bits (8 * lineAt (mdSrcAddr d) (mdSrcPitch d) l + bits * e))
  s.setDie n { die with mem := setElems sh die.mem wd bits moves }

/-- The pages a granary launch writes. A byte of a page that no line of the launch covers is a free value (log entry 114). -/
def State.granaryPosts (s : State) (n : Nat) (j : MovJob) : List PageOut :=
  let d := j.desc
  let lines := (List.range (mdLines d)).map fun i => (lineAt (mdDstAddr d) (mdDstPitch d) i, s.srcLine n j i)
  (movPagesOut d).map fun g => s.pagePost j.tun g ((List.range 4096).map fun i =>
    let a := 4096 * g + i
    match lines.reverse.find? fun l => decide (l.1 ≤ a) && decide (a < l.1 + l.2.length) with
    | some l => l.2.getD (a - l.1) 0
    | none => Config.openByte 11 (s.draws * 2 ^ 64 + a))

/-- A copy carried out: each line of the source written at its place in the destination. -/
def State.copyLines (s : State) (n : Nat) (j : MovJob) : State :=
  let d := j.desc
  let lines := (List.range (mdLines d)).map fun i => (lineAt (mdDstAddr d) (mdDstPitch d) i, s.srcLine n j i)
  match mdDstLvl d with
  | 0 =>
    let w := (s.ctx n j.tun).win (mdDstWin d)
    s.writeLocal n (lines.flatMap fun l => winWrites (s.share j.tun) w l.1 l.2)
  | 1 => lines.foldl (fun s l => s.cellarWrite j.tun (mdDstDie d) l.1 l.2) s
  | 3 =>
    let w := (s.ctx (mdDstDie d) j.tun).win (mdDstWin d)
    s.writeLocal (mdDstDie d) (lines.flatMap fun l => winWrites (s.share j.tun) w l.1 l.2)
  | _ => s

/-- The degraded reads of a launch's source counted (R171), and the cycles its reads were held. -/
def State.noteSource (s : State) (n : Nat) (j : MovJob) : State :=
  let d := j.desc
  if mdSrcLvl d = 1 then
    (List.range (mdLines d)).foldl (fun s i =>
      let a := lineAt (mdSrcAddr d) (mdSrcPitch d) i
      (s.noteReads j.tun (mdSrcDie d) a (mdLen d)).heldReads n j.tun (mdSrcDie d) a (mdLen d)) s
  else s

/-! ### Completion -/

/-- The tokens a launch sets at completion: its window's, on the destination die for a window of another die, and
MD_TOKEN; a window of another die is owed a credit to the launching die (R43, R160). -/
def State.movTokens (s : State) (n : Nat) (j : MovJob) : State :=
  let d := j.desc
  let u := j.tun
  let s := match mdDstLvl d with
    | 0 => s.completeToken n u (mdDstWin d) false
    | 3 => if j.delivered then s else (s.owe (mdDstDie d) u (mdDstWin d) n).completeToken (mdDstDie d) u (mdDstWin d) true
    | _ => s
  if mdTokenEn d then s.completeToken n u (mdToken d) false else s

/-- Whether a launch may complete now: the launches it comes after are over (R37), its granary pages are here, its
piece is not one that the hub takes segment by segment, a sealed tun's requests are served in its own slice (R379),
and the device is not stopped (R402). -/
def State.movReady (s : State) (n : Nat) (j : MovJob) : Bool :=
  let d := s.die n
  let own := !(s.sealedDie n) || !(tlSealed (s.lay j.tun)) || d.slice.cur == some j.tun
  let before := j.after.all fun k => !(d.movs.any fun x => 512 * x.tun + x.slot == k)
  let srcWay := mdSrcLvl j.desc != 1 || (s.pathOpen 1 n (mdSrcDie j.desc) && s.pathOpen 1 (mdSrcDie j.desc) n)
  let dstWay := match mdDstLvl j.desc with
    | 1 => s.pathOpen 1 n (mdDstDie j.desc) && s.groupLinked (mdDstDie j.desc / 2)
    | 3 => s.pathOpen 0 n (mdDstDie j.desc)
    | _ => true
  let pages := (movPages j.desc).all fun g => (j.pages.find g).isSome
  s.pwr.state != .stopped && own && before && (j.void || (srcWay && dstWay && pages && mdDstLvl j.desc != 4 && !(mdDstLvl j.desc == 2 && j.pagesOut)))

/-- The places of a launch's cellar destination that wait for their granule (R172). -/
def State.heldLines (s : State) (j : MovJob) : List Loc :=
  let d := j.desc
  if mdDstLvl d = 1 then
    (List.range (mdLines d)).flatMap fun i =>
      s.heldWrite j.tun (mdDstDie d) (lineAt (mdDstAddr d) (mdDstPitch d) i) (mdLen d)
  else []

/-- The last flit of a launch's transfer to a window of another die is accepted there: the bytes stand and the
window's token is set (R315). -/
def State.deliverFar (s : State) (n u slot : Nat) : State :=
  match (s.die n).mov u slot with
  | none => s
  | some j =>
    if mdDstLvl j.desc ≠ 3 || j.delivered || j.void || !(s.movReady n j) then s
    else
      let s := (s.noteSource n j).copyLines n j
      let d := j.desc
      let s := s.setDie n ((s.die n).putMov { j with delivered := true })
      (s.owe (mdDstDie d) u (mdDstWin d) n).completeToken (mdDstDie d) u (mdDstWin d) true

/-- The last byte of a launch's transfer arrives (R160): the bytes move and the tokens are set; a launch refused or
abandoned moves nothing and sets its tokens; a granary write sends its pages and waits for the read behind
them (R177). -/
def State.movComplete (s : State) (n u slot : Nat) : State :=
  match (s.die n).mov u slot with
  | none => s
  | some j =>
    let held := s.heldLines j
    if !(s.movReady n j) then s
    else if !(held.isEmpty) && !j.void then s.holdWrite n u held
    else if j.void then (s.setDie n ((s.die n).dropMov u slot)).movTokens n j
    else if mdDstLvl j.desc = 2 then
      let s := s.noteSource n j
      let t := s.tun u
      let s := s.draw.setTun u (t.bumpPages (movPagesOut j.desc))
      s.setDie n ((s.die n).putMov { j with pagesOut := true, posted := s.granaryPosts n j })
    else
      let s := if j.delivered then s else s.noteSource n j
      let s := if j.delivered then s else if mdXform j.desc = 0 then s.copyLines n j else s.retile n j
      (s.setDie n ((s.die n).dropMov u slot)).movTokens n j

/-- An access of a die to host memory fails, on a unit of it: the step spoils and is counted, and at the same place again in the replay
the tun stops (R170, R404). -/
def State.hostFails (s : State) (n u place unit : Nat) : State :=
  let t := s.tun u
  let s := s.setTun u { t with commit := { t.commit with granaryTagFail := t.commit.granaryTagFail + 1 } }
  let r := (s.spoil n u).noteUe u (2 ^ 60 + place)
  if r.2 then (r.1.stopTun u).fault 10 n unit allOnes64 else r.1.fault 6 n unit 0

/-- The completion read of the oldest segment that a die's engine has forwarded returns; while the link is down its write has failed,
the engine being unit 29 of the die (R170, R214, R336). -/
def State.forwardReturn (s : State) (n u : Nat) : State :=
  match (s.upd n u).forwards with
  | [] => s
  | f :: _ =>
    let s := if s.host.linkUp then s else s.hostFails n u ((f.posted.map (·.host)).headD 0 / 4096) 29
    s.forwardDone n u

/-- The zero-length read behind a granary write returns, and its token is set (R177). Where the slot has no such write out, it is the
read behind the oldest segment that the die's update engine has forwarded (R214; log entry 118). While the link is down the write and
its read have failed (R336). -/
def State.flushReturn (s : State) (n u slot : Nat) : State :=
  match (s.die n).mov u slot with
  | none => s.forwardReturn n u
  | some j =>
    if !j.pagesOut then s.forwardReturn n u
    else
      let s := if s.host.linkUp then s else s.hostFails n u ((movPagesOut j.desc).headD 0) (25 + j.mover)
      (s.setDie n ((s.die n).dropMov u slot)).movTokens n j

/-- A page returns while others of the tun are held at the bound: the cycles they were held are a free value (R161). -/
def State.noteHeldPages (s : State) (u : Nat) : State :=
  if s.dies.all fun p => p.2.movs.all fun j => j.tun != u || j.pagesHeld.isEmpty then s
  else
    let t := s.tun u
    s.draw.setTun u { t with coll := { t.coll with stallGranary := t.coll.stallGranary + Config.openNat 17 s.draws } }

/-- A granary page returns whose read is in flight (R176): a page that checks is held for the launch; a tag mismatch, or an error
completion from the host, as every access is while the link is down (R336), spoils the step and is counted, and at the same page again
in the replay the tun stops (R170, R404). No byte of the page reaches the launch: what it moves there is a free value (log entry 33). -/
def State.pageReturn (s : State) (n u slot page : Nat) (ct : Bytes) (tagRec : BitVec 256) (err : Bool) : State :=
  match (s.die n).mov u slot with
  | none => s
  | some j =>
    if !(j.sent.contains page) || (j.pages.find page).isSome then s else
    let s := (List.range 32).foldl (fun s v => s.noteHeldPages v) s
    if !err && s.host.linkUp && s.pageOk u page ct tagRec then
      s.setDie n ((s.die n).putMov { j with pages := j.pages.put page (s.pagePlain u page ct) })
    else
      let s := s.setDie n ((s.die n).putMov { j with pages := j.pages.put page ((List.range 4096).map fun i => Config.openByte 3 (4096 * page + i)) })
      s.hostFails n u page (25 + j.mover)

end Sys2Proof.Machine
end

