-- ==== Sys2Proof/Machine/CollOps.lean ====
section
/-! DEFINITION. What the hub does with contributions and results (R229 to R240, R253, R256): rounds, device
partials, reductions, segments in staging slots, close markers, the release of a bucket, and delivery. -/

namespace Sys2Proof.Machine

/-! ### Codes and values -/

/-- The format of a code, FP32 where the code is reserved. -/
def fmtOr (c : Nat) : Fmt := (Fmt.ofCode c).getD .fp32

/-- An FP32 value converted to a format with IEEE overflow, to nearest even or with a random word (R234). -/
def codeBy (f : Fmt) (m : Rnd) (w : Word32) : Nat := (f.conv m true (Val.of32 w)).code

/-- A code widened to FP32. -/
def widen (f : Fmt) (c : Nat) : Word32 := f32 (f.decode c)

/-- The larger of two FP32 values, exact (R234, R113). -/
def maxWord (a b : Word32) : Word32 := f32 ((Val.of32 a).max (Val.of32 b))

/-- Values folded with max; none is zero. -/
def maxAll : List Word32 → Word32
  | [] => 0
  | x :: xs => xs.foldl maxWord (flush32 x)

/-! ### Gravity (R253) -/

/-- The square of a value times the inverse loss scale, truncated to 2^−96; of a NaN or infinity the spec states no
square, and it is a free value (log entry 34). -/
def gravSquare (inv : Word32) (p : Word32) : Nat :=
  match (Val.of32 p).mul (Val.of32 inv) with
  | .fin _ n d => n * n * 2 ^ 96 / (d * d)
  | _ => Config.openNat 1 p.toNat

/-- An accumulator after one more square: a sum that reaches 2^96 stays there. -/
def gravAdd (a x : Nat) : Nat := min (2 ^ 192 - 1) (a + x)

/-- The inverse loss scale of the tun's step (R188). -/
def Tun.lsInv (t : Tun) : Word32 := fdiv fone t.step.lsScale

/-- Squares added to a gravity group's local or global accumulator. -/
def Tun.gravPut (t : Tun) (e : BitVec 256) (global : Bool) (ps : List Word32) : Tun :=
  if colGravEn e then
    let inv := t.lsInv
    { t with gravAcc := Tbl.modify {} t.gravAcc (colGrav e) fun a =>
      ps.foldl (fun a p => if global then { a with g := gravAdd a.g (gravSquare inv p) }
                           else { a with l := gravAdd a.l (gravSquare inv p) }) a }
  else t

/-! ### Staging slots (R230, R302) -/

/-- The slots a tun holds (R230): a segment staged, whoever it goes to and however its data is split over records; a contribution that
waits for other dies; data that waits to be added; and a segment arriving. -/
def Tun.slotsUsed (t : Tun) : Nat :=
  (t.segs.map (·.slot)).eraseDups.length
    + t.rounds.foldl (fun n p => n + p.2.segs.length) 0 + t.reductions.foldl (fun n p => n + p.2.segs.length) 0 + t.partials.length

/-- The slots whose data has not left them. -/
def Tun.slotsLive (t : Tun) : List Nat :=
  t.segs.map (·.slot) ++ t.reductions.flatMap fun p => p.2.segs.map fun q => q.2.2

/-- The credits of the slots released since they were last returned, as messages to the ranks whose segments took them (R302). -/
def Tun.returnCredits (t : Tun) : Tun :=
  let live := t.slotsLive
  let free := (t.recvSlots.filter fun x => !(live.contains x.1)).map Prod.snd
  if free.isEmpty then t
  else
    { t with recvSlots := t.recvSlots.filter fun x => live.contains x.1 }.sendCtl
      (free.eraseDups.map fun (x : Nat × Nat) => .segmentCredit x.1 x.2 ((free.filter fun y => y == x).length : Nat))

/-- The most elements a segment of a format holds: 64 KiB of payload, cut at a multiple of 32 elements. -/
def segElems (fmt : Nat) : Nat := 65536 * 8 / max (fmtBits fmt) 1 / 32 * 32

/-- The same where the scales of blocks of bs elements go with them (R230, R232). -/
def scaledElems (fmt bs : Nat) : Nat := 65536 * 8 * bs / (fmtBits fmt * bs + 8) / max bs 1 * bs

/-- The rows a segment of a row form holds: whole records, and none where a record is longer than a segment (R230, R237; log entry
120). -/
def rowsPer (cols fmt : Nat) : Nat := 65536 / (8 + cols * fmtBits fmt / 8)

/-- The elements of a row that a segment holds behind the record's header, where a record is longer than a segment (log entry 120). -/
def rowPart (fmt : Nat) : Nat := 65528 * 8 / max (fmtBits fmt) 1 / 64 * 64

/-- The segments that some rows take. -/
def rowSegs (cols fmt rows : Nat) : Nat :=
  if rowsPer cols fmt = 0 then rows * ceilDiv cols (rowPart fmt) else ceilDiv rows (rowsPer cols fmt)

/-- The ranges of waiting segments of which an element still waits. -/
def keepSegs (waits : Nat → Bool) (segs : List (Nat × Nat × Nat)) : List (Nat × Nat × Nat) :=
  segs.filter fun r => (List.range (r.2.1 + 1 - r.1)).any fun i => waits (r.1 + i)

/-- The range of a run of elements, and the slot it is in. -/
def rangeOf {α : Type} (slot : Nat) (ps : List (Nat × α)) : List (Nat × Nat × Nat) :=
  match ps with
  | [] => []
  | p :: _ => [(p.1, (ps.getLast?.map Prod.fst).getD p.1, slot)]

/-- The segment being cut, its newest element first, and the elements still to cut. -/
def cutFrom {α : Type} (near : Bool) (key : Nat → List Nat) (most : Nat) : List (Nat × α) → List (Nat × α) → List (List (Nat × α))
  | [], [] => []
  | cur, [] => [cur.reverse]
  | [], y :: ys => cutFrom near key most [y] ys
  | x :: cur, y :: ys =>
    if (near = false ∨ y.1 = x.1 + 1) ∧ key y.1 = key x.1 ∧ (x :: cur).length < most then cutFrom near key most (y :: x :: cur) ys
    else (x :: cur).reverse :: cutFrom near key most [y] ys

/-- A run of elements cut from its first on, each segment as long as it may be, and where the receiver or its record changes; key
names what stays the same. Elements of a row form need not be next to one another. -/
def cutRuns {α : Type} (near : Bool) (key : Nat → List Nat) (most : Nat) (xs : List (Nat × α)) : List (List (Nat × α)) :=
  cutFrom near key most [] xs

/-- The next segment to be staged takes a slot of its own. -/
def Tun.newSlot (t : Tun) : Tun := { t with slotNo := t.slotNo + 1 }

/-- A segment of a rank and a kind takes a slot as it arrives. -/
def Tun.slotFor (t : Tun) (src kind : Nat) : Tun :=
  let t := t.newSlot
  { t with recvSlots := t.recvSlots ++ [(t.slotNo, src, kind)] }

/-- A segment put in staging, in the slot taken last: one that goes to another device is numbered, and counted for its bucket's
marker. -/
def Tun.stage (t : Tun) (bucket : Option Nat) (x : Seg) : Tun :=
  let x := { x with slot := t.slotNo }
  match x.role with
  | .out r =>
    let q := t.nextSeq r 0
    let t := { q.2 with segs := q.2.segs ++ [{ x with seq := q.1 }] }
    match bucket with
    | some b => { t with buckets := Tbl.modify {} t.buckets b fun y => { y with sent := Tbl.modify 0 y.sent r (· + 1) } }
    | none => t
  | _ => { t with segs := t.segs ++ [x] }

/-! ### Results on their way (R232, R233) -/

/-- Results of a collective's round that are for this device: cut by delivery record. -/
def Tun.stageDeliver (t : Tun) (c : Nat) (e : BitVec 256) (round first : Nat) (codes scales : List Nat) (bs : Nat) : Tun :=
  (t.records e).foldl (fun (t : Tun) r =>
    let lo := max first (dlFirst r.2)
    let hi := min (first + codes.length) (dlFirst r.2 + dlCount r.2)
    if hi ≤ lo then t
    else
      let sc := if scales.isEmpty then [] else (scales.drop ((lo - first) / bs)).take (ceilDiv (hi - lo) bs)
      t.stage none { role := .deliver r.1, coll := c, round := round, step := t.stepNow, attempt := t.step.attempt,
                     first := lo, codes := (codes.drop (lo - first)).take (hi - lo), scales := sc }) t

/-- A reduced segment for the update engines of this device: one for each holding die (R226). -/
def Tun.stageUpdate (t : Tun) (c : Nat) (e : BitVec 256) (round : Nat) (xs : List (Nat × Nat)) (rows : List Nat)
    (nf last : Bool) : Tun :=
  let dies (i : Nat) : List Nat :=
    ((t.holders (colTensor e) (colElem e i)).filter fun x => shRank x == t.rank).map shDie
  (cutRuns true dies (segElems (colOut e)) xs).foldl (fun t g =>
    match g with
    | [] => t
    | x :: _ => (dies x.1).eraseDups.foldl (fun t n =>
        t.stage none { role := .update n, coll := c, round := round, step := t.stepNow, attempt := t.step.attempt,
                       first := x.1, codes := g.map Prod.snd, rows := rows, nf := nf, last := last }) t) t

/-- Results of this device as reducing member sent where R233 says. -/
def Tun.sendResults (t : Tun) (c : Nat) (e : BitVec 256) (round : Nat) (xs : List (Nat × Nat)) (rows : List Nat)
    (nf : Nat → Bool) (last : Bool) : Tun :=
  let key (i : Nat) : List Nat :=
    if colUpdates e then (t.holders (colTensor e) (colElem e i)).map fun x => 8 * shRank x + shDie x else t.receivers e i
  (cutRuns true key (segElems (colOut e)) xs).foldl (fun t g =>
    match g with
    | [] => t
    | x :: _ =>
      let bad := g.any fun y => nf y.1
      (t.receivers e x.1).foldl (fun t r =>
        if r = t.rank then
          if colUpdates e then t.stageUpdate c e round g rows bad last
          else t.stageDeliver c e round x.1 (g.map Prod.snd) [] 32
        else t.stage none { role := .out r, coll := c, round := round, step := t.stepNow, attempt := t.step.attempt,
                            first := x.1, codes := g.map Prod.snd, rows := rows, nf := bad, last := last }) t.newSlot) t

/-! ### Reductions (R234) -/

/-- The key of a collective's round. -/
def roundKey (c round : Nat) : Nat := c * 65536 + round % 65536

/-- One element's result at its reducing member, before its conversion to COL_OUT_FMT: partials by member. -/
def reduceParts (e : BitVec 256) (key t i n : Nat) (parts : Tbl Word32) : Word32 :=
  let xs := parts.map Prod.snd
  if colMax e then maxAll xs else sumPartials (colLong e || decide (16 < n)) key t i xs

/-- The code of an element's result (R234 step 4). -/
def resultCode (e : BitVec 256) (key t i n : Nat) (x : Word32) : Nat :=
  let m := if !(colMax e) && (colLong e || decide (16 < n)) then Rnd.stochastic (collWord key t i n) else Rnd.nearest
  codeBy (fmtOr (colOut e)) m x

/-- The elements of a round that this member reduces made results: the sums, their counts and their gravity. -/
def Tun.reduce (t : Tun) (c : Nat) (e : BitVec 256) (is : List (Nat × Tbl Word32)) : Tun × List (Nat × Nat × Bool) :=
  let key := collKey t.job.seed c none
  let ranks := (t.groupRanks (colGroup e)).length
  let xs := is.map fun p =>
    let n := if colSparse e then p.2.length else ranks
    let x := reduceParts e key t.stepNow p.1 n p.2
    (p.1, x, n, fnonfinite x || p.2.any fun q => fnonfinite q.2)
  let adds := if colMax e then 0 else xs.foldl (fun y x => if colLong e || decide (16 < x.2.2.1) then y + (x.2.2.1 - 1) else y) 0
  let t := { t with coll := { t.coll with redElems := t.coll.redElems + xs.length, longAdds := t.coll.longAdds + adds } }
  (t.gravPut e true (xs.map fun x => x.2.1), xs.map fun x => (x.1, resultCode e key t.stepNow x.1 x.2.2.1 x.2.1, x.2.2.2))

/-- A member's partials of a round taken at the reducing member, which hold a slot until they are added. A kind without a bucket
reduces an element as soon as every member's partial is there. -/
def Tun.takeParts (t : Tun) (c : Nat) (e : BitVec 256) (round member : Nat) (ps : List (Nat × Word32)) : Tun :=
  let k := roundKey c round
  let r := Tbl.get ({} : Reduction) t.reductions k
  let parts := ps.foldl (fun (m : Tbl (Tbl Word32)) p => Tbl.modify [] m p.1 fun q => Tbl.put q member p.2) r.parts
  let segs := r.segs ++ rangeOf t.slotNo ps
  if colBucketed e then { t with reductions := t.reductions.put k { parts := parts, segs := segs } }
  else
    let n := (t.groupRanks (colGroup e)).length
    let full := parts.filter fun p => decide (n ≤ p.2.length)
    let rest := parts.filter fun p => !(decide (n ≤ p.2.length))
    let t := { t with reductions := t.reductions.put k { parts := rest, segs := keepSegs (fun i => (Tbl.find rest i).isSome) segs } }
    if full.isEmpty then t
    else
      let x := t.reduce c e full
      x.1.sendResults c e round (x.2.map fun y => (y.1, y.2.1)) [] (fun _ => false) false

/-! ### Contributions (R229, R234) -/

/-- Row-form elements by row, in the order in which they stand. -/
def byRow {α : Type} (cols : Nat) (xs : List (Nat × α)) : List (Nat × List (Nat × α)) :=
  ((xs.map fun x => x.1 / max cols 1).eraseDups).map fun r => (r, xs.filter fun x => x.1 / max cols 1 == r)

/-- Row-form elements cut into segments, each with its rows; key names what stays the same from row to row. A row whose record is longer
than a segment is cut into parts. -/
def cutRows {α : Type} (cols fmt : Nat) (key : Nat → List Nat) (xs : List (Nat × α)) : List (List (Nat × α) × List Nat) :=
  let rs := byRow cols xs
  if rowsPer cols fmt = 0 then
    rs.flatMap fun r => (List.range (ceilDiv r.2.length (rowPart fmt))).map fun i => ((r.2.drop (rowPart fmt * i)).take (rowPart fmt), [r.1])
  else (cutRuns false (fun r => key (r * cols)) (rowsPer cols fmt) rs).map fun g => (g.flatMap Prod.snd, g.map Prod.fst)

/-- The segments of a run of elements that leave: cut by what key names, whole rows in the row form, each with its rows. -/
def Tun.cutOut {α : Type} (t : Tun) (e : BitVec 256) (fmt : Nat) (key : Nat → List Nat) (xs : List (Nat × α)) : List (List (Nat × α) × List Nat) :=
  if colSparse e then cutRows (t.rowWidth e) fmt key xs else (cutRuns true key (segElems fmt) xs).map fun g => (g, [])

/-- Device partials of a round leave for their reducing members (R234 steps 1 to 3): counted in gravity, converted
to COL_IN_FMT, and sent or added to this member's own. -/
def Tun.sendPartials (t : Tun) (c : Nat) (e : BitVec 256) (round : Nat) (ps : List (Nat × Word32)) : Tun :=
  let t := t.gravPut e false (ps.map Prod.snd)
  let f := fmtOr (colIn e)
  let xs := ps.map fun p => (p.1, codeBy f .nearest p.2)
  let bucket := if colBucketed e then some (colBucket e) else none
  let bad := ps.any fun p => fnonfinite p.2
  let t := match bucket with
    | some b => { t with buckets := Tbl.modify {} t.buckets b fun y => { y with nf := y.nf || bad } }
    | none => t
  (t.cutOut e (colIn e) (fun i => [t.reducer e i]) xs).foldl (fun t g =>
    match g.1 with
    | [] => t
    | x :: _ =>
      let r := t.reducerAt e x.1
      if r = t.rank then
        t.newSlot.takeParts c e round (memberOf (t.groupRanks (colGroup e)) t.rank) (g.1.map fun y => (y.1, widen f y.2))
      else t.newSlot.stage bucket { role := .out r, coll := c, round := round, step := t.stepNow, attempt := t.step.attempt,
                                    first := x.1, codes := g.1.map Prod.snd, nf := bad, rows := g.2 }) t

/-- Whether a round of a collective on a device is over: every element has been contributed in it (R234). -/
def roundFull (e : BitVec 256) (dies : Nat) (r : Round) : Bool :=
  let need := if colSummed e then dies else 1
  !(colSparse e) && decide (colLen e * need ≤ r.got.foldl (fun x p => x + p.2.length) 0)

/-- An element's contribution of a die put into the open round, the next one being opened where that is over; a second contribution
is a fault (R234). Answers the round, what the dies have contributed once that is all of it, and the fault. -/
def takeElement (e : BitVec 256) (dies n : Nat) (r : Round) (i code : Nat) : Round × Option (Tbl Nat) × Option ProgFault :=
  let full := roundFull e dies r
  if full && colBucketed e then (r, none, some .doubleContribution)
  else
    let r : Round := if full then { no := r.no + 1 } else r
    let got := Tbl.get [] r.got i
    if (if colSummed e then (Tbl.find got n).isSome else !(got.isEmpty)) then (r, none, some .doubleContribution)
    else
      let got := Tbl.put got n code
      let r := { r with got := r.got.put i got }
      (r, if !(colSummed e) || got.length == dies then some got else none, none)

/-- Elements put into the rounds of a collective, the first fault ending it; answers those that every die has contributed, each with
the round it falls in and the contributions. -/
def takeElements (e : BitVec 256) (dies n : Nat) : Round → List (Nat × Nat) → Round × List (Nat × Nat × Tbl Nat) × Option ProgFault
  | r, [] => (r, [], none)
  | r, p :: ps =>
    match takeElement e dies n r p.1 p.2 with
    | (r, _, some f) => (r, [], some f)
    | (r, got, none) =>
      let x := takeElements e dies n r ps
      (x.1, (match got with
        | some g => (p.1, r.no, g) :: x.2.1
        | none => x.2.1), x.2.2)

/-- The device partial of an element from its dies' contributions: widened, and added in ascending die order to
nearest even (R234 step 1). -/
def devicePartial (e : BitVec 256) (got : Tbl Nat) : Word32 :=
  let f := fmtOr (colIn e)
  match got.map fun p => widen f p.2 with
  | [] => 0
  | x :: xs => if colMax e then maxAll (x :: xs) else xs.foldl (fun a y => f32By .nearest ((Val.of32 a).add (Val.of32 y))) x

/-- A contribution of die n to a reduction: elements, or the records of rows by row × UT_COLS + column (R234, R237).
Disjoint elements and elements that every die has contributed leave at once; summed rows leave at the close of
their bucket. Until then a contribution holds its slot. -/
def State.contribute (s : State) (n u c : Nat) (xs : List (Nat × Nat)) : State × Option ProgFault :=
  let t := s.tun u
  let e := t.collAt c
  let dies := (s.groupDies u (colGroup e)).length
  if colBucketed e && (Tbl.get ({} : BucketHub) t.buckets (colBucket e)).markerSent then (s, some .lateContribution)
  else
    let r := takeElements e dies n (Tbl.get {} t.rounds c) xs
    let t := t.newSlot
    let rows := colSparse e && colSummed e
    let waits (i : Nat) : Bool := match r.1.got.find i with
      | some g => rows || (colSummed e && decide (g.length < dies))
      | none => false
    let t := { t with rounds := t.rounds.put c { r.1 with segs := keepSegs waits (r.1.segs ++ rangeOf t.slotNo xs) } }
    match r.2.2 with
    | some f => (s.setTun u t, some f)
    | none =>
      if rows then (s.setTun u t, none)
      else
        let nos := (r.2.1.map fun p => p.2.1).eraseDups
        (s.setTun u (nos.foldl (fun t no =>
          t.sendPartials c e no ((r.2.1.filter fun p => p.2.1 == no).map fun p => (p.1, devicePartial e p.2.2))) t), none)

/-! ### Sketches (R200, R233, R238) -/

/-- The sums of a tensor, every piece's being here, reduced, counted in gravity (R253), and sent to every die that holds a piece of it,
of whatever rank. -/
def Tun.reduceSketch (t : Tun) (c : Nat) (e : BitVec 256) (r : SketchRun) (parts : Tbl (Tbl Word32)) : Tun :=
  let n := r.shards.length
  let long := colLong e || decide (16 < n)
  let key := collKey t.job.seed c (some r.tensor)
  let word (i : Nat) : Word32 := Tbl.get 0 (Tbl.get [] parts i) 0
  let sums := (List.range (r.cols + 1)).map fun j => sumPartials long key t.stepNow j ((List.range n).map fun k => word (r.base + k * (r.cols + 1) + j))
  let xs := sums.map BitVec.toNat
  let adds := if long then (n - 1) * (r.cols + 1) else 0
  let t := ({ t with coll := { t.coll with redElems := t.coll.redElems + (r.cols + 1), longAdds := t.coll.longAdds + adds } } : Tun).gravPut e true sums
  let holders := t.job.shards.filter fun h => shTensor h == r.tensor
  (List.range (ceilDiv (r.cols + 1) 16384)).foldl (fun (t : Tun) i =>
    let seg : Seg := { role := .out 0, coll := c, round := 0, step := t.stepNow, attempt := t.step.attempt,
                       first := r.base + 16384 * i, codes := (xs.drop (16384 * i)).take 16384 }
    ((holders.map shRank).eraseDups).foldl (fun (t : Tun) q =>
      if q = t.rank then
        (((holders.filter fun h => shRank h == q).map shDie).eraseDups).foldl (fun (t : Tun) n => t.stage none { seg with role := .sketch n }) t
      else t.stage none { seg with role := .out q }) t.newSlot) t

/-- Sums of a piece at the rank that reduces its tensor. -/
def Tun.takeSketch (t : Tun) (c : Nat) (e : BitVec 256) (r : SketchRun) (ps : List (Nat × Word32)) : Tun :=
  let k := roundKey c 0
  let x := Tbl.get ({} : Reduction) t.reductions k
  let parts := ps.foldl (fun (m : Tbl (Tbl Word32)) p => Tbl.put m p.1 [(0, p.2)]) x.parts
  let mine (i : Nat) : Bool := decide (r.base ≤ i) && decide (i < r.base + r.len)
  let segs := x.segs ++ rangeOf t.slotNo ps
  if (parts.filter fun p => mine p.1).length = r.len then
    { t with reductions := t.reductions.put k { parts := parts.filter fun p => !(mine p.1), segs := segs.filter fun q => !(mine q.1) } }.reduceSketch c e r parts
  else { t with reductions := t.reductions.put k { parts := parts, segs := segs } }

/-- The sum buffers of a bucket's M entries on a die handed over by its flush (R200): the sums of each piece go to the rank that
reduces its tensor. A second flush of a piece in an attempt is a second contribution (R234). -/
def State.flushSketch (s : State) (n u b : Nat) : State :=
  match (s.tun u).sketchColl b with
  | none => s
  | some (c, e) =>
    ((s.tun u).sketchRuns e).foldl (fun (s : State) r =>
      ((List.range r.shards.length).zip r.shards).foldl (fun (s : State) p =>
        let t := s.tun u
        let f := Tbl.get ({} : Factors) (s.upd n u).factors (shUt p.2)
        if shRank p.2 ≠ t.rank ∨ shDie p.2 ≠ n ∨ !f.flushed then s
        else
          let start := r.base + p.1 * (r.cols + 1)
          let round := Tbl.get ({} : Round) t.rounds c
          if (round.got.find start).isSome then s.programFault n u .doubleContribution
          else
            let ws := (List.range r.cols).map (fun j => (start + j, Tbl.get 0 f.colSum j)) ++ [(start + r.cols, f.total)]
            let t := ({ t with rounds := t.rounds.put c { round with got := round.got.put start [] } } : Tun).gravPut e false (ws.map Prod.snd)
            s.setTun u (if r.reducer = t.rank then t.newSlot.takeSketch c e r ws
              else (cutRuns true (fun _ => []) 16384 ws).foldl (fun (t : Tun) g =>
                t.newSlot.stage none { role := .out r.reducer, coll := c, round := 0, step := t.stepNow, attempt := t.step.attempt,
                                       first := (g.headD (0, 0)).1, codes := g.map fun y => y.2.toNat }) t)) s) s

/-- The reduced sums of a tensor that stand in staging for a die: the column sums and the total, once all are there. -/
def Tun.sketchSums (t : Tun) (n tensor bucket : Nat) : Option (List Word32 × Word32) :=
  match t.sketchColl bucket with
  | none => none
  | some (c, e) =>
    match (t.sketchRuns e).find? fun r => r.tensor == tensor with
    | none => none
    | some r =>
      let xs := (t.segs.filter fun x => x.role == .sketch n && x.coll == c).foldl (fun (m : Tbl Nat) x =>
        ((List.range x.codes.length).zip x.codes).foldl (fun m q => Tbl.put m (x.first + q.1) q.2) m) []
      let ys := (List.range (r.cols + 1)).filterMap fun j => (xs.find (r.base + j)).map (BitVec.ofNat 32)
      if ys.length = r.cols + 1 then some (ys.take r.cols, ys.getD r.cols 0) else none

/-- The reduced sums of a tensor leave staging for a die. -/
def Tun.dropSketch (t : Tun) (n tensor bucket : Nat) : Tun :=
  match t.sketchColl bucket with
  | none => t
  | some (c, e) => { t with segs := t.segs.filter fun x =>
      !(x.role == .sketch n && x.coll == c && ((t.sketchRun e x.first).map (·.tensor)) == some tensor) }

/-! ### Kinds that move elements (R233, R240, R241) -/

/-- The round a piece of a kind that does not reduce falls in: an element sent a second time opens the next one. -/
def Round.move (r : Round) (xs : List Nat) : Round :=
  let r : Round := if xs.any fun i => (r.got.find i).isSome then { no := r.no + 1 } else r
  { r with got := xs.foldl (fun m i => Tbl.put m i []) r.got }

/-- Elements of a kind that does not reduce sent to their receivers, this device's own share into its records. -/
def State.moveOut (s : State) (u c first : Nat) (codes scales : List Nat) (bs : Nat) : State :=
  let t := s.tun u
  let e := t.collAt c
  let r := (Tbl.get ({} : Round) t.rounds c).move ((List.range codes.length).map fun i => first + i)
  let t := { t with rounds := t.rounds.put c r }
  let ranks := t.groupRanks (colGroup e)
  let xs := ((List.range codes.length).zip codes).map fun p => (first + p.1, p.2)
  let most := if scales.isEmpty then segElems (colIn e) else scaledElems (colIn e) bs
  let t := (cutRuns true (t.receivers e) most xs).foldl (fun t g =>
    match g with
    | [] => t
    | x :: _ =>
      let sc := if scales.isEmpty then [] else (scales.drop ((x.1 - first) / bs)).take (ceilDiv g.length bs)
      (t.receivers e x.1).foldl (fun t q =>
        if q = t.rank then
          t.stageDeliver c e r.no (resultIndex e ranks.length (memberOf ranks t.rank) x.1) (g.map Prod.snd) sc bs
        else t.stage none { role := .out q, coll := c, round := r.no, step := t.stepNow, attempt := t.step.attempt,
                            first := x.1, codes := g.map Prod.snd, scales := sc }) t.newSlot) t
  s.setTun u t

/-! ### Regeneration (R206) -/

/-- The record words REC_W of elements first to first + count of an entry's current copy (R204, R206). -/
def State.currentWords (s : State) (n u : Nat) (e : BitVec 512) (first count : Nat) : List Word32 :=
  (List.range count).map fun i =>
    let k := first + i - utFirst e
    let b := k / 64
    let bl := Block.ofBytes (s.readBlock n u e (s.readKeg n u e b) b)
    match bl.recs[k % 64]? with
    | some r => r.w
    | none => 0

/-- The codes and block scales of a regenerated range (R206): one scale a block by the CVT_BLK rule for block
formats, the column's scale and zero point for integer formats, and a plain conversion otherwise. -/
def regenCodes (e : BitVec 512) (quant : List (Word32 × Nat)) (first : Nat) (ws : List Word32) : List Nat × List Nat :=
  let f := fmtOr (utWfmt e)
  let bs := utWbs e
  match f with
  | .e4m3 | .e5m2 | .e3m2 | .e2m3 | .e2m1 | .e1m1 | .t2 =>
    let sf : Fmt := if utWsUe4m3 e then .ue4m3 else .e8m0
    let blocks := (List.range (ceilDiv ws.length bs)).map fun k => (ws.drop (bs * k)).take bs
    let scales := blocks.map fun b =>
      blockScale f sf (b.foldl (fun m w => if fnonfinite w then .nan else m.max (Val.of32 w).abs) (.fin false 0 1))
    ((blocks.zip scales).flatMap fun p => p.1.map fun w => (laneBlk f sf .nearest (Val.of32 w) p.2).code, scales)
  | .int8 | .int4 | .int3 =>
    let cols := max (utCols e) 1
    (((List.range ws.length).zip ws).map fun p =>
      let q := quant.getD ((first + p.1) % cols) (fone, 0)
      let z : Int := if f = .int8 then 0 else signed 32 q.2
      let x : Int := match (Val.of32 p.2).div (Val.of32 q.1) with
        | .fin neg a b => let k : Int := Rnd.int .nearest true a b
                          if neg then -k else k
        | .inf neg => if neg then -(2 ^ 64) else 2 ^ 64
        | .nan => 0
      let r := (f.intRange?).getD (0, 0)
      ((clampInt r.1 r.2 (x + z)) % (2 ^ f.bits : Nat)).toNat, [])
  | _ => (ws.map fun w => (f.conv .nearest false (Val.of32 w)).code, [])

/-- The column sums of the codes of a zero-point working copy, over chunks of 256 rows counted from the launch's first row
(R145, R206; log entry 117), by chunk × 2^32 + column. -/
def zpSums (e : BitVec 512) (base first : Nat) (codes : List Nat) (old : Tbl Int) : Tbl Int :=
  let cols := max (utCols e) 1
  ((List.range codes.length).zip codes).foldl (fun (m : Tbl Int) p =>
    let i := first + p.1
    let k := (i / cols - base / cols) / 256 * 2 ^ 32 + i % cols
    Tbl.put m k (Tbl.get 0 m k + signed (fmtBits (utWfmt e)) p.2)) old

/-- The quantisation table of an entry as the cellar holds it: for each column its scale, FP32, and its zero point, INT32, 8 bytes
little endian (R206; its place and layout are the model's: DESIGN CHOICE, log entry 134). -/
def State.quantTable (s : State) (n u entry cols : Nat) : List (Word32 × Nat) :=
  match (Tbl.get ({} : DieJob) (s.tun u).job.dies n).quant.find entry with
  | none => []
  | some a => (List.range cols).map fun j =>
      let b := s.cellarBytes u n (a + 8 * j) 8
      (wordAt b 0, (wordAt b 4).toNat)

/-- A range of an entry regenerated (R206, R240), of a launch whose range begins at base; with UT_ZP its column sums are formed. -/
def State.regenerate (s : State) (n u entry base first count : Nat) : State × List Nat × List Nat :=
  let e := Tbl.get 0 (s.upd n u).table entry
  let ws := s.currentWords n u e first count
  let q := s.quantTable n u entry (max (utCols e) 1)
  let r := regenCodes e q first ws
  let x := s.upd n u
  let f := fmtOr (utWfmt e)
  let zp := utZp e && (f == .int4 || f == .int3)
  let sums := if zp then x.colSums.put entry (zpSums e base first r.1 (if first = base then [] else Tbl.get [] x.colSums entry)) else x.colSums
  (s.setUpd n u { x with colSums := sums, stat := { x.stat with regenBytes := x.stat.regenBytes + count * fmtBits (utWfmt e) / 8 + r.2.length } }, r)

/-! ### A segment of a piece taken (R229, R230, R240) -/

/-- The rows of a piece's records and their elements (R237). -/
def rowRecords (cols bits : Nat) : Nat → Bytes → List (Nat × List Nat)
  | 0, _ => []
  | fuel + 1, bs =>
    let len := 8 + cols * bits / 8
    if bs.length < len then []
    else (Bytes.toNat (bs.take 8) % 2 ^ 40, unpackCodes bits ((bs.take len).drop 8)) :: rowRecords cols bits fuel (bs.drop len)

/-- The block scales of elements a window supplies, from its scale companion in element order; none where it has
none (log entry 32). -/
def State.companionScales (s : State) (n u win first count : Nat) : List Nat × Nat :=
  let c := s.ctx n u
  let w := c.win win
  match winComp w with
  | none => ([], 32)
  | some k => ((List.range (ceilDiv count (winBs w))).map fun i =>
      (readWin (s.share u) (s.die n).mem c (c.win k) (first / winBs w + i)).toNat, winBs w)

/-- The records of the rows of a launch's piece (R237). -/
def State.pieceRows (s : State) (n u : Nat) (j : MovJob) : List (Nat × List Nat) :=
  let e := (s.tun u).collAt (pieceColl j.desc)
  rowRecords ((s.tun u).rowWidth e) (fmtBits (colIn e)) (mdLen j.desc * mdLines j.desc) (s.srcBytes n j)

/-- The block size of a piece whose elements have scales, 0 where they have none (R232, R240). -/
def State.pieceBlock (s : State) (n u : Nat) (j : MovJob) : Nat :=
  let e := (s.tun u).collAt (pieceColl j.desc)
  if pieceRegen e j.desc then
    match s.regenEntry n u e (mdSrcAddr j.desc) (s.pieceCount u e j.desc) with
    | some p => match fmtOr (utWfmt p.2) with
      | .e4m3 | .e5m2 | .e3m2 | .e2m3 | .e2m1 | .e1m1 | .t2 => utWbs p.2
      | _ => 0
    | none => 0
  else if mdSrcLvl j.desc = 0 ∧ !(colReduces e) then
    let w := (s.ctx n u).win (mdSrcWin j.desc)
    if (winComp w).isSome then winBs w else 0
  else 0

/-- How many elements of a piece leave as its next segment from element start on: as many as a segment holds, to the next change of
reducing member or receiver, and in the row form whole rows, or a part of one whose record is longer than a segment (R230). -/
def State.pieceRun (s : State) (n u : Nat) (j : MovJob) (start total : Nat) : Nat :=
  let t := s.tun u
  let e := t.collAt (pieceColl j.desc)
  if colSparse e then
    let cols := t.rowWidth e
    let rows := ((s.pieceRows n u j).drop (start / cols)).map Prod.fst
    let key (r : Nat) : Nat := t.reducer e (r * cols)
    if rowsPer cols (colIn e) = 0 then min (rowPart (colIn e)) (min (cols - start % cols) (total - start))
    else ((rows.take (rowsPer cols (colIn e))).takeWhile fun r => key r == key (rows.headD 0)).length * cols
  else
    let bs := s.pieceBlock n u j
    let most := min (if bs = 0 then segElems (colIn e) else scaledElems (colIn e) bs) (total - start)
    let key (i : Nat) : List Nat := if colReduces e then [t.reducer e i] else t.receivers e i
    let first := pieceFirst j.desc + start
    ((List.range most).takeWhile fun i => key (first + i) == key first).length

/-- Elements start to start + k of a launch's piece handed to the hub. -/
def State.pieceTaken (s : State) (n u : Nat) (j : MovJob) (start k : Nat) : State × Option ProgFault :=
  let t := s.tun u
  let c := pieceColl j.desc
  let e := t.collAt c
  let first := pieceFirst j.desc + start
  let bits := fmtBits (colIn e)
  if pieceRegen e j.desc then
    match s.regenEntry n u e (mdSrcAddr j.desc) (s.pieceCount u e j.desc) with
    | none => (s, none)
    | some p =>
      let r := s.regenerate n u p.1 (mdSrcAddr j.desc) (mdSrcAddr j.desc + start) k
      (r.1.moveOut u c first r.2.1 r.2.2 (utWbs p.2), none)
  else if colSparse e then
    let cols := t.rowWidth e
    let recs := ((s.pieceRows n u j).drop (start / max cols 1)).take (k / max cols 1 + 1)
    let xs := recs.flatMap fun r => ((List.range r.2.length).zip r.2).map fun p => (r.1 * cols + p.1, p.2)
    s.contribute n u c ((xs.drop (start % max cols 1)).take k)
  else
    let codes := ((unpackCodes bits (s.srcBytes n j)).drop start).take k
    if colReduces e then s.contribute n u c (((List.range k).zip codes).map fun p => (first + p.1, p.2))
    else
      let sc := if mdSrcLvl j.desc = 0 then
          s.companionScales n u (mdSrcWin j.desc) (8 * mdSrcAddr j.desc / max bits 1 + start) k
        else ([], 32)
      (s.moveOut u c first codes sc.1 sc.2, none)

/-! ### Buckets (R236) -/

/-- The collectives that carry a bucket, with their numbers. -/
def Tun.bucketColls (t : Tun) (b : Nat) : List (Nat × BitVec 256) :=
  t.job.colls.filter fun p => colBucketed p.2 && colBucket p.2 == b

/-- The dies whose close of a bucket this device's marker waits for. -/
def State.bucketDies (s : State) (u b : Nat) : List Nat :=
  (((s.tun u).bucketColls b).flatMap fun p => s.groupDies u (colGroup p.2)).eraseDups

/-- The members whose markers a reducing member waits for. -/
def Tun.bucketRanks (t : Tun) (b : Nat) : List Nat :=
  ((t.bucketColls b).flatMap fun p => t.groupRanks (colGroup p.2)).eraseDups

/-- Whether a bucket's results may leave the hold: every member's marker is here, and the segments they count. -/
def Tun.bucketReady (t : Tun) (b : Nat) : Bool :=
  let x := Tbl.get ({} : BucketHub) t.buckets b
  x.markerSent && !x.released && (t.bucketRanks b).all fun r =>
    match x.markers.find r with
    | some m => r == t.rank || decide (m.2 ≤ Tbl.get 0 x.got r)
    | none => false

/-- Row-form results sent to their holders: this device's dies, or the holding ranks. A segment with room for another record is the
last of its result, and where the last one with records has none an empty one follows it (R237, R203; log entry 120). -/
def Tun.sendRows (t : Tun) (c : Nat) (e : BitVec 256) (xs : List (Nat × Nat × Bool)) (bit : Bool) : Tun :=
  let cols := t.rowWidth e
  let per := rowsPer cols (colOut e)
  let first := ((t.firstRow e t.rank).getD 0) * cols
  (t.rowHolders e).foldl (fun (t : Tun) r =>
    let gs := cutRows cols (colOut e) (fun _ => []) (xs.filter fun x => (t.receivers e x.1).contains r)
    let gs := match gs.getLast? with
      | none => [([], [])]
      | some g => if g.2.length < per then gs else gs ++ [([], [])]
    ((List.range gs.length).zip gs).foldl (fun (t : Tun) p =>
      let last := p.1 + 1 == gs.length
      let nf := bit || p.2.1.any fun y => y.2.2
      let seg : Seg := { role := .out r, coll := c, round := 0, step := t.stepNow, attempt := t.step.attempt,
                         first := (match p.2.1 with
                           | [] => first
                           | x :: _ => x.1), codes := p.2.1.map fun y => y.2.1, rows := p.2.2, nf := nf, last := last }
      if r = t.rank then
        let dies := ((t.job.shards.filter fun x => shTensor x == colTensor e && shRank x == t.rank).map shDie).eraseDups
        dies.foldl (fun (t : Tun) n => t.stage none { seg with role := .update n }) t.newSlot
      else t.newSlot.stage none seg) t) t

/-- The results of a bucket released to their receivers, with its bit (R236). The cycles of a hold are no operand of the command that
finds it, and are a free value (log entry 116). -/
def State.releaseBucket (s : State) (u b : Nat) : State :=
  let t := s.tun u
  if !(t.bucketReady b) then
    let x := Tbl.get ({} : BucketHub) t.buckets b
    if x.markerSent && !x.released then
      s.draw.setTun u { t with coll := { t.coll with bucketHold := t.coll.bucketHold + Config.openNat 21 s.draws } }
    else s
  else
    let x := Tbl.get ({} : BucketHub) t.buckets b
    let bit := x.markers.any fun m => m.2.1
    let t := { t with buckets := t.buckets.put b { x with released := true },
                      step := { t.step with nfSeen := t.step.nfSeen || bit } }
    let t := ((t.bucketColls b).filter fun p => colUpdates p.2).foldl (fun (t : Tun) p =>
      let k := roundKey p.1 0
      let parts := (Tbl.get ({} : Reduction) t.reductions k).parts
      let r := t.reduce p.1 p.2 parts
      let t := { r.1 with reductions := r.1.reductions.erase k }
      if colSparse p.2 then
        t.sendRows p.1 p.2 r.2 bit
      else
        let bad := (r.2.filter fun y => y.2.2).map Prod.fst
        t.sendResults p.1 p.2 0 (r.2.map fun y => (y.1, y.2.1)) [] (fun i => bit || bad.contains i) false) t
    s.setTun u t

/-- Summed rows of a bucket leave the device: each row's partial is the sum of the dies that touched it (R237). -/
def Tun.flushRows (t : Tun) (b : Nat) : Tun :=
  ((t.bucketColls b).filter fun p => colSparse p.2 && colSummed p.2).foldl (fun (t : Tun) p =>
    let r := Tbl.get ({} : Round) t.rounds p.1
    let ps := r.got.map fun q => (q.1, devicePartial p.2 q.2)
    { t with rounds := t.rounds.put p.1 { r with segs := [] } }.sendPartials p.1 p.2 0 ps) t

/-- Whether a contribution launched into a bucket is still on its way to the hub: a close covers every contribution
launched before it (R193), so the device's marker counts those segments too (DEDUCED, log entry 48). -/
def State.bucketInFlight (s : State) (u b : Nat) : Bool :=
  let t := s.tun u
  s.dies.any fun (p : Nat × Die) => p.2.movs.any fun (j : MovJob) =>
    j.tun == u && !j.void && mdDstLvl j.desc == 4 &&
      (let e := t.collAt (pieceColl j.desc); colBucketed e && colBucket e == b)

/-- The device's close marker of a bucket: once every die of its collectives has closed it and the contributions
launched into it have come, the marker goes to every reducing member, and its own stands (R236). -/
def State.bucketMarker (s : State) (u b : Nat) : State :=
  let t := s.tun u
  let x := Tbl.get ({} : BucketHub) t.buckets b
  if x.markerSent || x.dies.isEmpty || !((s.bucketDies u b).all x.dies.contains) || s.bucketInFlight u b then s
  else
    let t := t.flushRows b
    let x := Tbl.get ({} : BucketHub) t.buckets b
    let t := { t with buckets := t.buckets.put b { x with markerSent := true, markers := x.markers.put t.rank (x.nf, 0) } }
    let t := t.sendCtl (((t.markerRanks b).filter (· != t.rank)).map fun r => .marker r b x.nf (Tbl.get 0 x.sent r))
    (s.setTun u t).releaseBucket u b

/-- A die's close of a bucket at the hub (R236). -/
def State.bucketClosed (s : State) (n u b : Nat) : State :=
  let t := s.tun u
  let x := Tbl.get ({} : BucketHub) t.buckets b
  let x := { x with dies := if x.dies.contains n then x.dies else n :: x.dies }
  (s.setTun u { t with buckets := t.buckets.put b x }).bucketMarker u b

/-! ### Pieces handed over (R229, R230) -/

/-- The next segment of a piece takes a slot once the tun's quota has one free (R230); with the last the piece's
token is set and its launch is over (R229); while none is free the mover holds the rest, for cycles that are a free value (log
entry 116). A piece that a program fault of R234 or R256 meets ends with it
(log entry 49). -/
def State.slotTake (s : State) (n u slot : Nat) : State :=
  match (s.die n).mov u slot with
  | none => s
  | some j =>
    if mdDstLvl j.desc ≠ 4 ∨ j.void then s
    else
      let t := s.tun u
      let e := t.collAt (pieceColl j.desc)
      if tlSlots (s.lay u) ≤ t.slotsUsed then
        s.draw.setTun u { t with coll := { t.coll with stallSegment := t.coll.stallSegment + Config.openNat 21 s.draws } }
      else if !((movPages j.desc).all fun g => (j.pages.find g).isSome) then s
      else
        let total := s.pieceCount u e j.desc
        let k := s.pieceRun n u j j.taken total
        let s := s.noteSource n j
        match s.pieceTaken n u j j.taken k with
        | (s, some f) => ((s.setDie n ((s.die n).dropMov u slot)).movTokens n j).programFault n u f
        | (s, none) =>
          if total ≤ j.taken + k then
            let s := (s.setDie n ((s.die n).dropMov u slot)).movTokens n j
            if colBucketed e then s.bucketMarker u (colBucket e) else s
          else s.setDie n ((s.die n).putMov { j with taken := j.taken + k })

/-! ### Delivery (R232) -/

/-- The place in its window of element x of a record's range, under its re-tiling: lines as long as the window's
inner extent for codes 01 and 11, and as its other extent for 10 (log entry 35). -/
def deliverPlace (w : BitVec 128) (xform x : Nat) : Nat :=
  match xform with
  | 1 => feedIndex w (x / winExtK w) (x % winExtK w)
  | 2 => feedIndex w (x % winExtMn w) (x / winExtMn w)
  | 3 =>
    let q := x / (winExtMn w * winDepth w)
    let r := x % (winExtMn w * winDepth w)
    (r / winDepth w) * winExtK w + q * winDepth w + r % winDepth w
  | _ => x

/-- The byte of DL_SWIN that holds the scale of the block of the element at place p of a window (R232). -/
def scalePlace (w : BitVec 128) (half : Bool) (p : Nat) : Nat :=
  if winFeed w then
    let q := p / (winExtMn w * winDepth w)
    let r := p % (winExtMn w * winDepth w)
    let k := q * winDepth w + r % winDepth w
    1024 * (k / winBs w) + (if half then 512 else 0) + r / winDepth w
  else p / winBs w

/-- A segment of results written into the window of its record. -/
def State.deliverSeg (s : State) (u : Nat) (r : BitVec 128) (e : BitVec 256) (x : Seg) : State :=
  let n := dlDie r
  let c := s.ctx n u
  let sh := s.share u
  let w := c.win (dlWin r)
  let d := s.die n
  let at' (i : Nat) : Nat := deliverPlace w (dlXform r) (x.first - dlFirst r + i)
  let bits := fmtBits (colOut e)
  let m := setElems sh d.mem w bits (((List.range x.codes.length).zip x.codes).map fun p => (bits * at' p.1, p.2))
  let bs := winBs w
  let m := ((List.range x.scales.length).zip x.scales).foldl (fun m p =>
    m.write (winAddr sh (c.win (dlSwin r)) (scalePlace w (dlHalf r) (at' (bs * p.1)))) (BitVec.ofNat 8 p.2)) m
  s.setDie n { d with mem := m }

/-- A staged result whose turn at a delivery record it is: of the collective that the record is being written by, where it is, and of
that collective's next round at the record, since rounds are never mixed (R234). -/
def Tun.turnAt (t : Tun) (rec : Nat) (x : Seg) : Bool :=
  x.role == .deliver rec && x.round == Tbl.get 0 t.dlvRound (x.coll * 4096 + rec)
    && (match t.dlvCount.find rec with
      | some p => p.1 == x.coll
      | none => true)

/-- The results held for a delivery record written into its window once its credit is held; with the last element of
the range the window's token is PRESENT, and the hub is owed the credit, and so is the device that sent a RING or STAGE result (R43,
R232). -/
def State.deliver (s : State) (u rec : Nat) : State :=
  let t := s.tun u
  let r := Tbl.get 0 t.job.dlvs rec
  let xs := t.segs.filter (t.turnAt rec)
  match xs with
  | [] => s
  | x0 :: _ =>
    let key := 1024 * dlDie r + dlWin r
    let done := (Tbl.get (0, 0) t.dlvCount rec).2
    if done = 0 ∧ t.dlvSpent.contains key then s
    else
      let e := t.collAt x0.coll
      let xs := xs.filter fun x => x.coll == x0.coll
      let count := done + xs.foldl (fun k x => k + x.codes.length) 0
      let s := xs.foldl (fun s x => s.deliverSeg u r e x) s
      let full := decide (dlCount r ≤ count)
      let s := s.setTun u { t with
        segs := t.segs.filter (fun x => !(xs.contains x)),
        dlvSpent := if done = 0 then key :: t.dlvSpent else t.dlvSpent,
        farOwed := if (colKind e == 6 || colKind e == 7) && t.sender e != t.rank then t.farOwed.put key (t.sender e) else t.farOwed,
        dlvCount := if full then t.dlvCount.erase rec else t.dlvCount.put rec (x0.coll, count),
        dlvRound := if full then t.dlvRound.put (x0.coll * 4096 + rec) ((x0.round + 1) % 65536) else t.dlvRound }
      if full then (s.owe (dlDie r) u (dlWin r) 8).completeToken (dlDie r) u (dlWin r) true else s

/-! ### A segment from another device (R236, R256, R303) -/

/-- The segment received counted for its bucket's marker; the sums of a sketch follow the markers and are in none. -/
def Tun.countSegment (t : Tun) (e : BitVec 256) (src : Nat) : Tun :=
  if colUpdates e then
    { t with buckets := Tbl.modify {} t.buckets (colBucket e) fun y => { y with got := Tbl.modify 0 y.got src (· + 1) } }
  else t

/-- Whether a segment from another device is a partial for this reducing member, and no result; first is its TP_ELEM, in the row form
a row × UT_COLS (log entry 120). -/
def Tun.isPart (t : Tun) (e : BitVec 256) (src first : Nat) : Bool := colReduces e && t.reducerAt e first == t.rank && src != t.rank

/-- A complete collective segment from another device, in the slot taken last: a partial for this reducing member, a result, or elements of
a kind that moves them. -/
def State.segmentIn (s : State) (u c src round first : Nat) (codes scales rows : List Nat) (nf last : Bool) (bs : Nat) : State :=
  let t := s.tun u
  let e := t.collAt c
  let ranks := t.groupRanks (colGroup e)
  let cols := t.rowWidth e
  let xs := ((List.range codes.length).zip codes).map fun p =>
    (if colSparse e && rows.length != 1 then rows.getD (p.1 / cols) 0 * cols + p.1 % cols else first + p.1, p.2)
  if colKind e = 8 then
    match t.sketchRun e first with
    | none => s
    | some r =>
      if r.reducer = t.rank then s.setTun u (t.takeSketch c e r (xs.map fun p => (p.1, BitVec.ofNat 32 p.2)))
      else
        let dies := ((t.job.shards.filter fun h => shTensor h == r.tensor && shRank h == t.rank).map shDie).eraseDups
        s.setTun u (dies.foldl (fun (t : Tun) n => t.stage none
          { role := .sketch n, coll := c, round := round, step := t.stepNow, attempt := t.step.attempt, first := first, codes := codes }) t)
  else if t.isPart e src first then
    let f := fmtOr (colIn e)
    let s := s.setTun u ((t.countSegment e src).takeParts c e round (memberOf ranks src) (xs.map fun p => (p.1, widen f p.2)))
    if colBucketed e then s.releaseBucket u (colBucket e) else s
  else if colUpdates e then
    if colSparse e then
      let dies := ((t.job.shards.filter fun x => shTensor x == colTensor e && shRank x == t.rank).map shDie).eraseDups
      s.setTun u (dies.foldl (fun (t : Tun) n => t.stage none
        { role := .update n, coll := c, round := round, step := t.stepNow, attempt := t.step.attempt, first := first,
          codes := codes, rows := rows, nf := nf, last := last }) t)
    else s.setTun u (t.stageUpdate c e round xs rows nf last)
  else if colReduces e then s.setTun u (t.stageDeliver c e round first codes [] 32)
  else s.setTun u (t.stageDeliver c e round (resultIndex e ranks.length (memberOf ranks src) first) codes scales bs)

/-- A staged result as the update engine of its die takes it (R190): elements widened, numbered in the tensor. -/
def Tun.gradOf (t : Tun) (x : Seg) : GradSegment :=
  let e := t.collAt x.coll
  { tensor := colTensor e, first := if colSparse e then x.first else colFirst e + x.first, rows := x.rows,
    elems := x.codes.map (widen (fmtOr (colOut e))), nonfinite := x.nf, last := x.last }

end Sys2Proof.Machine
end

