-- ==== Sys2Proof/Machine/Sequencer.lean ====
section
/-! DEFINITION. One cycle of a die's sequencer on the slice at its place, and what an issued slice does outside its
die (R29, R33, R41, R48, R50, R51, R160, R174, R187, R232, R236, R342, R393). -/

namespace Sys2Proof.Machine

/-- Whether the step-start slice must be held: for the step outcome (R187), for the input record (R342), for the
repair after a digest mismatch (R220) or for a re-sharding step (R250). -/
def State.stepHeld (s : State) (n u : Nat) : Bool :=
  let t := s.tun u
  let c := s.ctx n u
  c.hold || (c.pc == c.stepStart &&
    ((t.inputTap && !(t.inputs.contains (t.stepNow, t.step.attempt))) || !(t.digestBad.isEmpty) || t.reshard != .no || t.restoring))

/-- The tun whose slices a die may issue now: the one its slice is switched to, running on a running device and not
stopped at a fault. Below 40 V of input nothing new is issued (R387). -/
def State.issuer (s : State) (n : Nat) : Option Nat :=
  let d := s.die n
  if s.pwr.state = .run ∧ !s.pwr.noNewWork ∧ !d.lost ∧ d.colFaults.isEmpty ∧ !d.slice.switching ∧ !d.slice.idle then
    match d.slice.cur with
    | some u =>
      let c := s.ctx n u
      if c.resident && !c.stopped && !c.halted then some u else none
    | none => none
  else none

/-- Whether a die of a tun waits at its step close while its coder holds (R264). -/
def State.closeHeld (s : State) (n u : Nat) : Bool :=
  let c := s.ctx n u
  (s.die n).slice.cur == some u && !(s.coderFree n u 65472)
    && (match c.sliceAt c.pc with
      | some sl => syncOp sl == 0x10
      | none => false)

/-- A cycle in which a step close waits for its buckets while the die's coder holds is a racking stall cycle (R264), counted once
over the dies of the tun that wait so: with the lowest of them. -/
def State.noteStall (s : State) (n u : Nat) (sl : Slice) (w : Wait) : State :=
  let t := s.tun u
  if w = .sealed ∧ syncOp sl = 0x10 ∧ !(s.coderFree n u 65472) ∧ !((s.diesOf u).any fun d => decide (d < n) && s.closeHeld d u) then
    s.setTun u { t with rackStat := { t.rackStat with stall := t.rackStat.stall + 1 } }
  else s

/-- A die after a cycle in which the slice at its gate waits. -/
def State.waitCycle (s : State) (n u : Nat) (w : Wait) : State :=
  let d := s.die n
  let d := d.setCtx u ((d.ctx u).waited w)
  s.setDie n { d with cycle := d.cycle + 1,
                      waiting := if w = .src ∨ w = .slip then d.waiting + 1 else 0 }

/-- What a slice that issues does outside its die: share-violation events of refused launches (R160), the credits
of far windows spent (R232), a halt reported (R33), the step close at the commit unit (R34, R103), the close of a bucket (R236), the sums of a flush (R200), and the end of a time slice at a seal
point (R54). -/
def State.issued (s : State) (n u : Nat) (sl : Slice) (voids far : List Nat) (nonfinite : Bool) : State :=
  let t := s.tun u
  let again := t.refusedBefore
  let t := if far.isEmpty then t else { t with farSpent := far ++ t.farSpent }
  let t := if voids.isEmpty then t else { t with refusedLaunch := true }
  let t := if ctlOp sl = 6 ∧ !(t.halted.contains n) then { t with halted := n :: t.halted } else t
  let s := s.setTun u t
  let s := voids.foldl (fun s m => s.event u 0x21 [n, m, movDesc sl m]) s
  let s := if !(voids.isEmpty) && again then s.stopTun u else s
  let s := if syncOp sl = 0x10 then s.stepClosed n u nonfinite else s
  let s := if updOp sl = 2 then s.bucketClosed n u (updBucket sl) else s
  let s := if updOp sl = 3 then s.flushSketch n u (updBucket sl) else s
  if ctlSeal sl then s.sealPassed n u else s

/-- A slice issued on a die, with everything it does at once. -/
def State.issueNow (s : State) (n u : Nat) (sl : Slice) : State :=
  let s := if ctlSeal sl then s.copyRows n u else s
  let d := s.die n
  let c := d.ctx u
  let voids := s.voids n u sl
  let far := s.sliceFar n u sl
  let r := issueSlice (s.share u) u n s.ringOff (s.keptOn n) d c sl voids
  let d := { r.1.wakeAll r.1.idleGated with waiting := 0, idleGated := [] }
  ((s.setDie n (d.setCtx u r.2)).issued n u sl voids far (c.num.stepNonfinite || newLoss (s.die n) r.1)).fillPages

/-- One cycle of die n's sequencer on the slice at its place, for a command that names an operation of it: names
tells whether the slice holds that operation; without it the command does nothing. A fetch is waited for; a held
step-start slice waits on its source; else the gate decides (R41, R50, R51). -/
def State.sliceCommand (s : State) (n : Nat) (names : Slice → Bool) : State :=
  match s.issuer n with
  | none => s
  | some u =>
    let c := s.ctx n u
    match c.sliceAt c.pc with
    | none => s.waitCycle n u .fetch
    | some sl =>
      if !(names sl) then s
      else if s.stepHeld n u then
        let s := s.waitCycle n u .src
        let c := s.ctx n u
        s.setCtx n u { c with fetchWait := c.fetchWait - 1 }
      else if c.fetchWait ≠ 0 then s.waitCycle n u .fetch
      else
        let g := s.gateIn n u sl
        let d := s.die n
        match gateSlice g d c sl with
        | .go => s.issueNow n u sl
        | .fault f => s.programFault n u f
        | .wait w =>
          let ks := wakeDemand g d c sl
          let s := if ks.isEmpty then s
            else s.setDie n { d.wakeAll ks with idleGated := d.idleGated.filter fun k => !(ks.contains k) }
          let s := (s.waitCycle n u w).noteStall n u sl w
          if g.throttled && w == .wake then { s with pwr := { s.pwr with throttleCycles := s.pwr.throttleCycles + 1 } }
          else s

end Sys2Proof.Machine
end

