-- ==== Sys2Proof/Machine/ArrayOps.lean ====
section
/-! DEFINITION. Faults of the cube array on the device (R75, R78 to R81), delayed drains (R138) and the gating of a die
that waits (R247). -/

namespace Sys2Proof.Machine

/-- The ARR_REPAIR record of a die (R72). -/
def arrRecord (n presented : Nat) (bad : List Nat) : BitVec 192 :=
  BitVec.ofNat 192 ((List.range 132).foldl (fun x q => if bad.contains q then x + 2 ^ q else x) 0
    + presented * 2 ^ 132 + n % 8 * 2 ^ 140)

/-- A die's repair map appended to the log. -/
def State.logArray (s : State) (n : Nat) : State :=
  let d := s.die n
  s.logRepair 0x10 (arrRecord n d.arr.presented d.badMap)

/-- The band of the presented column that a physical column stands for with a bad map (R25, R70). -/
def bandOf (bad : List Nat) (col : Nat) : Nat := ((List.range col).filter fun q => !(bad.contains q)).length / 8

/-- The slice plan of a die suspended, where it holds a sealed tun (R81, R406). -/
def State.suspend (s : State) (n : Nat) : State :=
  if s.sealedDie n then s.setSlice n { (s.die n).slice with suspended := true } else s

/-- The slice plans of the dies of some tuns suspended, where a die holds a sealed tun (R406). -/
def State.suspendDies (s : State) (us : List Nat) : State :=
  (us.flatMap fun u => tlDies (s.lay u)).foldl (fun s n => s.suspend n) s

/-- A residue mismatch in a physical column in use (R78, R81). -/
def State.columnStops (s : State) (n col row : Nat) : State :=
  let d := s.die n
  if d.lost || d.arr.fenced || d.badMap.contains col then s
  else (s.setDie n (d.columnFault s.nowPs col row)).suspend n

/-- An array fault that spares cannot absorb: the array domains are fenced and the tuns on the die stop (R75, R80,
R404 class 9). -/
def State.arrayLost (s : State) (n unit : Nat) : State :=
  let d := s.die n
  if d.lost then s
  else
    let d := { d.dropOpenJobs with bank0 := {}, bank1 := {} }
    ((s.setDie n (d.fenceArray false)).stopOnDie n).fault 9 n unit allOnes64

/-- The test of a column or of its spare ends (R78, R80): a fault that is absorbed is counted with the time issue
stood; a retired column goes to the repair log; with no spare left the tuns on the die stop. -/
def State.columnTested (s : State) (n col : Nat) (ok : Bool) : State :=
  let d := s.die n
  let from' := match d.colFaults with
    | f :: _ => f.stoppedAt
    | [] => 0
  let r := d.columnTest s.nowPs col ok s.shares
  let s := s.setDie n r.1
  let ns := (r.1.cycle - from') * 8 / 10
  match r.2 with
  | .nothing | .spareTest _ => s
  | .resumed => s.fault 1 n (bandOf d.badMap col) ns
  | .retired q => (s.logArray n).fault 1 n (bandOf d.badMap q) ns
  | .fenced q => ((s.logArray n).stopOnDie n).fault 9 n (bandOf d.badMap q) allOnes64

/-- The overflow test of the delayed drain of bank b (R138). -/
def State.delayedEnds (s : State) (n b : Nat) : State :=
  match (s.die n).dueTile b with
  | none => s
  | some t => s.putOut n ((s.die n).delayedEnd (s.share t.tun) b)

/-- A keeper gated at once (R395): a clock-gated domain may go on to power-gated. -/
def Keeper.gate (k : Keeper) (power : Bool) : Keeper :=
  if k.fenced || k.stopHeld || k.waking then k
  else if power then { k with power := .powerGated, gateReq := none }
  else if k.power = .on then { k with power := .clockGated, gateReq := none } else k

/-- Whether a gating of a kind would change a keeper. -/
def Keeper.gates (k : Keeper) (power : Bool) : Bool := k.gate power != k

/-- A die that has waited long on conditions 1, 3 or 6 asks for the gating of its idle domains K0 to K20; each
request counts for the tun that waits. A die that holds a sealed tun asks for none (R247). -/
def State.idleGates (s : State) (n cycles : Nat) (kind : GateReq) : State :=
  let d := s.die n
  if d.waiting < cycles || s.sealedDie n then s
  else
    let power := kind == .power
    let ks := (List.range 21).filter fun k => !(d.busy k) && (d.keeper k).gates power
    let d := { d with keepers := ks.foldl (fun t k => Tbl.modify {} t k fun x => x.gate power) d.keepers,
                      idleGated := d.idleGated ++ ks.filter fun k => !(d.idleGated.contains k) }
    let s := s.setDie n d
    match d.slice.cur with
    | some u =>
      let t := s.tun u
      s.setTun u { t with coll := { t.coll with idleGates := t.coll.idleGates + ks.length } }
    | none => s

end Sys2Proof.Machine
end

