-- ==== Sys2Proof/Machine/Array.lean ====
section
/-! DEFINITION. The commands of the cube array and of its faults (chapter 03), and the gating of a waiting die (R247). -/

namespace Sys2Proof.Machine

/-- PASS (R62): a slice with ARR_OP 0x1. -/
def execPass (d : DieId) (s : State) : Host.Outcome State Fault Refusal :=
  .next (s.sliceCommand d.val fun sl => arrOp (arrGroup sl) == 1)

/-- PRELOAD (R65). -/
def execPreload (d : DieId) (s : State) : Host.Outcome State Fault Refusal :=
  .next (s.sliceCommand d.val fun sl => arrOp (arrGroup sl) == 2)

/-- DRAIN (R66). -/
def execDrain (d : DieId) (s : State) : Host.Outcome State Fault Refusal :=
  .next (s.sliceCommand d.val fun sl => arrOp (arrGroup sl) == 3)

/-- PASS_END (R62, R63): the pass on bank b reaches its pass end. -/
def execPassEnd (d : DieId) (b : Fin 2) (s : State) : Host.Outcome State Fault Refusal :=
  .next (s.setDie d.val ((s.die d.val).passEnds b.val))

/-- DRAIN_LAST_ROW_READ (R66, R68, R76): the drain of bank b reads its last row. -/
def execDrainLastRowRead (d : DieId) (b : Fin 2) (s : State) : Host.Outcome State Fault Refusal :=
  .next (s.putOut d.val ((s.die d.val).lastRow b.val))

/-- COLUMN_FAULT (R78): a residue mismatch in a presented column. Both banks are cleared and the running tun's issue
stops; on a die that holds a sealed tun the slice plan is suspended (R81). -/
def execColumnFault (d : DieId) (col : Fin 132) (row : Fin 128) (s : State) : Host.Outcome State Fault Refusal :=
  .next (s.columnStops d.val col.val row.val)

/-- B_BUS_PARITY_ERROR (R75): handled as a residue mismatch in its column; the cube row that ARR_LAST_ROW then names is a
free value, since the error names a column alone (log entry 101). -/
def execBBusParityError (d : DieId) (col : Fin 132) (s : State) : Host.Outcome State Fault Refusal :=
  .next (s.draw.columnStops d.val col.val (Config.openNat 20 s.draws % 128))

/-- A_BUS_PARITY_ERROR (R75, R80): an array fault that spares cannot absorb. -/
def execABusParityError (d : DieId) (s : State) : Host.Outcome State Fault Refusal :=
  .next (s.arrayLost d.val 0xFF)

/-- COLUMN_TEST_DONE (R78 to R80): the test of a column, or of the spare that took its place, ends. -/
def execColumnTestDone (d : DieId) (col : Fin 132) (ok : Bool) (s : State) : Host.Outcome State Fault Refusal :=
  .next (s.columnTested d.val col.val ok)

/-- IDLE_GATE (R247): after 2,048 waiting cycles the steward asks for clock gating of the idle array and vector
domains. -/
def execIdleGate (d : DieId) (s : State) : Host.Outcome State Fault Refusal :=
  .next (s.idleGates d.val 2048 .clock)

/-- IDLE_POWER_GATE (R247): after 80,000 waiting cycles it asks for power gating of the same domains. -/
def execIdlePowerGate (d : DieId) (s : State) : Host.Outcome State Fault Refusal :=
  .next (s.idleGates d.val 80000 .power)

end Sys2Proof.Machine
end

