-- ==== Sys2Proof/Machine/CaskOps.lean ====
section
/-! DEFINITION. What HD sends of racking and casks: buffered segments taken into slots, the commit segment, the pieces
of a cask and an evaluation cask, and the rings of the taps that lie in host memory (R264 to R266, R270 to R274,
R340, R341). -/

namespace Sys2Proof.Machine

/-! ### Slots -/

/-- Whether a racking slot of a tun is free. -/
def State.slotFree (s : State) (u : Nat) : Bool := decide ((s.tun u).slotsHeld < tlRackSlots (s.lay u))

/-- The host's index of a ring moved on: the segments of the slots it covers are acknowledged (R265, R340). -/
def State.ackRing (s : State) (u k idx : Nat) : State :=
  let t := s.tun u
  let r := t.ring k
  let idx := min idx r.devIdx
  if idx ≤ r.hostIdx then s
  else
    let s := s.setTun u (t.setRing k { r with hostIdx := idx })
    let xs := (s.tun u).rack.segs.filter fun x =>
      x.ringOf == k && x.sentAt.isSome && x.mac.isNone && decide ((x.seq + 1) * bulkSlot ≤ idx) && decide (r.hostIdx < (x.seq + 1) * bulkSlot)
    (xs.foldl (fun s x => s.ackOne u x) s).fillTunRings u

/-! ### The commit segment (R266) -/

/-- The commit segment of the oldest committed step whose segments are all acknowledged. RK_DIE is 0 (log entry 43). -/
def State.sendCommit (s : State) (u : Nat) : State :=
  let t := s.tun u
  match t.rack.pending with
  | [] => s
  | (step, attempt) :: rest =>
    if t.stepDurable step && s.slotFree u then
      let f : RkFields := { type := 6, tun := u, rank := t.rank, step := step, attempt := attempt }
      let x := sealSegment t.rackKey f (bytesOfNat 768 (Tbl.get 0 t.rack.commits step).toNat)
      (s.setTun u { t with rack := { t.rack with pending := rest, commits := t.rack.commits.erase step,
                                                 commitSent := step :: t.rack.commitSent } }).hubRack u x
    else s

/-! ### Cask and evaluation pieces (R270 to R274) -/

/-- A piece descriptor (R272), from the entry that the piece was planned under. -/
def State.pieceDescriptor (s : State) (u : Nat) (p : CaskPiece) : Nat :=
  let t := s.tun u
  let e := p.ut
  let tt := Tbl.get 0 t.job.tensors (utTensor e)
  let period := max t.job.caskPeriod 1
  let count := min (64 * p.blocks) (utCount e - 64 * p.firstBlock)
  utTensor e % 2 ^ 32 + utKind e % 8 * 2 ^ 32 + field tt 35 2 * 2 ^ 35 + field tt 37 5 * 2 ^ 37 + period % 256 * 2 ^ 42
    + p.piece % period % 256 * 2 ^ 50 + field tt 64 128 * 2 ^ 64 + (utFirst e + 64 * p.firstBlock) % 2 ^ 40 * 2 ^ 192
    + count % 2 ^ 40 * 2 ^ 232 + p.sent % 2 ^ 40 * 2 ^ 272 + Bytes.toNat (sha3_512 p.cipher) * 2 ^ 320

/-- The key of a piece's segments: the racking key, or the evaluation export key (R263, R274). -/
def Tun.pieceKey (t : Tun) (p : CaskPiece) : Bytes := if p.evaluation then t.evalKey else t.rackKey

/-- The header fields of a piece's segments (R261). -/
def Tun.pieceFields (t : Tun) (u : Nat) (p : CaskPiece) (type : Nat) : RkFields :=
  { type := type, tun := u, rank := t.rank, die := p.die, step := p.base, attempt := p.attempt, seq := p.piece, tensor := utTensor p.ut }

/-- A cask or evaluation segment put into a slot. -/
def State.putSlot (s : State) (u : Nat) (x : RackSeg) : State :=
  let t := s.tun u
  s.setTun u { t with rack := { t.rack with segs := t.rack.segs ++ [x] } }

/-- A piece's commit segment, which leaves the piece to its acknowledgement. An evaluation piece's commit record has type
0x9 under the evaluation key, and its digest is kept for the die's type 0xB segment (log entry 44). -/
def State.commitPiece (s : State) (u : Nat) (p : CaskPiece) : State :=
  let t := s.tun u
  let x := { sealSegment (t.pieceKey p) (t.pieceFields u p 9) (bytesOfNat 128 (s.pieceDescriptor u p)) with evaluation := p.evaluation }
  let evals := if p.evaluation then t.rack.evals.map fun c =>
      if c.die = p.die ∧ c.base = p.base then { c with digests := c.digests.put p.piece (sha3_512 p.cipher) } else c
    else t.rack.evals
  (s.setTun u { t with rack := { t.rack with pieces := t.rack.pieces.filter (· != p), evals := evals } }).putSlot u x

/-- Whether every piece of a die's evaluation cask is committed and every segment of it acknowledged (R275). -/
def Tun.evalDurable (t : Tun) (c : EvalCask) : Bool :=
  !(t.rack.pieces.any fun p => p.evaluation && p.die == c.die && p.base == c.base)
    && !(t.rack.segs.any fun x => x.evaluation && (RkFields.ofHeader x.header).die == c.die && (RkFields.ofHeader x.header).step == c.base)

/-- The type 0xB segment that ends a die's evaluation cask: SHA3-512 of the digests in piece order, and how many there are (R262). -/
def State.endEvaluation (s : State) (u : Nat) (c : EvalCask) : State :=
  let t := s.tun u
  let f : RkFields := { type := 11, tun := u, rank := t.rank, die := c.die, step := c.base, attempt := c.attempt, seq := c.digests.length }
  let x := { sealSegment t.evalKey f (sha3_512 (c.digests.flatMap Prod.snd)) with evaluation := true }
  (s.setTun u { t with rack := { t.rack with evals := t.rack.evals.filter (· != c) } }).putSlot u x

/-- The next 65,472 bytes of a piece read and put into a slot (R262, R270). -/
def State.sendChunk (s : State) (u : Nat) (p : CaskPiece) : State :=
  let t := s.tun u
  let whole := match p.snapshot with
    | some x => x
    | none => s.piecePayload p.die u ((p.base + 1) % 2) p
  let part := (whole.drop p.sent).take 65472
  let f := { t.pieceFields u p (if p.evaluation then 10 else 8) with first := p.sent }
  let x := { sealSegment (t.pieceKey p) f part with evaluation := p.evaluation }
  let q := { p with sent := p.sent + part.length, cipher := p.cipher ++ x.payload, unacked := p.unacked + 1,
                    done := decide (whole.length ≤ p.sent + part.length) }
  (s.setTun u { t with rack := { t.rack with pieces := t.rack.pieces.map fun y => if y == p then q else y } }).putSlot u x

/-! ### Delivery to an input tap of this device (R274, R341) -/

/-- The rank and the tun that an evaluation tap names for delivery to another tun (R341). -/
def evalRank (e : BitVec 1024) : Nat := field e (8 * 76) 8
/-- The destination tun. -/
def evalTun (e : BitVec 1024) : Nat := field e (8 * 77) 8

/-- The tun of this device whose input tap an evaluation tap names, if it names one: with no endpoint and no area, the tun named,
where its rank is this device's (log entry 125). -/
def State.evalTarget (s : State) (u : Nat) : Option Nat :=
  match tapOn (s.tun u).evalTap with
  | none => none
  | some e =>
    let v := evalTun e
    if !(flag e 10) && areaSize e 0 == 0 && evalRank e == (s.tun v).rank && (s.tun v).inputTap then some v else none

/-- Evaluation segments for another tun of this device written into its input tap, where they are durable. -/
def State.evalLocal (s : State) (u : Nat) : State :=
  match s.evalTarget u with
  | none => s
  | some v =>
    ((s.tun u).rack.segs.filter fun x => x.evaluation && x.place == .slot && x.sentAt.isNone).foldl (fun (s : State) x =>
      (s.setTun v ((s.tun v).importSeg (bytesOfNat 64 x.header.toNat ++ x.payload))).ackOne u x) s

/-- A die's cask read (R270): with a slot free and no racking segment waiting for one, the commit of a piece whose data is
acknowledged, the end of an evaluation cask, or the next data segment. -/
def State.caskRead (s : State) (n u : Nat) : State :=
  let t := s.tun u
  let mine : List CaskPiece := t.rack.pieces.filter fun p => p.die == n
  let waits := t.rack.segs.any fun x => x.place != .slot
  if !(s.slotFree u) || waits then s
  else
    let s :=
      match mine.find? (fun (p : CaskPiece) => p.done && p.unacked == 0) with
      | some p => s.commitPiece u p
      | none =>
        match t.rack.evals.find? (fun (c : EvalCask) => c.die == n && t.evalDurable c) with
        | some c => s.endEvaluation u c
        | none =>
          match mine.find? (fun (p : CaskPiece) => !p.done) with
          | some p => s.sendChunk u p
          | none => s
    (s.fillTunRings u).evalLocal u

end Sys2Proof.Machine
end

