-- ==== Sys2Proof/Machine/Casks.lean ====
section
/-! DEFINITION. The commands of racking and casks as HD sends them (R264, R266, R270). -/

namespace Sys2Proof.Machine

/-- RACKING_CODER_IDLE_CLOSE (R264): a coder with no block for 256 cycles closes its segment and hands it to HD, where
one can be taken; a stopped device codes nothing (R269, R402). -/
def execRackingCoderIdleClose (d : DieId) (u : TunId) (s : State) : Host.Outcome State Fault Refusal :=
  .next (if s.pwr.state != .stopped && s.coderFree d.val u.val 65472 then s.closeCoder d.val u.val else s)

/-- RACKING_BUFFER_TAKE (R264): HD takes a die's buffered segments in order as slots free. -/
def execRackingBufferTake (d : DieId) (u : TunId) (s : State) : Host.Outcome State Fault Refusal :=
  .next (s.takeBuffered d.val u.val)

/-- COMMIT_SEGMENT_SEND (R266): the commit segment of a committed step, every segment of which is acknowledged. -/
def execCommitSegmentSend (u : TunId) (s : State) : Host.Outcome State Fault Refusal := .next ((s.sendCommit u.val).fillTunRings u.val)

/-- CASK_PIECE_READ (R270): a die reads and sends of its pieces as slots free. -/
def execCaskPieceRead (d : DieId) (u : TunId) (s : State) : Host.Outcome State Fault Refusal := .next (s.caskRead d.val u.val)

end Sys2Proof.Machine
end

