-- ==== Sys2Proof/Machine/SecOps.lean ====
section
/-! DEFINITION. The security block's own operations (R366, R367, R376, R383, R384): extending a measurement register,
zeroising a tun, and the tamper latch. -/

namespace Sys2Proof.Machine

/-- A measurement register: 64 bytes, zero at reset. -/
def State.mr (s : State) (i : Nat) : Bytes := Tbl.get (List.replicate 64 0) s.sec.mrs i

/-- A register extended with a digest (R366). -/
def extend (r d : Bytes) : Bytes := sha3_512 (r ++ d)

/-- Measurement register i extended with the SHA3-512 of some bytes. -/
def State.measure (s : State) (i : Nat) (bs : Bytes) : State :=
  { s with sec := { s.sec with mrs := s.sec.mrs.put i (extend (s.mr i) (sha3_512 bs)) } }

/-- A signature that failed (R386). -/
def State.sigFailed (s : State) : State := { s with sec := { s.sec with sigFail := s.sec.sigFail + 1 } }

/-- A die without a tun's bytes and context (R384 steps 2 to 4): its operations are abandoned, and the banks its
tiles held are ZERO. -/
def Die.zeroise (d : Die) (u : Nat) (sh : Share) : Die :=
  let mine := d.tiles.any fun t => t.tun == u
  let m := d.mem.zeroRange (4096 * sh.spLine0) (4096 * sh.spLines)
  let m := m.zeroRange (2 ^ 32 + 2048 * sh.loftLine0) (2048 * sh.loftLines)
  let m := m.zeroRange (2 ^ 32 + 2 ^ 31 + 2048 * sh.loftLine0) (2048 * sh.loftLines)
  { d with
    mem := m, ctxs := d.ctxs.erase u, tiles := d.tiles.filter fun t => t.tun != u,
    vec0 := d.vec0.filter fun j => j.tun != u, vec1 := d.vec1.filter fun j => j.tun != u,
    movs := d.movs.filter fun j => j.tun != u,
    bank0 := if mine then {} else d.bank0, bank1 := if mine then {} else d.bank1 }

/-- What a tun has of its taps and rings, which are the host's and outlast its job (R337 to R345). -/
def Tun.taps (t : Tun) : Tun :=
  { events := t.events, statusTap := t.statusTap, statusDue := t.statusDue, statusOut := t.statusOut, evReq := t.evReq, rsGo := t.rsGo,
    rackTap := t.rackTap, rackTapNext := t.rackTapNext, caskTap := t.caskTap, caskTapNext := t.caskTapNext, evalTap := t.evalTap,
    inputTap := t.inputTap, inputs := t.inputs, granMap := t.granMap, granMapNext := t.granMapNext, granArea := t.granArea, granWc := t.granWc,
    layNow := t.layNow, cmdIdx := t.cmdIdx, inIdx := t.inIdx, statusTags := t.statusTags, rackRing := t.rackRing, caskRing := t.caskRing, evalRing := t.evalRing, outRing := t.outRing, statusRing := t.statusRing }

/-- What stays of a tun at the hub when it is unloaded: its taps, its bung word and its counters (R344, R384). -/
def Tun.unloaded (t : Tun) : Tun :=
  { t.taps with bung := t.bung, commit := t.commit, coll := t.coll, rackStat := t.rackStat }

/-- A tun torn down (R384): stopped, its storage zeroised on every die and on HD, its keys and SEC_TMR cleared. A
step it was running spoils, and its outcome is told nowhere (R385). -/
def State.tearDownTun (s : State) (u : Nat) : State :=
  let s := s.stopTun u
  let sh := s.share u
  let s := (s.diesOf u).foldl (fun s n => s.setDie n ((s.die n).zeroise u sh)) s
  let s := { s with cellar := s.cellar.forget u (s.cellarKey u) }
  let s := s.setTun u (s.tun u).unloaded
  { s with sec := { s.sec with teardowns := s.sec.teardowns + 1 } }

/-- A tun without its keys. -/
def Tun.keyless (t : Tun) : Tun := { t with ts := none, nonce := [], imports := [] }

/-- The lid loop opens (R383): key slots, every TS and S are zeroised, every tun stops, the latch is set. -/
def State.tampered (s : State) : State :=
  let s := s.stopAll
  let s := (List.range 32).foldl (fun (s : State) u => { s with cellar := s.cellar.forget u (s.cellarKey u) }) s
  let s := { s with tuns := s.tuns.mapVals Tun.keyless,
                    sec := { s.sec with tamper := true, seed := none, ideKeyed := false } }
  s.fault 13 8 23 allOnes64

end Sys2Proof.Machine
end

