-- ==== Sys2Proof/Machine/FaultOps.lean ====
section
/-! DEFINITION. Faults by class (R28, R173, R404 to R406, R409): what each class stops, the loss of a compute die, the
exposure of a parity group, and reports held while the device is STOPPED. -/

namespace Sys2Proof.Machine

/-- The tuns with a run in a parity group. -/
def State.tunsIn (s : State) (pg : Nat) : List Nat :=
  (List.range 32).filter fun u => (s.runsOf u).any fun r => r.pg == pg

/-- A parity group becomes exposed: every tun with a run in it hears of it (R173). -/
def State.expose (s : State) (pg : Nat) : State :=
  let s := s.setGroup pg { s.group pg with state := .exposed }
  (s.tunsIn pg).foldl (fun s u => s.event u 0x30 [pg]) s

/-- A parity group that can lose no more is fenced: every tun with a run in it stops, and the fault is of class 10
(R173). -/
def State.groupLost (s : State) (pg die unit : Nat) : State :=
  let s := s.setGroup pg { s.group pg with state := .fenced }
  ((s.tunsIn pg).foldl (fun s u => s.stopTun u) s).fault 10 die unit allOnes64

/-- A die's domains fenced: all of them where it is dark; K32–K37 are kept by a compute fence (R324). -/
def Die.fenceAll (d : Die) (dark : Bool) : Die :=
  let ks := (List.range 40).filter fun k => dark || decide (k < 32) || decide (37 < k)
  let fence (x : Keeper) : Keeper := { x with fenced := true, waking := false, gateReq := none }
  { d with keepers := ks.foldl (fun t k => Tbl.modify {} t k fence) d.keepers }

/-- A ring link off in both directions (R319, R405). -/
def State.linkOff (s : State) (l : Nat) : State :=
  (List.range 2).foldl (fun s dir => s.setLinkDir l dir { s.linkDir l dir with off := true }) s

/-- The parity group of a die that goes dark (R324, R405): exposed at once; in a group that has lost an interface
already it is a second loss (R173). -/
def State.darkGroup (s : State) (n : Nat) : State :=
  match (s.group (n / 2)).state with
  | .whole => s.expose (n / 2)
  | .exposed | .rebuilding => if (s.group (n / 2)).failed.isSome then s.groupLost (n / 2) n n else s
  | .fenced => s

/-- The unit a die-loss cause names (R412): the hub link, or the sequencer's domain. -/
def lossUnit (n cause : Nat) : Nat := if cause = 7 ∨ cause = 8 then n else 38

/-- A compute die lost in service (R405): the tuns with it in TL_DIES stop; it is fenced, dark when its management
island is lost; its ring links go off and its group is exposed when it is dark; a die-loss event is posted. While
the device is STOPPED the report is held (R409). -/
def State.loseDie (s : State) (n cause : Nat) (dark : Bool) : State :=
  if (s.die n).lost then s
  else if s.pwr.state = .stopped then
    let r : HeldReport := { cls := 11, die := n, unit := cause + if dark then 16 else 0, time := s.timeNs }
    { s with pwr := { s.pwr with reports := s.pwr.reports ++ [r] } }
  else
    let s := s.stopOnDie n
    let d := (s.die n).fenceAll dark
    let s := s.setDie n { d with lost := true, stripes := if dark then [] else d.stripes }
    let s := s.setFound n { s.found n with state := if dark then .dark else .computeFence, cause := cause }
    let s := { s with links := { s.links with lost := s.links.lost.put n (cause + if dark then 16 else 0) } }
    let s := if dark then ((s.linkOff (8 + n)).linkOff (8 + (n + 7) % 8)).darkGroup n else s
    let s := s.deviceEventBytes 0x35
      ([BitVec.ofNat 8 n, if dark then 2 else 1, BitVec.ofNat 8 cause, 0, 0, 0, 0, 0] ++ bytesOfNat 8 s.detectedNs)
    s.fault 11 n (lossUnit n cause) allOnes64

/-- Every tun stops, as for the loss of the commit unit (R399, R404 class 12). -/
def State.commitStops (s : State) (unit : Nat) : State := s.stopAll.fault 12 8 unit allOnes64

/-- The loss of the commit unit (R404 class 12); while the device is STOPPED the report is held (R409). -/
def State.commitLost (s : State) (unit : Nat) : State :=
  if s.pwr.state = .stopped then
    let r : HeldReport := { cls := 12, die := 8, unit := unit, time := s.timeNs }
    { s with pwr := { s.pwr with reports := s.pwr.reports ++ [r] } }
  else s.commitStops unit

/-- The cause of a die loss that a report of class 11 does not state: one of the four of R405 is drawn. -/
def reportCause (unit : Nat) : Nat := if unit = 35 then 7 else 7 + Config.openNat 5 unit % 4

/-- The longest interruption of an absorbed fault by class, in ns (R404). -/
def absorbBound : Nat → Nat
  | 1 => 130970
  | 2 => 12210
  | 3 => 10250
  | 4 => 201380
  | 7 => 20000
  | _ => 0

/-- An absorbed fault whose interruption the spec bounds and does not state: the time is a free value within its
bound (R404). -/
def State.absorbed (s : State) (cls die unit : Nat) : State :=
  s.draw.fault cls die unit (Config.openNat 6 s.draws % (absorbBound cls + 1))

/-- What a fault of a class does beyond the flags of the step (R404). -/
def State.handle (s : State) (cls die unit : Nat) (u : Option Nat) : State :=
  match cls with
  | 0 => s
  | 9 => (s.stopOnDie die).fault 9 die unit allOnes64
  | 10 =>
    match u with
    | some u => (s.stopTun u).fault 10 die unit allOnes64
    | none => ((s.tunsIn (die / 2)).foldl (fun s u => s.stopTun u) s).fault 10 die unit allOnes64
  | 11 => if die < 8 then
      let c := reportCause unit
      s.loseDie die c (c == 8 || c == 10)
    else s
  | 12 => s.commitLost unit
  | 13 => s.tampered
  | c => s.absorbed c die unit

/-- A report held while STOPPED, handled after release (R409). -/
def State.handleHeld (s : State) (r : HeldReport) : State :=
  let s := { s with pwr := { s.pwr with detected := some r.time } }
  let s := match r.intNs with
    | some ns => s.fault r.cls r.die r.unit ns
    | none => if r.cls = 11 then s.loseDie r.die (r.unit % 16) (decide (16 ≤ r.unit)) else s.handle r.cls r.die r.unit none
  { s with pwr := { s.pwr with detected := none } }

/-- A fault report reaches its owner (R28): a fault that makes a result untrustworthy sets the spoil flag of the tun
whose step consumed it; its class does the rest. -/
def State.report (s : State) (owner unit cls : Nat) (u : Option Nat) : State :=
  let s := match u with
    | some u => if cls = 3 ∨ cls = 6 ∨ cls = 8 then (if owner < 8 then s.spoil owner u else s.spoilAll u) else s
    | none => s
  if s.pwr.state = .stopped ∧ cls ≠ 0 ∧ cls ≠ 13 then
    let r : HeldReport := { cls := cls, die := owner, unit := unit, time := s.timeNs }
    { s with pwr := { s.pwr with reports := s.pwr.reports ++ [r] } }
  else s.handle cls owner unit u

end Sys2Proof.Machine
end

