-- ==== Sys2Proof/Machine/PowerOps.lean ====
section
/-! DEFINITION. Power (R276, R387 to R409): the limits of the image, throttling, the emergency stop and its release,
DEEP IDLE, pull preparation and the loss of power. -/

namespace Sys2Proof.Machine

/-! ### PWR_CONFIG (R410) -/

/-- PWR_OC_TRIP in A. -/
def Pwr.ocTrip (p : Pwr) : Nat := field p.config 0 8
/-- PWR_LIM_1S in W. -/
def Pwr.lim1s (p : Pwr) : Nat := field p.config 8 11
/-- PWR_LIM_10MS in W. -/
def Pwr.lim10ms (p : Pwr) : Nat := field p.config 19 11
/-- PWR_T_THROTTLE in °C. -/
def Pwr.tThrottle (p : Pwr) : Nat := field p.config 30 7
/-- PWR_T_TRIP in °C. -/
def Pwr.tTrip (p : Pwr) : Nat := field p.config 37 7
/-- PWR_T_CELLAR in °C. -/
def Pwr.tCellar (p : Pwr) : Nat := field p.config 44 7
/-- PWR_AUTO_IDLE. -/
def Pwr.autoIdle (p : Pwr) : Bool := flag p.config 51
/-- PWR_IDLE_DELAY_S in s. -/
def Pwr.idleDelay (p : Pwr) : Nat := field p.config 52 16
/-- PWR_ESTOP_LIMIT. -/
def Pwr.estopLimit (p : Pwr) : Nat := field p.config 68 4

/-- A PWR_CONFIG record within its ranges. -/
def pwrConfigOk (c : BitVec 128) : Bool :=
  let p : Pwr := { config := c }
  let within (lo hi x : Nat) : Bool := decide (lo ≤ x) && decide (x ≤ hi)
  within 20 45 p.ocTrip && within 400 1500 p.lim1s && within (max 400 p.lim1s) 1650 p.lim10ms && within 70 95 p.tThrottle
    && within 90 110 p.tTrip && decide (p.tThrottle < p.tTrip) && within 70 95 p.tCellar && within 1 65535 p.idleDelay
    && within 1 15 p.estopLimit && field c 72 56 == 0

/-! ### Throttling and trips (R393, R394) -/

/-- Whether a limit that raises the throttle level is exceeded. -/
def Pwr.isOver (p : Pwr) : Bool :=
  let x := p.sensors
  decide (p.lim10ms < x.w10ms) || decide (p.lim1s < x.w1s) || decide (p.tThrottle < x.tCd) || decide (p.tThrottle < x.tHd)
    || decide (p.tCellar < x.tCellar)

/-- Whether no limit is exceeded and every mean is below 95 % of its limit. -/
def Pwr.under (p : Pwr) : Bool :=
  let x := p.sensors
  !p.isOver && decide (100 * x.w10ms < 95 * p.lim10ms) && decide (100 * x.w1s < 95 * p.lim1s)

/-- Whether a sensor stands past its trip; a cellar package's is 105 °C. -/
def Pwr.trips (p : Pwr) : Bool :=
  let x := p.sensors
  decide (p.tTrip < x.tCd) || decide (p.tTrip < x.tHd) || decide (105 < x.tCellar)

/-- Whether every sensor is at least 5 °C below its throttle threshold (R403). -/
def Pwr.cool (p : Pwr) : Bool :=
  let x := p.sensors
  decide (x.tCd + 5 ≤ p.tThrottle) && decide (x.tHd + 5 ≤ p.tThrottle) && decide (x.tCellar + 5 ≤ p.tCellar)

/-! ### The emergency stop (R400 to R403) -/

/-- A keeper at the stop: taken down to a state, its wake abandoned, and held until the release. -/
def Keeper.stop (k : Keeper) (p : Power) : Keeper :=
  if k.fenced then { k with waking := false }
  else { k with preStop := k.power, power := if k.power = .on ∨ p = .powerGated then p else k.power,
                stopHeld := true, waking := false }

/-- A keeper at the release: back in the state it had. -/
def Keeper.resume (k : Keeper) : Keeper :=
  if k.stopHeld then { k with power := k.preStop, stopHeld := false } else k

/-- A die at the stop (R402): issue stops, what is in flight is abandoned, both banks are discarded, the array,
the vector units and the update engine are power-gated and the memories and movers clock-gated. -/
def Die.stop (d : Die) : Die :=
  let d := d.dropOpenJobs
  let off := (List.range 21) ++ [29]
  let low := [21, 22, 23, 24, 25, 26, 27, 28, 30, 31, 38]
  let ks := off.foldl (fun t k => Tbl.modify {} t k fun x => x.stop .powerGated) d.keepers
  let ks := low.foldl (fun t k => Tbl.modify {} t k fun x => x.stop .clockGated) ks
  { d with keepers := ks, bank0 := {}, bank1 := {},
           vec0 := d.vec0.map fun j => { j with void := true }, vec1 := d.vec1.map fun j => { j with void := true },
           movs := d.movs.map fun j => { j with void := true } }

/-- The tuns that run: loaded and not stopped. -/
def State.running (s : State) : List Nat :=
  (s.tuns.filter fun p => p.2.loaded && !p.2.stopped).map Prod.fst

/-- The stops of the last second, this one among them. -/
def Pwr.stopsNow (p : Pwr) (now : Nat) : List Nat := now :: p.stopTimes.filter fun t => decide (now < t + 10 ^ 12)

/-- HD's engines held or released. -/
def State.hubEngines (s : State) (f : Keeper → Keeper) : State :=
  { s with hubKeepers := [336, 337, 338, 339].foldl (fun t k => Tbl.modify {} t k f) s.hubKeepers }

/-- What a die's coders have in flight is abandoned (R269). -/
def State.dropCoders (s : State) (n : Nat) : State :=
  (s.tunsOn n).foldl (fun s u => s.setCoder n u { s.coder n u with isOpen := false, payload := [], count := 0 }) s

/-- The emergency stop (R400 to R403, R409): a cause during a stop changes PWR_ESTOP_CAUSE and what its release waits for; outside RUN
there is nothing to stop, and the cause is kept. At the limit of stops in a second every tun stops. -/
def State.emergencyStop (s : State) (cause : Nat) : State :=
  if s.pwr.state = .stopped then
    { s with pwr := { s.pwr with estopCause := cause, causes := cause :: s.pwr.causes, thermTrip := s.pwr.thermTrip || cause == 4 } }
  else if s.pwr.state ≠ .run then { s with pwr := { s.pwr with estopCause := cause } }
  else
    let s := s.running.foldl (fun s u => s.spoilAll u) s
    let s := s.dies.foldl (fun (s : State) p => if p.2.lost then s else ((s.setDie p.1 (s.die p.1).stop).dropCoders p.1).suspend p.1) s
    let s := s.hubEngines fun k => k.stop .clockGated
    let times := s.pwr.stopsNow s.nowPs
    let held := decide (s.pwr.estopLimit ≤ times.length)
    let s := { s with pwr := { s.pwr with
      state := .stopped, estopCause := cause, causes := [cause], estops := s.pwr.estops + 1, stopTimes := times, stoppedAt := s.nowPs, held := held,
      thermTrip := s.pwr.thermTrip || cause == 4 } }
    if held then s.stopAll else s

/-- The movers' abandoned launches complete void: their tokens are set and nothing moves (R403 step 2). -/
def State.voidMovs (s : State) (n : Nat) : State :=
  let js := (s.die n).movs.filter (·.void)
  js.foldl (fun s j => (s.setDie n ((s.die n).dropMov j.tun j.slot)).movTokens n j) s

/-- A vector unit's abandoned operations complete void. -/
def State.voidVecs (s : State) (n u : Nat) : State :=
  (List.range ((s.die n).vec u).length).foldl (fun (s : State) _ => match (s.die n).vec u with
    | j :: _ => if j.void then s.putOut n ((s.die n).vecDone u) else s
    | [] => s) s

/-- Blocks abandoned at the stop are done without a write (R403 step 2). -/
def UpdCtx.voidBlocks (x : UpdCtx) : UpdCtx :=
  let y := x.markDone (x.inFlight.map Prod.fst)
  { y with inFlight := [] }

/-- A die resumes (R403): its domains as they were, abandoned work void, open tiles replayed. The time stopped
counts in its slice. -/
def State.resumeDie (s : State) (n ns : Nat) : State :=
  let d := s.die n
  let d := { d with keepers := d.keepers.mapVals Keeper.resume, cycle := d.cycle + ns * 10 / 8 }
  let d := { d with ctxs := Tbl.mapVals (fun (c : Ctx) => { c with upd := c.upd.voidBlocks }) d.ctxs }
  let s := (((s.setDie n d).voidVecs n 0).voidVecs n 1).voidMovs n
  let d := s.die n
  if d.colFaults.isEmpty then s.setDie n (d.replay s.shares) else s

/-- Whether the stop may be released, once every cause of it has cleared (R409): the board management controller's word is needed for an
ordered stop and at the limit; the loss of the reference is never cleared in this start; a thermal stop waits for cool sensors and a
collapse for 40 V. -/
def State.mayRelease (s : State) (byBmc : Bool) : Bool :=
  let p := s.pwr
  p.state == .stopped && !(p.causes.contains 5) && (byBmc || !(p.held || p.causes.contains 6))
    && (!(p.causes.contains 4) || p.cool) && (!(p.causes.contains 2) || decide (4000 ≤ p.sensors.inV)) && !s.pins.estop

/-- The release of a stop, ns after its detection (R403, R409): reports held are handled after it. -/
def State.releaseStop (s : State) (ns : Nat) (byBmc : Bool) : State :=
  if !(s.mayRelease byBmc) then s
  else
    let held := s.pwr.reports
    let s := { s with nowPs := max s.nowPs (s.pwr.stoppedAt + 1000 * ns),
                      pwr := { s.pwr with state := .run, held := false, thermTrip := false, reports := [], causes := [],
                                          estopNsMax := max s.pwr.estopNsMax ns } }
    let s := s.dies.foldl (fun (s : State) p => if p.2.lost then s else s.resumeDie p.1 ns) s
    let s := { s with links := { s.links with dirs := s.links.dirs.mapVals fun (x : LinkDir) => { x with groups := x.groups.mapVals fun (y : Group) => { y with waits := false } } } }
    let s := (s.hubEngines Keeper.resume).fault 8 8 0 ns
    held.foldl State.handleHeld s

/-! ### Loss of power (R276, R391) -/

/-- Every volatile value is lost: the flash keeps what it holds, and the transients of a column count over the device's life
(R78; DEDUCED, log entry 102). -/
def State.powerOff (s : State) : State :=
  { State.reset with pending := s.pending, nowPs := s.nowPs, draws := s.draws, flash := { s.flash with compacting := false, octal := false },
                     dies := s.dies.mapVals fun d => { transients := d.transients },
                     cellar := { State.reset.cellar with failed := s.cellar.failed }, links := { State.reset.links with lost := s.links.lost },
                     pwr := { State.reset.pwr with state := .off } }

/-- Whether the board management controller writes settings: the device is powered, and not in steep mode (R359, R362). -/
def State.serviced (s : State) : Bool := s.pwr.state != .off && s.pwr.state != .steep

/-! ### DEEP IDLE (R397) -/

/-- Whether a tun is running a step: loaded, not stopped, and not held at its step-start slice with its bung driven
and nothing outstanding. -/
def State.runsStep (s : State) (u : Nat) : Bool :=
  let t := s.tun u
  t.loaded && !t.stopped && !(t.step.closed.isEmpty && t.step.given.isNone
    && (s.diesOf u).all fun n =>
      let c := s.ctx n u
      c.pc == c.stepStart && !c.hold && c.rep == 0 && !(s.outstanding n u))

/-- Whether any tun is running a step. -/
def State.anyStep (s : State) : Bool := (List.range 32).any fun u => s.runsStep u

/-- MAC_MODE. -/
def portMode (p : BitVec 128) : Nat := field p 0 2

/-- MAC_GAUGED. -/
def portGauged (p : BitVec 128) : Bool := flag p 4
/-- MAC_DIRECT. -/
def portDirect (p : BitVec 128) : Bool := flag p 5
/-- MAC_SHED_EN. -/
def portShed (p : BitVec 128) : Bool := flag p 6
/-- MAC_PTP_EN. -/
def portPtp (p : BitVec 128) : Bool := flag p 8
/-- Physical lane of logical lane i. -/
def portLane (p : BitVec 128) (i : Nat) : Nat := field p (9 + 3 * i) 3

/-- Whether a MAC_PORT record keeps the rules of R283. -/
def portOk (p : BitVec 128) : Bool :=
  (List.range 8).all (fun l => (List.range 8).any fun i => portLane p i == l)
    && (!(portShed p) || portDirect p) && (portGauged p || portDirect p)

/-- The groups whose MACs keep watch in deep idle: those that are on, with MAC_WAKE_PORT in their MAC_PORT record (R283, R308). -/
def State.wakeGroups (s : State) : List Nat :=
  (List.range 16).filter fun k =>
    let p := Tbl.get 0 s.net.ports k
    flag p 7 && portMode p != 0 && portOk p

/-- A die enters deep idle: scratchpad, loft and loop buffer lose their contents, context memory is retained (R395). -/
def Die.deepIdle (d : Die) : Die :=
  let ks := (List.range 39).foldl (fun t k => Tbl.modify {} t k fun x =>
    if x.fenced then x else { x with power := .powerGated, waking := false, gateReq := none }) d.keepers
  let ks := Tbl.modify {} ks 39 fun x => if x.fenced then x else { x with power := .clockGated, waking := false }
  { d with keepers := ks, mem := [], bank0 := {}, bank1 := {}, loopBuf := [] }

/-- Entry to DEEP IDLE, refused while a tun is running a step (R397, R409). The ports that keep watch run at their narrowest width
(R308). -/
def State.enterDeepIdle (s : State) : State :=
  if s.pwr.state ≠ .run || s.anyStep then s
  else
    let wake := s.wakeGroups
    let s := { s with dies := s.dies.mapVals Die.deepIdle }
    let off (x : Keeper) : Keeper := { x with power := .powerGated, waking := false, gateReq := none }
    let low (x : Keeper) : Keeper := { x with power := .clockGated }
    let ks := (List.range 32).filter fun k => !(k < 16 && wake.contains k) && k != 22
    let hk := ks.foldl (fun t k => Tbl.modify {} t (320 + k) off) s.hubKeepers
    let hk := Tbl.modify {} hk 342 low
    { s with hubKeepers := hk,
             net := { s.net with macs := s.net.macs.map fun p =>
               (p.1, if p.2.link == .fenced then p.2 else if wake.contains (p.1 / 4) then { p.2 with lanes := min p.2.lanes 2, peck := none }
                 else { p.2 with link := .down, peck := none }) },
             pwr := { s.pwr with state := .deepIdle, idleSince := s.nowPs } }

/-- A tun's context on leaving deep idle: its statistics slots start with no history, its silent-layer runs are 0
and its step record is written again. -/
def Ctx.fromIdle (c : Ctx) (r : StepRecord) : Ctx :=
  { c with stats := [], stepRec := r, upd := { c.upd with watch := c.upd.watch.mapVals fun w => { w with run := 0 } } }

/-- A die leaves deep idle: memories, cellar controllers, ports, sequencer and tokens are ON; the rest wakes by hint
or gate. -/
def Die.fromIdle (d : Die) (rec' : Nat → StepRecord) : Die :=
  let on := [21, 22, 23, 24, 30, 31, 32, 33, 34, 35, 36, 37, 38, 39]
  let ks : Tbl Keeper := on.foldl (fun t k => Tbl.modify {} t k fun x => if x.fenced then x else { x with power := .on }) d.keepers
  { d with keepers := ks, ctxs := d.ctxs.map fun p => (p.1, p.2.fromIdle (rec' p.1)) }

/-- The lanes of a MAC at full width. -/
def portLanes (p : BitVec 128) : Nat :=
  match portMode p with
  | 1 => 8
  | 2 => 4
  | 3 => 2
  | _ => 0

/-- A MAC leaves DEEP IDLE: a link that was down trains, one that kept watch has its full width again (R308, R397). -/
def Mac.fromIdle (m : Mac) (full : Nat) : Mac :=
  match m.link with
  | .down => { m with link := .training }
  | .up => { m with lanes := full, shed := false }
  | _ => m

/-- The device leaves DEEP IDLE (R397). -/
def State.leaveDeepIdle (s : State) : State :=
  if s.pwr.state ≠ .deepIdle then s
  else
    let ms := (s.nowPs - s.pwr.idleSince) / 10 ^ 9
    { s with
      dies := s.dies.mapVals fun d => if d.lost then d else d.fromIdle fun u => (s.tun u).record,
      hubKeepers := s.hubKeepers.mapVals fun k => if k.fenced then k else { k with power := .on },
      net := { s.net with macs := s.net.macs.map fun p => (p.1, p.2.fromIdle (portLanes (Tbl.get 0 s.net.ports (p.1 / 4)))) },
      pwr := { s.pwr with state := .run, deepIdleMs := s.pwr.deepIdleMs + ms } }

/-! ### Pull preparation (R407) -/

/-- A die whose rails are off keeps its counters, which the hub holds. -/
def Die.dark (d : Die) : Die :=
  { cycle := d.cycle, badMap := d.badMap, transients := d.transients, arr := d.arr, memStat := d.memStat, sparesUsed := d.sparesUsed,
    rowFences := d.rowFences, lost := d.lost }

/-- Pull preparation: refused while a tun is running a step; every rail but those of the islands and the always-on
domain goes off, and what they fed is lost. -/
def State.pullPrepare (s : State) : State :=
  if (s.pwr.state ≠ .run && s.pwr.state ≠ .deepIdle) || s.anyStep then s
  else
    { s with dies := s.dies.mapVals Die.dark, cellar := { s.cellar with mem := [], keys := [], zeros := [] },
             tuns := s.tuns.mapVals fun t => t.unloaded,
             net := { s.net with macs := s.net.macs.mapVals fun m => { m with link := .down, peck := none } },
             pwr := { s.pwr with state := .pullSafe, pullSafe := true }, pins := { s.pins with pullOk := true } }

end Sys2Proof.Machine
end

