-- ==== Sys2Proof/Machine/NetOps.lean ====
section
/-! DEFINITION. Ports and MACs (R283 to R287, R306 to R311), the clock (R288 to R290) and the gauge (R291 to R298). -/

namespace Sys2Proof.Machine

/-! ### Ports (R283, R284, R299) -/

/-- The port record in force of the group of MAC m: a group whose record breaks a rule is off. -/
def State.port (s : State) (m : Nat) : BitVec 128 :=
  let p := Tbl.get 0 s.net.ports (m / 4)
  if portOk p then p else 0

/-- Whether a MAC exists in its group's mode. -/
def State.macExists (s : State) (m : Nat) : Bool :=
  match portMode (s.port m) with
  | 1 => m % 4 == 0
  | 2 => decide (m % 4 < 2)
  | 3 => true
  | _ => false

/-- The MACs of the device. -/
def State.macList (s : State) : List Nat := (List.range 64).filter s.macExists

/-- The ps of a pause quantum at a MAC's rate (R287). -/
def quantumPs (p : BitVec 128) : Nat :=
  match portMode p with
  | 1 => 320
  | 2 => 640
  | _ => 1280

/-- The payload of a full frame (R299). -/
def fullPayload (p : BitVec 128) : Nat :=
  match portMode p with
  | 1 => 8192
  | 2 => 4096
  | _ => 2048

/-- The ps that a byte takes on the wire of a MAC. -/
def bytePs (p : BitVec 128) : Nat :=
  match portMode p with
  | 1 => 5
  | 2 => 10
  | _ => 20

/-- A MAC's address: MAC_ADDR + j, 6 bytes, the first sent first. -/
def State.macAddr (s : State) (m : Nat) : Bytes := bytesOfNatBE 6 (field (s.port m) 49 48 + m % 4)

/-! ### Counters (R310, R311) -/

/-- Counter i of a MAC raised by n: its half-range flag is set when its bit 31 changes. -/
def Mac.count (x : Mac) (i n : Nat) : Mac :=
  let c := Tbl.get (0 : BitVec 32) x.counters i
  let c' := c + BitVec.ofNat 32 n
  { x with counters := x.counters.put i c',
           half := if c.msb = c'.msb then x.half else x.half ||| BitVec.ofNat 56 (2 ^ i) }

/-- Counter i of MAC m raised by n; a half-range flag's setting posts a port event. -/
def State.countMac (s : State) (m i n : Nat) : State :=
  let x := s.mac m
  let y := x.count i n
  let s := s.setMac m y
  if y.half = x.half then s else s.deviceEvent 0x33 [m, i]

/-- Several counters of MAC m raised by 1. -/
def State.countMacs (s : State) (m : Nat) (is : List Nat) : State := is.foldl (fun s i => s.countMac m i 1) s

/-- The size counter of a frame of legal length (R310). -/
def sizeCounter (len : Nat) : Nat :=
  if len ≤ 64 then 4 else if len < 128 then 5 else if len < 256 then 6 else if len < 512 then 7
  else if len < 1024 then 8 else if len < 2048 then 9 else if len < 4096 then 10 else if len < 8192 then 11 else 12

/-- An accepted frame of a length, and what else counts it. -/
def State.rxFrame (s : State) (m len : Nat) (mcast : Bool) (is : List Nat) : State :=
  let x := s.mac m
  let o := x.rxRem + len
  let s := s.setMac m { x with rxRem := o % 64 }
  ((s.countMacs m ([0] ++ (if mcast then [2] else []) ++ [sizeCounter len])).countMac m 1 (o / 64)).countMacs m is

/-- Frames sent: n of them, of len bytes each. -/
def State.txFrames (s : State) (m n len : Nat) : State :=
  let x := s.mac m
  let o := x.txRem + n * len
  let s := s.setMac m { x with txRem := o % 64 }
  (s.countMac m 32 n).countMac m 33 (o / 64)

/-- The bytes of a transport frame around its payload (R299). -/
def State.frameOver (s : State) (m u : Nat) : Nat :=
  18 + 32 + (if field (s.port m) 97 12 = 0 then 0 else 4) + (if (s.tun u).job.macsec then 32 else 0)

/-- The length of a transport frame with a payload. -/
def State.frameLen (s : State) (m u payload : Nat) : Nat := max 64 (s.frameOver m u + payload)

/-- The wire time of a transport frame with a payload, in ps: its bytes, and 20 of preamble and gap (R299). -/
def State.wirePs (s : State) (m u payload : Nat) : Nat := (s.frameLen m u payload + 20) * bytePs (s.port m)

/-! ### What a MAC accepts (R285, R286) -/

/-- The EtherType of a frame, after an optional 802.1Q tag. -/
def etherType (f : Bytes) : Nat :=
  let at' (i : Nat) : Nat := (f.getD i 0).toNat * 256 + (f.getD (i + 1) 0).toNat
  if at' 12 = 0x8100 then at' 16 else at' 12

/-- Whether a DA is one of the group addresses a MAC accepts. -/
def groupDa (da : Bytes) : Bool :=
  da == [0x01, 0x80, 0xC2, 0, 0, 0x01] || da == [0x01, 0x80, 0xC2, 0, 0, 0x0E] || da == [0x01, 0x1B, 0x19, 0, 0, 0]

/-- The transport EtherType in force. -/
def State.etype (s : State) : Nat :=
  match s.net.gauge with
  | some g => field g.header 32 16
  | none => 0x88B5

/-- Whether a frame's EtherType is handled. -/
def State.knownType (s : State) (x : Nat) : Bool := [0x8808, 0x88F7, 0x88CC, 0x88E5, s.etype].contains x

/-- A frame that is discarded before any unit takes it, counted by what is wrong with it. -/
def State.discardFrame (s : State) (m : Nat) (f : Bytes) (fcsOk : Bool) : State :=
  let len := f.length
  if len < 64 then s.countMac m 13 1
  else if 9216 < len then s.countMac m (if fcsOk then 14 else 15) 1
  else if !fcsOk then s.countMac m 16 1
  else
    let da := f.take 6
    if da = List.replicate 6 0xFF then s.countMacs m [3, sizeCounter len]
    else if da != s.macAddr m && !(groupDa da) then s.countMacs m [17, sizeCounter len]
    else if s.knownType (etherType f) then s
    else s.rxFrame m len (groupDa da) [18]

/-! ### Priorities and pauses (R287, R291, R307) -/

/-- The priority of data frames. -/
def State.dataPriority (s : State) : Nat := (s.net.gauge.map fun g => field g.header 48 3).getD 5
/-- The priority of control frames. -/
def State.ctlPriority (s : State) : Nat := (s.net.gauge.map fun g => field g.header 51 3).getD 6
/-- The priority of PTP frames. -/
def State.ptpPriority (s : State) : Nat := (s.net.gauge.map fun g => field g.header 54 3).getD 7

/-- Whether a priority is in use: that of data, control or PTP frames. -/
def State.prioUsed (s : State) (p : Nat) : Bool := p == s.dataPriority || p == s.ctlPriority || p == s.ptpPriority

/-- Whether a priority of a MAC is paused now. -/
def State.pausedNow (s : State) (m p : Nat) : Bool := decide (s.nowPs < Tbl.get 0 (s.mac m).paused p)

/-- Whether frames of a priority outside the pecks are held on a MAC: by a pause, or in a realignment (R287, R307). -/
def State.txHeld (s : State) (m p : Nat) : Bool :=
  let x := s.mac m
  s.pausedNow m p || (decide (x.realign.1 ≤ s.nowPs) && decide (s.nowPs < x.realign.2))

/-- The frames of a sending that have begun by a time. -/
def Sent.begun (x : Sent) (now : Nat) : Nat := min x.frames (ceilDiv (now - x.at') x.per)

/-- When the frames of a sending that have begun by a time end. -/
def Sent.begunEnd (x : Sent) (now : Nat) : Nat := if x.begun now = x.frames then x.stop else x.at' + x.begun now * x.per

/-- When the frames of a peck that have begun by a time end; 0 where none has. -/
def Peck.busyTill (p : Peck) (now : Nat) : Nat := p.run.foldl (fun e x => if x.begun now = 0 then e else max e (x.begunEnd now)) 0

/-- The time at which a MAC's transmitter can stop: the end of the frame in transmission. -/
def State.frameEnd (s : State) (m : Nat) : Nat :=
  match (s.mac m).peck with
  | some p => max s.nowPs (p.busyTill s.nowPs)
  | none => s.nowPs

/-- The hold of a MAC's transmitter begun, ended or kept as its pauses change: it lasts from the end of the frame in transmission to the
end of the last pause of a priority in use, and is counted in µs, rounded (R287, R294). -/
def State.holdTx (s : State) (m : Nat) (old : Tbl Nat) : State :=
  let last := (old.filter fun p => s.prioUsed p.1).foldl (fun e p => max e p.2) 0
  let held := (s.mac m).paused.any fun p => s.prioUsed p.1 && decide (s.nowPs < p.2)
  let s := match (s.mac m).pausedAt with
    | some t =>
      if held && decide (s.nowPs < last) then s
      else (s.setMac m { s.mac m with pausedAt := none }).countMac m 39 ((min s.nowPs last - t + 500000) / 1000000)
    | none => s
  if held && (s.mac m).pausedAt.isNone then s.setMac m { s.mac m with pausedAt := some (s.frameEnd m) } else s

/-- Pauses of priorities set to end at times. -/
def State.setPauses (s : State) (m : Nat) (ps : Tbl Nat) : State :=
  let x := s.mac m
  (s.setMac m { x with paused := ps.filter fun p => decide (s.nowPs < p.2) }).holdTx m x.paused

/-- A pause of q quanta on priorities, counted from now; q = 0 ends it. -/
def State.pauseMac (s : State) (m : Nat) (qs : List (Nat × Nat)) : State :=
  let q := quantumPs (s.port m)
  s.setPauses m (qs.foldl (fun t p => if p.2 = 0 then Tbl.erase t p.1 else Tbl.put t p.1 (s.nowPs + p.2 * q)) (s.mac m).paused)

/-! ### The clock (R288, R289) -/

/-- One offset estimate at the servo: 16 within 20 ns in a row lock the clock, 4 beyond 25 ns take it to HOLDOVER. -/
def Ptp.servo (p : Ptp) (now : Nat) (offset : Int) : Ptp :=
  let a := offset.natAbs
  let good := if a ≤ 20 then p.good + 1 else 0
  let bad := if 25 < a then p.bad + 1 else 0
  let p := { p with offset := offset, good := good, bad := bad, awaitFollow := false }
  match p.state with
  | .free => p
  | .acquiring | .holdover => if 16 ≤ good then { p with state := .locked } else p
  | .locked => if 4 ≤ bad then { p with state := .holdover, since := now } else p

/-- The clock's state replaced. -/
def State.setPtp (s : State) (p : Ptp) : State := { s with net := { s.net with ptp := p } }

/-- The lexicographic order of data sets: the smaller is the better time transmitter. -/
def dataSetLt : List Nat → List Nat → Bool
  | [], [] => false
  | [], _ => true
  | _, [] => false
  | x :: xs, y :: ys => if x = y then dataSetLt xs ys else decide (x < y)

/-- An announced data set at the best master clock algorithm (R288, R289): a better one than that in force and than the device's own, or
news of the one in force, is taken. A transmitter newly selected takes a clock that is FREE or LOCKED to ACQUIRING; HOLDOVER is left for
LOCKED or FREE only. -/
def Ptp.announce (p : Ptp) (own : List Nat) (m : Nat) (ds : List Nat) : Ptp :=
  let chosen : Ptp := { p with best := some ds, port := m, state := if p.state = .holdover then .holdover else .acquiring, good := 0, bad := 0 }
  if dataSetLt own ds then p
  else
    match p.best with
    | none => chosen
    | some b =>
      if b = ds ∧ p.port = m then p
      else if p.port = m then { p with best := some ds }
      else if dataSetLt ds b then chosen
      else p

/-- The ports that carry PTP: the first four MACs whose port lets them (R288; which four is DESIGN CHOICE, log entry 137). -/
def State.ptpPorts (s : State) : List Nat := (s.macList.filter fun m => portPtp (s.port m)).take 4

/-- Whether a MAC runs as an open port: MAC_GAUGED is clear, or the device has no gauge (R291, R297). -/
def State.openPort (s : State) (m : Nat) : Bool := !(portGauged (s.port m)) || s.net.gauge.isNone

/-- Whether the clock has no cluster time. -/
def State.clockLost (s : State) : Bool := s.net.ptp.state == .free || s.net.ptp.state == .acquiring

/-- Whether the gauge is suspended for sealed tuns on a MAC (R297). -/
def State.timeLost (s : State) (m : Nat) : Bool := !(s.openPort m) && s.clockLost

/-! ### The gauge (R291 to R298, R306) -/

/-- PK_START. -/
def pkStart (k : BitVec 32) : Nat := field k 0 8
/-- PK_LEN in units. -/
def pkLen (k : BitVec 32) : Nat := field k 8 8 + 1
/-- PK_TUN. -/
def pkTun (k : BitVec 32) : Nat := field k 16 5
/-- PK_KIND. -/
def pkKind (k : BitVec 32) : Nat := field k 21 2
/-- PK_EP. -/
def pkEp (k : BitVec 32) : Nat := field k 23 8
/-- PK_PEER. -/
def pkPeer (k : BitVec 32) : Bool := flag k 31
/-- The end that a peck of a MAC is aimed at: an endpoint index, or 256 + m for the peer of the direct link of MAC m. -/
def pkEnd (m : Nat) (k : BitVec 32) : Nat := if pkPeer k then 256 + m else pkEp k

/-- The rank of this device in its cluster: that of its lowest loaded tun, where one is loaded. -/
def State.clusterRank (s : State) : Option Nat := (s.tuns.find? fun p => p.2.loaded).map fun p => p.2.rank

/-- The same, 0 where no tun is loaded. -/
def State.ownRank (s : State) : Nat := s.clusterRank.getD 0

/-- A plan's pecks of a MAC, by index. -/
def planPecks (g : GaugePlan) (m : Nat) : List (Nat × BitVec 32) :=
  (g.pecks.filter fun p => p.1 / 256 == m).map fun p => (p.1 % 256, p.2)

/-- The delta of a failed MAC. -/
def planDelta (g : GaugePlan) (rank m : Nat) : Option Delta := g.deltas.find? fun d => d.rank == rank && d.mac == m

/-- The pecks of a MAC now: the newest delta in force replaces this device's (R306). -/
def State.pecksOf (s : State) (m : Nat) : List (Nat × BitVec 32) :=
  match s.net.gauge with
  | none => []
  | some g =>
    match s.net.failed.getLast?.bind fun k => planDelta g (k / 64) (k % 64) with
    | some d =>
      let l := (d.pecks.filter fun p => p.1 == m).map Prod.snd
      (List.range l.length).zip l
    | none => planPecks g m

/-- Whether a tun has a transmit peck on a MAC. -/
def State.usesMac (s : State) (m u : Nat) : Bool := (s.pecksOf m).any fun p => pkTun p.2 == u && decide (pkKind p.2 < 2)

/-- The sealed tuns with a peck on a gauged port, which hear that the clock has lost its time (R297). -/
def State.timedTuns (s : State) : List Nat :=
  s.running.filter fun u => tlSealed (s.lay u) && s.macList.any fun m => !(s.openPort m) && s.usesMac m u

/-- Whether two pecks overlap. -/
def pecksMeet (a b : BitVec 32) : Bool := decide (pkStart a < pkStart b + pkLen b) && decide (pkStart b < pkStart a + pkLen a)

/-- The first peck of a list, with its MAC, that meets a later one of its direction. -/
def overlapping : List (Nat × BitVec 32) → Option Nat
  | [] => none
  | (k, x) :: rest =>
    if rest.any fun p => p.1 / 256 == k / 256 && (pkKind p.2 == 3) == (pkKind x == 3) && pecksMeet x p.2 then some (k / 256)
    else overlapping rest

/-- The largest gap, in units round the bushel, from one start of a rising list to the next. -/
def largestGap (xs : List Nat) : Nat :=
  match xs with
  | [] => 257
  | x :: _ =>
    let ys := xs.drop 1 ++ [x + 256]
    (xs.zip ys).foldl (fun g p => max g (p.2 - p.1)) 0

/-- The endpoint that a peck serves where a delta is checked: the peers of direct links count as one (DESIGN CHOICE, log entry 138). -/
def pkServes (k : BitVec 32) : Nat := if pkPeer k then 256 else pkEp k

/-- Whether a delta leaves a displaced endpoint waiting more than 128 µs for its next spare peck (R306). -/
def planGap (g : GaugePlan) (d : Delta) : Bool :=
  let eps := (((planPecks g d.mac).filter fun p => decide (pkKind p.2 < 2)).map fun p => pkServes p.2).eraseDups
  eps.any fun e =>
    let starts := ((d.pecks.filter fun p => p.1 != d.mac && pkServes p.2 == e && decide (pkKind p.2 < 3)).map fun p => pkStart p.2)
    let sorted := (List.range 256).filter starts.contains
    decide (32 < largestGap sorted)

/-- A delta's pecks, each with its MAC × 256. -/
def deltaPecks (d : Delta) : List (Nat × BitVec 32) := d.pecks.map fun p => (256 * p.1, p.2)

/-- The MAC of the first peck of a list that names a missing endpoint. -/
def missingEnd (g : GaugePlan) (ps : List (Nat × BitVec 32)) : Option Nat :=
  (ps.find? fun p => pkKind p.2 != 3 && !(pkPeer p.2) && decide (g.endpoints.length ≤ pkEp p.2)).map fun p => p.1 / 256

/-- The first answer of a check over lists of pecks: the plan's own, and those of each delta, which take their place. -/
def firstOf (f : List (Nat × BitVec 32) → Option Nat) (pss : List (List (Nat × BitVec 32))) : Option Nat := (pss.filterMap f).head?

/-- MAC_GG_START. -/
def planStart (g : GaugePlan) : Nat := field g.header 64 64

/-- The bytes of a plan's parts. -/
def planSize (g : GaugePlan) : Nat :=
  20 + 8 * g.endpoints.length + 4 * g.pecks.length + (g.deltas.foldl (fun x d => x + 4 * d.pecks.length) 0)

/-- Why a plan is refused (R291, R298, R306, R346): the reason and the MAC of the first failing peck or delta. The rank of this device is
none where no tun is loaded, and its deltas are then checked as its first tun loads. -/
def planRefusal (g : GaugePlan) (rank : Option Nat) (now : Nat) (atStart : Bool) : Option (Nat × Nat) :=
  let all := g.pecks :: g.deltas.map deltaPecks
  match firstOf overlapping all with
  | some m => some (1, m)
  | none =>
    match firstOf (missingEnd g) all with
    | some m => some (2, m)
    | none =>
      match g.deltas.find? fun d => some d.rank == rank && planGap g d with
      | some d => some (3, d.mac)
      | none =>
        if !atStart && decide (planStart g < now + 2) then some (4, 0xFFFF)
        else if 2 ^ 21 < g.bytes ∨ g.bytes < planSize g ∨ g.endpoints.length ≠ field g.header 128 8 + 1
            ∨ g.deltas.length ≠ field g.header 136 11 ∨ 1024 < g.deltas.length then some (5, 0xFFFF)
        else none

/-- The plan-refused event (R346). -/
def State.planRefused (s : State) (g : GaugePlan) (why m : Nat) : State :=
  s.deviceEventBytes 0x26 (bytesOfNat 4 (field g.header 0 32) ++ [BitVec.ofNat 8 why, 0] ++ bytesOfNat 2 m)

/-! ### Failover (R306) -/

/-- The segments that a tun has sent or begun to send through a MAC and that are not acknowledged, made ready to send again and counted
(R230, R264, R306). -/
def Tun.lostOn (t : Tun) (m : Nat) : Tun :=
  let lost := (t.segs.filter fun x => x.mac == some m).length + (t.perms.filter fun x => x.mac == some m).length
  let rack := (t.rack.segs.filter fun x => x.mac == some m).length
  { t with perms := t.perms.map fun x => if x.mac == some m then { x with mac := none, sentAt := none, out := 0, resent := true } else x,
           segs := t.segs.map fun x => if x.mac == some m then { x with mac := none, sentAt := none, out := 0, resent := true } else x,
           rack := { t.rack with segs := t.rack.segs.map fun x => if x.mac == some m then { x with mac := none, sentAt := none, out := 0, resent := true } else x },
           coll := { t.coll with resends := t.coll.resends + lost },
           rackStat := { t.rackStat with resends := t.rackStat.resends + rack } }

/-- The first 4 µs unit boundary of the bushels at least 64 µs after a time, in ps (R306). -/
def effectiveTime (began now : Nat) : Nat := began + ceilDiv (now + 64000000 - began) 4000000 * 4000000

/-- A delta takes force (R306): the pecks change, and the failing device's unacknowledged segments go again. -/
def State.applyDelta (s : State) (rank m : Nat) : State :=
  let k := 64 * rank + m
  match s.net.deltasDue.find? fun p => p.1 == k with
  | none => s
  | some p =>
    let s := { s with nowPs := max s.nowPs p.2,
                      net := { s.net with deltasDue := s.net.deltasDue.filter fun q => q.1 != k,
                                          failed := s.net.failed ++ [k] } }
    if rank = s.ownRank then
      let s := s.setMac m { s.mac m with failedOver := true }
      { s with tuns := s.tuns.mapVals fun t => t.lostOn m }
    else s

/-! ### Lane shedding (R307) -/

/-- The width of an idle stretch of us µs. -/
def shedLanes (p : BitVec 128) (us : Nat) : Nat :=
  match portMode p with
  | 1 => if 256 ≤ us then 2 else if 64 ≤ us then 4 else 8
  | 2 => if 64 ≤ us then 2 else 4
  | _ => portLanes p

/-- Whether a unit of the bushel lies in a peck of either end of a MAC's link; the receive pecks are the far end's (R307). -/
def State.unitBusy (s : State) (m k : Nat) : Bool :=
  (s.pecksOf m).any fun p => decide (pkKind p.2 ≠ 2) && decide (pkStart p.2 ≤ k) && decide (k < pkStart p.2 + pkLen p.2)

/-- The µs from a unit of the bushel to the next peck of either end, a bushel at most; 0 inside a peck (R307). -/
def State.stretchUs (s : State) (m k : Nat) : Nat :=
  4 * ((List.range 256).takeWhile fun i => !(s.unitBusy m ((k + i) % 256))).length

/-- A MAC's width changes, and its link realigns for 12 µs from a time on: a reduction is counted, and a return counts the time at
reduced width (R307). -/
def State.setWidth (s : State) (m lanes from' : Nat) : State :=
  let x := s.mac m
  let full := portLanes (s.port m)
  if !(portShed (s.port m)) || !x.helloOk || x.link != .up || x.peck.isSome || full < lanes || lanes = 0 || lanes = x.lanes then s
  else
    let x := { x with realign := (from', from' + 12000000) }
    if lanes < x.lanes then
      (s.setMac m { x with lanes := lanes, shed := true, shedAt := if x.shed then x.shedAt else s.nowPs }).countMac m 52 1
    else if x.shed && decide (lanes = full) then
      let ps := x.shedRem + (from' + 12000000 - x.shedAt)
      (s.setMac m { x with lanes := lanes, shed := false, shedRem := ps % 10 ^ 9 }).countMac m 53 (ps / 10 ^ 9)
    else s.setMac m { x with lanes := lanes }

/-! ### Waking (R308) -/

/-- Whether a frame matches a MAC_WAKE record for a lane group. -/
def wakeMatches (w : BitVec 192) (k : Nat) (f : Bytes) : Bool :=
  let sel := (List.range 128).filter fun i => flag w i
  flag w 176 && flag w (160 + k) && decide (64 ≤ f.length) && sel.all (fun i => decide (i < f.length))
    && (crc32 (sel.map fun i => f.getD i 0)).toNat == field w 128 32

end Sys2Proof.Machine
end

