-- ==== Sys2Proof/Machine/Frames.lean ====
section
/-! DEFINITION. Frames that a MAC sends: their layout (R299, R300), MACsec's channels and keys (R305, R375), the control messages and
their shaping (R295, R301), and what is counted of them (R310). -/

namespace Sys2Proof.Machine

/-! ### MACsec (R305, R375) -/

/-- The SCI of a tun's channel on a MAC with an address: the address, and port identifier 0x0100 + tun. -/
def sciOf (addr u : Nat) : BitVec 64 := BitVec.ofNat 64 (addr * 2 ^ 16 + 0x100 + u)

/-- The SSCI of a tun's channels: the sending rank. -/
def Tun.ssci (t : Tun) : BitVec 32 := BitVec.ofNat 32 t.rank

/-- SAK n of a tun. -/
def Tun.sak (t : Tun) (n : Nat) : Bytes := t.derive "macsec" (bytesOfNat 8 n) 256

/-- Salt n of a tun. -/
def Tun.salt (t : Tun) (n : Nat) : Bytes := t.derive "macsec salt" (bytesOfNat 8 n) 96

/-- The key number of a tun's own count: the bushel number over the rekey interval. -/
def State.ownKeyNo (s : State) (u : Nat) : Nat :=
  let i := (s.tun u).job.rekey
  if i = 0 then 0 else s.net.ptp.bushel / i

/-- The key number of a tun on a MAC: on an open port whose clock is not LOCKED the larger of its own and the last one its peer sent. -/
def State.keyNumber (s : State) (m u : Nat) : Nat :=
  if s.openPort m && s.net.ptp.state != .locked then max (s.ownKeyNo u) (Tbl.get 0 (s.tun u).helloKey m) else s.ownKeyNo u

/-- The keys of the tuns on every MAC follow their numbers, at a bushel boundary and as a hello arrives. -/
def State.rekey (s : State) : State :=
  let us := (s.tuns.filter fun p => p.2.loaded && p.2.job.macsec).map Prod.fst
  s.macList.foldl (fun (s : State) m => s.setMac m { s.mac m with keyNo := us.map fun u => (u, s.keyNumber m u) }) s

/-- The association number of a tun's frames on a MAC. -/
def State.assocNo (s : State) (m u : Nat) : BitVec 2 := BitVec.ofNat 2 (Tbl.get 0 (s.mac m).keyNo u)

/-- The key numbers that a tun's receiver on a MAC holds: n − 1, n and n + 1. -/
def State.keysHeld (s : State) (m u : Nat) : List Nat :=
  let n := Tbl.get 0 (s.mac m).keyNo u
  if n = 0 then [0, 1] else [n - 1, n, n + 1]

/-- Whether a tun's receiver on a MAC knows an SCI and an association number: the SCI is the tun's under the address of an endpoint of
the gauge, or of any address on a direct link, whose peer's address stands in no record (log entry 139). -/
def State.saKnown (s : State) (m u : Nat) (sci : BitVec 64) (an : BitVec 2) : Bool :=
  let known := (s.net.gauge.map fun g => g.endpoints.map fun e => sciOf (field e 0 48) u).getD []
  let mine := field sci 0 16 == 0x100 + u && (portDirect (s.port m) || known.contains sci)
  mine && (s.keysHeld m u).any fun n => an == BitVec.ofNat 2 n

/-! ### The transport header and the frame (R299, R300) -/

/-- The fields of a transport header that the frames of a segment, or a control frame, share. -/
structure TpHead where
  type : Nat := 1
  tun : Nat
  nf : Bool := false
  resend : Bool := false
  src : Nat
  dst : Nat
  kind : Nat := 0
  step : Nat := 0
  attempt : Nat := 0
  coll : Nat := 0
  seq : Nat := 0
  bytes : Nat := 1
  elem : Nat := 0
  round : Nat := 0
  deriving DecidableEq, Repr

/-- The header with these fields: version 1, and nothing in what differs from frame to frame. -/
def TpHead.word (h : TpHead) : BitVec 256 :=
  BitVec.ofNat 256 (h.round % 2 ^ 16 + h.elem % 2 ^ 40 * 2 ^ 46 + (h.bytes - 1) % 2 ^ 16 * 2 ^ 86 + h.seq % 2 ^ 32 * 2 ^ 112
    + h.coll % 2 ^ 12 * 2 ^ 148 + h.attempt % 2 ^ 16 * 2 ^ 160 + h.step % 2 ^ 48 * 2 ^ 176 + h.kind % 16 * 2 ^ 224
    + h.dst % 64 * 2 ^ 228 + h.src % 64 * 2 ^ 234 + (if h.resend then 2 ^ 240 else 0) + (if h.nf then 2 ^ 241 else 0)
    + h.tun % 32 * 2 ^ 243 + h.type % 16 * 2 ^ 248 + 2 ^ 252)

/-- A segment's header with what frame i of n, of some payload bytes from an offset on, adds: TP_LAST, TP_FRAME, TP_NFRAMES, TP_FRLEN
and TP_OFF. -/
def frameHead (h : BitVec 256) (i n off len : Nat) : BitVec 256 :=
  h ||| BitVec.ofNat 256 (off / 64 % 2 ^ 10 * 2 ^ 22 + len % 2 ^ 14 * 2 ^ 32 + (n - 1) % 32 * 2 ^ 102 + i % 32 * 2 ^ 107
    + (if i + 1 = n then 2 ^ 242 else 0))

/-- The frames of a segment of some bytes: at least one. -/
def segFrames (full bytes : Nat) : Nat := max (ceilDiv bytes full) 1

/-- A transport frame of a tun on a MAC to an end: an endpoint index, or the peer of a direct link. -/
def State.frameTo (s : State) (m u e pcp : Nat) (an : BitVec 2) (header : BitVec 256) (payload : Bytes) : TFrame :=
  let vid := field (s.port m) 97 12
  { da := match s.net.gauge with
      | some g => if e < 256 then (g.endpoints[e]?).map fun x => bytesOfNatBE 6 (field x 0 48) else none
      | none => none,
    sa := s.macAddr m,
    tag := if vid = 0 then none else some (BitVec.ofNat 16 (pcp * 2 ^ 13 + vid)),
    sec := if (s.tun u).job.macsec then some (sciOf (field (s.port m) 49 48 + m % 4) u, an) else none,
    etype := s.etype, header := header, payload := payload }

/-- The bytes of a frame before its MACsec protection and its FCS: the addresses, the 802.1Q tag, the EtherType, the header and the
payload, big-endian as on the wire (R10, R299). -/
def TFrame.clear (f : TFrame) : Bytes :=
  (f.da.getD (List.replicate 6 0)) ++ f.sa ++ (match f.tag with
    | some t => bytesOfNatBE 2 0x8100 ++ bytesOfNatBE 2 t.toNat
    | none => []) ++ bytesOfNatBE 2 f.etype ++ bytesOfNatBE 32 f.header.toNat ++ f.payload

/-- The frames that a sending forms on its MAC. -/
def State.framesOf (s : State) (m e : Nat) (x : Sent) : List TFrame :=
  let full := fullPayload (s.port m)
  let n := segFrames full x.data.length
  (List.range x.frames).map fun j =>
    let i := x.before + j
    let p := (x.data.drop (full * i)).take full
    s.frameTo m x.tun e s.dataPriority (s.assocNo m x.tun) (frameHead x.header i n (full * i) p.length) p

/-! ### Control messages (R295, R301) -/

/-- The message type of a control message. -/
def CtlMsg.type : CtlMsg → Nat
  | .ack _ _ _ _ => 2
  | .segmentCredit _ _ _ => 3
  | .windowCredit _ _ _ => 4
  | .marker _ _ _ _ => 5
  | .vote _ => 6
  | .voteResult _ _ => 7
  | _ => 8

/-- Whom a control message is for: a rank, or 64 + an endpoint; none is the peer of the MAC. -/
def CtlMsg.dest (t : Tun) : CtlMsg → Option Nat
  | .ack d _ _ _ => some d
  | .segmentCredit d _ _ => some d
  | .windowCredit r _ _ => some r
  | .marker r _ _ _ => some r
  | .vote _ => some (t.members.headD 0)
  | .voteResult r _ => some r
  | .digest r _ => some r
  | .restoreComplete r => some r
  | .portDown ep _ _ _ => some (64 + ep)
  | .hello _ => none
  | .widthChange _ => none

/-- A vote's payload (R239). -/
def votePayload (v : VoteData) : Bytes :=
  bytesOfNat 520 (bit v.spoiled + 2 * bit v.nf + v.step % 2 ^ 48 * 2 ^ 16
    + v.grav.foldl (fun x p => x + (p.2.1.toNat + p.2.2.toNat * 2 ^ 32) * 2 ^ (64 + 64 * (p.1 % 64))) 0)

/-- The payload of a control message. -/
def CtlMsg.payload : CtlMsg → Bytes
  | .ack _ k st q => bytesOfNat 8 (k % 16 * 2 ^ 60 + st % 16 * 2 ^ 56 + q % 2 ^ 32 * 2 ^ 24)
  | .segmentCredit _ k n => bytesOfNat 4 (k % 16 * 2 ^ 28 + n % 2 ^ 16)
  | .windowCredit _ n w => bytesOfNat 4 (n % 8 * 2 ^ 29 + w % 2 ^ 10 * 2 ^ 19)
  | .marker _ b nf n => bytesOfNat 2 b ++ [BitVec.ofNat 8 (bit nf)] ++ bytesOfNat 4 n ++ [0]
  | .vote v => votePayload v
  | .voteResult _ v => votePayload v
  | .hello k => 1 :: List.replicate 7 0 ++ bytesOfNat 8 k
  | .portDown _ r m t => [2, BitVec.ofNat 8 r, BitVec.ofNat 8 m] ++ List.replicate 5 0 ++ bytesOfNat 8 t
  | .widthChange n => [3, BitVec.ofNat 8 n]
  | .restoreComplete _ => [4]
  | .digest _ d => 5 :: d

/-- The payload bytes of a control message. -/
def CtlMsg.size (x : CtlMsg) : Nat := x.payload.length

/-- The end at which a destination of a tun is reached first. -/
def Tun.endOf (t : Tun) (m : Nat) : Option Nat → Nat
  | some d => ((Tbl.get [] t.job.ends d).head?).getD (if 64 ≤ d then d - 64 else 256 + m)
  | none => 256 + m

/-- The control frame of a type, for a destination, with a payload. -/
def State.ctlFrame (s : State) (m u type : Nat) (d : Option Nat) (payload : Bytes) : TFrame :=
  let t := s.tun u
  let dst := match d with
    | some r => if r < 64 then r else 0
    | none => 0
  let h : TpHead := { type := type, tun := u, src := t.rank, dst := dst, step := t.stepNow, attempt := t.step.attempt }
  s.frameTo m u (t.endOf m d) s.ctlPriority (s.assocNo m u) (frameHead h.word 0 1 0 payload.length) payload

/-- A control frame leaves and is counted. -/
def State.sendCtlFrame (s : State) (m len : Nat) (f : TFrame) : State :=
  let s := (s.txFrames m 1 len).countMac m 34 1
  s.setMac m { s.mac m with sent := [f] }

/-- Whether frames outside the pecks can leave a MAC now. -/
def State.canSend (s : State) (m : Nat) : Bool := (s.mac m).link == .up && s.pwr.state != .deepIdle

/-- Whether the shaping lets a pooled tun's control frame of some bytes leave: 1 % of the MAC's rate, with a burst of 8 frames (R295;
how the burst is kept is DESIGN CHOICE, log entry 140). -/
def State.shaped (s : State) (m len : Nat) : Bool := decide ((s.mac m).ctlFree ≤ s.nowPs + 700 * ((len + 20) * bytePs (s.port m)))

/-- A pooled tun's control message leaves in a frame of its own. -/
def State.sendPooled1 (s : State) (m : Nat) (p : Nat × CtlMsg) : State :=
  let len := s.frameLen m p.1 p.2.size
  let x := s.mac m
  let s := s.setMac m { x with ctlFree := max x.ctlFree s.nowPs + 100 * ((len + 20) * bytePs (s.port m)) }
  s.sendCtlFrame m len (s.ctlFrame m p.1 p.2.type (p.2.dest (s.tun p.1)) p.2.payload)

/-- Pooled tuns' control messages leave in order while the shaping lets them; answers those that wait on. -/
def State.sendPooled (m : Nat) : List (Nat × CtlMsg) → State → State × List (Nat × CtlMsg)
  | [], s => (s, [])
  | p :: ps, s => if s.shaped m (s.frameLen m p.1 p.2.size) then State.sendPooled m ps (s.sendPooled1 m p) else (s, p :: ps)

/-- The pooled tuns' control messages that wait on a MAC leave as its pauses, its realignment and the shaping let them. Those of sealed
tuns wait for their control frames, and those of tuns that are no longer loaded are dropped. -/
def State.flushCtl (s : State) (m : Nat) : State :=
  let mine := (s.mac m).ctl.filter fun p => (s.tun p.1).loaded
  let fixed := mine.filter fun p => tlSealed (s.lay p.1)
  let pooled := mine.filter fun p => !(tlSealed (s.lay p.1))
  if !(s.canSend m) || s.txHeld m s.ctlPriority || pooled.isEmpty then s.setMac m { s.mac m with ctl := mine }
  else
    let r := State.sendPooled m pooled s
    r.1.setMac m { r.1.mac m with ctl := fixed ++ r.2 }

/-- Control messages handed over for a MAC. -/
def State.txControls (s : State) (m : Nat) (ps : List (Nat × CtlMsg)) : State :=
  (s.setMac m { s.mac m with ctl := (s.mac m).ctl ++ ps }).flushCtl m

/-- A control message of a tun handed over for a MAC. -/
def State.txControl (s : State) (m u : Nat) (x : CtlMsg) : State := s.txControls m [(u, x)]

/-- The control messages, oldest first, that a frame of some bytes has room for, and those that stay. -/
def packControls : Nat → List CtlMsg → List CtlMsg × List CtlMsg
  | _, [] => ([], [])
  | room, x :: xs =>
    if x.size ≤ room then
      let r := packControls (room - x.size) xs
      (x :: r.1, r.2)
    else ([], x :: xs)

/-- A sealed tun's control frame on a MAC: 640 bytes, with what waits and has room in it, the rest padded with zeros; one that carries
padding only is a padding frame (R295, R310). -/
def State.sealedFrame (s : State) (m u : Nat) : State :=
  let t := (s.tun u).returnCredits
  let x := s.mac m
  let mine := (x.ctl.filter fun p => p.1 == u).map Prod.snd
  let room := 640 - s.frameOver m u
  let r := packControls room (mine ++ t.ctlOut)
  let body := r.1.flatMap CtlMsg.payload
  let f := s.ctlFrame m u ((r.1.head?.map CtlMsg.type).getD 9) (r.1.head?.bind (CtlMsg.dest t)) (body ++ List.replicate (room - body.length) 0)
  let s := s.setMac m { x with ctl := (x.ctl.filter fun p => p.1 != u) ++ (mine.drop r.1.length).map fun y => (u, y) }
  let s := s.setTun u { t with ctlOut := t.ctlOut.drop (r.1.length - mine.length) }
  let s := s.sendCtlFrame m 640 f
  if r.1.isEmpty then s.countMac m 35 1 else s

/-- A PTP frame of the device's own leaves a port, unless a pause or a realignment holds it. -/
def State.sendPtp (s : State) (m len : Nat) : State :=
  if s.canSend m && !(s.txHeld m s.ptpPriority) then (s.txFrames m 1 len).countMac m 37 1 else s

/-! ### What a peck has sent (R293, R299, R310) -/

/-- The payload bytes in some frames of a segment of some bytes, after those that have left. -/
def frameBytes (full bytes before n : Nat) : Nat := min bytes (full * (before + n)) - min bytes (full * before)

/-- The frames of segments counted at the MAC that sent them. -/
def State.countSent (s : State) (m : Nat) (x : Sent) : State :=
  let y := s.mac m
  let o := y.txRem + frameBytes (fullPayload (s.port m)) x.data.length x.before x.frames + x.frames * s.frameOver m x.tun
  let s := s.setMac m { y with txRem := o % 64 }
  let s := ((s.countMac m 32 x.frames).countMac m 33 (o / 64)).countMac m 36 (if x.resent then x.frames else 0)
  let t := s.tun x.tun
  if x.queue = .rack ∨ x.resent ∨ x.before ≠ 0 then s
  else s.setTun x.tun { t with coll := { t.coll with segSent := t.coll.segSent + 1 } }

/-- What a peck that ends has sent, formed and counted at its MAC; one shared with another tun is counted as lent (R293, R299, R310). -/
def State.countPeck (s : State) (m : Nat) : State :=
  match (s.mac m).peck with
  | none => s
  | some p =>
    let xs := p.run.reverse
    let fs := xs.flatMap fun x => s.framesOf m p.ep x
    let s := xs.foldl (fun (s : State) x => s.countSent m x) s
    let s := if fs.isEmpty then s else s.setMac m { s.mac m with sent := fs }
    if xs.any fun x => x.tun != p.tun then s.countMac m 51 1 else s

/-! ### A port fails (R306) -/

/-- The tun that carries the hub's own messages: a pooled one that runs, else the first that runs. -/
def State.carrier (s : State) : Option Nat := (s.running.find? fun u => !(tlSealed (s.lay u))).or s.running.head?

/-- A port fails (R306, R309): its MAC is fenced, and a width change on it is abandoned; where the plan holds its delta, a port-down
message goes out on every other MAC to every endpoint and the delta is due. A peck in progress on it ends. A failure for which the plan
holds no delta is not absorbed. -/
def State.failPort (s : State) (m : Nat) : State :=
  let x := s.mac m
  if x.link = .fenced ∨ !(s.macExists m) then s
  else
    let s := s.countPeck m
    let s := (s.setMac m { s.mac m with link := .fenced, peck := none, shed := false, timeouts := 0, realign := (0, 0), ctl := [] }).countMac m 46 1
    let rank := s.ownRank
    let has := match s.net.gauge with
      | some g => (planDelta g rank m).isSome && !(s.net.failed.contains (64 * rank + m))
      | none => false
    let t := effectiveTime s.net.ptp.began s.nowPs
    let s := if has then
        let s := { s with net := { s.net with deltasDue := s.net.deltasDue ++ [(64 * rank + m, t)] } }
        let others := s.macList.filter fun q => q != m && (s.mac q).link == MacLink.up
        let eps := List.range ((s.net.gauge.map fun g => g.endpoints.length).getD 0)
        let s := match s.carrier with
          | some u => others.foldl (fun (s : State) q => s.txControls q (eps.map fun e => (u, CtlMsg.portDown e rank m t))) s
          | none => s
        (s.deviceEvent 0x34 [m, t / 1000]).absorbed 4 8 m
      else s.fault 4 8 m allOnes64
    s.deviceEvent 0x33 [m, 64]

/-- The counter that a port's failure raises: lock losses, uncorrectable codewords, local faults, remote faults. -/
def faultCounter : PortFault → Nat × Nat
  | .blockLock => (44, 1)
  | .fec => (42, 8)
  | .localFault => (47, 1)
  | .remoteFault => (48, 1)

/-- A port that is in use fails for a cause (R306). -/
def State.portFails (s : State) (m : Nat) (why : PortFault) : State :=
  if (s.mac m).link = .fenced ∨ !(s.macExists m) then s
  else (s.countMac m (faultCounter why).1 (faultCounter why).2).failPort m

/-! ### LLDP (R284) -/

/-- The decimal digits of a number below 100. -/
def decDigits (n : Nat) : Bytes := (if n < 10 then [] else [BitVec.ofNat 8 (48 + n / 10)]) ++ [BitVec.ofNat 8 (48 + n % 10)]

/-- A port's name: Pk, with .j for a split (R283). -/
def State.portName (s : State) (m : Nat) : Bytes :=
  strBytes "P" ++ decDigits (m / 4) ++ (if portMode (s.port m) = 1 then [] else strBytes "." ++ decDigits (m % 4))

/-- A TLV of an LLDPDU. -/
def lldpTlv (type : Nat) (body : Bytes) : Bytes := bytesOfNatBE 2 (type * 512 + body.length) ++ body

/-- The LLDPDU of a port, as a frame before its FCS: chassis ID the serial number, port ID the port's name, both locally assigned, and
a time to live of 120 s (PRESUMED, IEEE 802.1AB; log entry 141). -/
def State.lldpFrame (s : State) (m : Nat) : Bytes :=
  let f := [0x01, 0x80, 0xC2, 0, 0, 0x0E] ++ s.macAddr m ++ [0x88, 0xCC]
    ++ lldpTlv 1 (7 :: bytesOfNat 8 s.host.serial) ++ lldpTlv 2 (7 :: s.portName m) ++ lldpTlv 3 [0, 120] ++ lldpTlv 0 []
  f ++ List.replicate (60 - f.length) 0

/-- A port sends its LLDPDU, once a second, unless a pause holds it. -/
def State.sendLldp (s : State) (m : Nat) : State :=
  let x := s.mac m
  let now := max s.nowPs x.lldpDue
  let s := { s with nowPs := now }
  if s.txHeld m 0 then s
  else
    let f := s.lldpFrame m
    ((s.setMac m { s.mac m with lldp := f, lldpDue := now + 10 ^ 12 }).txFrames m 1 (f.length + 4)).countMac m 38 1

end Sys2Proof.Machine
end

