-- ==== Sys2Proof/Machine/TransportOps.lean ====
section
/-! DEFINITION. Sending in pecks (R292 to R294, R299, R302) and receiving the transport's messages (R300 to R303). -/

namespace Sys2Proof.Machine

/-! ### Credits (R302) -/

/-- The initial credit towards another rank: the tun's slot quota divided among its peers (R302). -/
def State.creditStart (s : State) (u : Nat) : Nat := tlSlots (s.lay u) / max ((s.tun u).job.cluster.length - 1) 1

/-- A tap that names a gauge endpoint. -/
def tapTo (o : Option (BitVec 1024)) (ep : Nat) : Option (BitVec 1024) := (tapOn o).filter fun e => flag e 10 && field e 11 8 == ep

/-- The initial credit towards the receiver at an endpoint: what its racking or cask tap states (R302, R341). An evaluation tap states
none, and the receiver or device it names gives what a peer gives (DESIGN CHOICE, log entry 142). -/
def State.receiverStart (s : State) (u ep : Nat) : Nat :=
  match (tapTo (s.tun u).rackTap ep).or (tapTo (s.tun u).caskTap ep) with
  | some e => field e (8 * 72) 32
  | none => if (tapTo (s.tun u).evalTap ep).isSome then s.creditStart u else 0

/-- The segment credits a tun holds towards a destination: a rank, or 64 + the endpoint of a receiver. -/
def State.credits (s : State) (u d : Nat) : Nat :=
  Tbl.get (if d < 64 then s.creditStart u else s.receiverStart u (d - 64)) (s.tun u).segCredits d

/-! ### The segments as they are sent (R230, R237, R299) -/

/-- The format a segment leaves in: partials in COL_IN_FMT, results in COL_OUT_FMT. -/
def Tun.segFmt (t : Tun) (x : Seg) : Nat :=
  let e := t.collAt x.coll
  match x.role with
  | .out r => if colReduces e && t.reducerAt e x.first != r then colOut e else colIn e
  | _ => colOut e

/-- The records of a row form: each row's number in 8 bytes, and its codes. -/
def segRows (bits cols : Nat) : List Nat → List Nat → Bytes
  | [], _ => []
  | r :: rs, codes => bytesOfNat 8 r ++ packCodes bits (codes.take cols) ++ segRows bits cols rs (codes.drop cols)

/-- The bytes of a collective segment: its codes and their scales, or the records of its rows, in a format of so many bits. -/
def Tun.segData (t : Tun) (x : Seg) : Bytes :=
  let bits := fmtBits (t.segFmt x)
  if x.rows.isEmpty then packCodes bits x.codes ++ x.scales.map (BitVec.ofNat 8)
  else segRows bits (if x.rows.length = 1 then x.codes.length else t.rowWidth (t.collAt x.coll)) x.rows x.codes

/-- Whether a destination is reached by a peck's end: the job image's table says so, or the end is the endpoint of the receiver
(R292; log entry 136). -/
def Tun.reaches (t : Tun) (d e : Nat) : Bool := (Tbl.get [] t.job.ends d).contains e || d == 64 + e

/-- The tap that a racking, cask or evaluation segment goes to. -/
def Tun.tapFor (t : Tun) (x : RackSeg) : Option (BitVec 1024) :=
  tapOn (if x.evaluation then t.evalTap else if (RkFields.ofHeader x.header).type < 8 then t.rackTap else t.caskTap)

/-- The endpoint that a racking, cask or evaluation segment goes to over Ethernet: TAP_EP of its tap, where that is no host memory
(R265, R338). -/
def Tun.endpoint (t : Tun) (x : RackSeg) : Option Nat := ((t.tapFor x).filter fun e => flag e 10).map fun e => field e 11 8

/-- Whether a racking, cask or evaluation segment goes over Ethernet. -/
def Tun.overNet (t : Tun) (x : RackSeg) : Bool := (t.endpoint x).isSome

/-- Whether a racking, cask or evaluation segment goes in a peck to an end. -/
def Tun.toEnd (t : Tun) (e : Nat) (x : RackSeg) : Bool :=
  match t.endpoint x with
  | some ep => t.reaches (64 + ep) e
  | none => false

/-- The rank and tun that an evaluation segment is delivered to where its endpoint is an H8's port: bytes 76 and 77 of its tap (R274,
R291, R341). -/
def State.evalPeer (s : State) (u : Nat) (x : RackSeg) : Option (Nat × Nat) :=
  match (s.tun u).evalTap, (s.tun u).endpoint x, s.net.gauge with
  | some e, some ep, some g =>
    if x.evaluation && !(flag (g.endpoints.getD ep 0) 48) then some (field e (8 * 76) 8, field e (8 * 77) 8) else none
  | _, _, _ => none

/-! ### Sending in a peck -/

/-- What a peck has room for: when the next frame may start, the time before which one starts, or by which one ends in a sealed tun's
peck, the credits spent in it by destination, and what it sends, newest first. -/
structure PeckRoom where
  at' : Nat
  limit : Nat
  fixed : Bool := false
  spent : Tbl Nat := []
  sent : List Sent := []
  deriving DecidableEq, Repr

/-- The frames of a wire time that a peck has room for from a time on (R292, R294). -/
def PeckRoom.fits (p : PeckRoom) (from' w : Nat) : Nat := if p.fixed then (p.limit - from') / w else ceilDiv (p.limit - from') w

/-- A segment, some of whose frames have left, sends the frames that the peck has room for: none where no credit is held for one that
begins (R302). full is a full frame's payload, wFull its wire time and wLast that of the last frame. Answers how many of its frames
have left then. -/
def PeckRoom.take (p : PeckRoom) (full wFull wLast credits : Nat) (x : Sent) : Option (Nat × PeckRoom) :=
  let left := segFrames full x.data.length - x.before
  let a := min (left - 1) (p.fits p.at' wFull)
  let mid := p.at' + a * wFull
  let whole := a + 1 == left && decide (0 < p.fits mid wLast)
  let n := if whole then left else a
  let stop := if whole then mid + wLast else mid
  let fresh := !x.resent && x.before == 0
  let spent := Tbl.get 0 p.spent x.dest
  if n = 0 || (fresh && decide (credits ≤ spent)) then none
  else some (x.before + n,
    { p with at' := stop, spent := if fresh then p.spent.put x.dest (spent + 1) else p.spent,
             sent := { x with frames := n, at' := p.at', per := wFull, stop := stop } :: p.sent })

/-- A sending of a tun put into a peck of a MAC, with the wire times of its frames. -/
def State.put (s : State) (m : Nat) (p : PeckRoom) (x : Sent) : Option (Nat × PeckRoom) :=
  let full := fullPayload (s.port m)
  let n := x.data.length
  p.take full (s.wirePs m x.tun full) (s.wirePs m x.tun (n - full * (segFrames full n - 1))) (s.credits x.tun x.dest) x

/-- When a segment of some bytes has been sent whole on a MAC, once k of its frames have left. -/
def State.wholeAt (s : State) (m n k stop : Nat) : Option Nat := if segFrames (fullPayload (s.port m)) n ≤ k then some stop else none

/-- When what a peck has taken last ends. -/
def PeckRoom.last (p : PeckRoom) : Nat := p.at'

/-- Whether frames of a segment may leave on a MAC: all of one segment leave on one (R303). -/
def mayLeave (m : Nat) (mac sentAt : Option Nat) : Bool := sentAt.isNone && (mac.isNone || mac == some m)

/-- A collective segment as it is sent to a rank. -/
def Tun.segSent (t : Tun) (u : Nat) (x : Seg) (r : Nat) : Sent :=
  let data := t.segData x
  let h : TpHead := { tun := u, nf := x.nf, resend := x.resent, src := t.rank, dst := r, step := x.step, attempt := x.attempt,
                      coll := x.coll, seq := x.seq, bytes := data.length, elem := x.first, round := x.round }
  { queue := .coll, tun := u, dest := r, seq := x.seq, resent := x.resent, before := x.out, header := h.word, data := data }

/-- A permutation segment as it is sent (R250; log entry 38). -/
def Tun.permSent (t : Tun) (u : Nat) (x : Perm) : Sent :=
  let h : TpHead := { tun := u, resend := x.resent, src := t.rank, dst := x.rank, kind := 3, step := t.stepNow, attempt := t.step.attempt,
                      coll := x.die, seq := x.seq, bytes := x.data.length, elem := x.at' }
  { queue := .perm, tun := u, dest := x.rank, seq := x.seq, resent := x.resent, before := x.out, header := h.word, data := x.data }

/-- A racking, cask or evaluation segment of a number as it is sent: its header and payload (R261, R299). -/
def State.rackSent (s : State) (u : Nat) (x : RackSeg) (dest num : Nat) : Sent :=
  let t := s.tun u
  let f := RkFields.ofHeader x.header
  let data := bytesOfNat 64 x.header.toNat ++ x.payload
  let to' := (s.evalPeer u x).getD (0, u)
  let h : TpHead := { tun := to'.2, resend := x.resent, src := t.rank, dst := to'.1, kind := 1, step := f.step, attempt := f.attempt,
                      seq := num, bytes := data.length }
  { queue := .rack, tun := u, dest := dest, seq := num, resent := x.resent, before := x.out, header := h.word, data := data }

/-- The collective segments of a tun sent in order to the ranks that an end reaches. -/
def State.sendSegs (s : State) (u m e : Nat) : List Seg → PeckRoom → List Seg × PeckRoom
  | [], p => ([], p)
  | x :: xs, p =>
    let t := s.tun u
    let r := match x.role with
      | .out r => if mayLeave m x.mac x.sentAt && t.reaches r e then s.put m p (t.segSent u x r) else none
      | _ => none
    match r with
    | some (k, p') =>
      let y := s.sendSegs u m e xs p'
      ({ x with mac := some m, out := k, sentAt := s.wholeAt m (t.segData x).length k p'.last } :: y.1, y.2)
    | none =>
      let y := s.sendSegs u m e xs p
      (x :: y.1, y.2)

/-- The racking segments, or the cask and evaluation ones, that stand in slots sent in order to an end, each numbered towards its
receiver as it begins (R270, R303). -/
def State.sendRackSegs (s : State) (u m e : Nat) (racking : Bool) : List RackSeg → Tbl Nat → PeckRoom → List RackSeg × Tbl Nat × PeckRoom
  | [], q, p => ([], q, p)
  | x :: xs, q, p =>
    let t := s.tun u
    let first := !x.evaluation && decide ((RkFields.ofHeader x.header).type < 8)
    let d := 64 + (t.endpoint x).getD 0
    let num := if x.numbered then x.seq else Tbl.get 0 q (d * 16 + 1)
    match (if x.place == .slot && first == racking && mayLeave m x.mac x.sentAt && t.toEnd e x then s.put m p (s.rackSent u x d num)
      else none) with
    | some (k, p') =>
      let y := s.sendRackSegs u m e racking xs (if x.numbered then q else q.put (d * 16 + 1) ((num + 1) % 2 ^ 32)) p'
      ({ x with mac := some m, out := k, sentAt := s.wholeAt m (64 + x.payload.length) k p'.last, seq := num, numbered := true } :: y.1, y.2)
    | none =>
      let y := s.sendRackSegs u m e racking xs q p
      (x :: y.1, y.2)

/-- Permutation segments sent in order to the ranks that an end reaches (R250). -/
def State.sendPerms (s : State) (u m e : Nat) : List Perm → PeckRoom → List Perm × PeckRoom
  | [], p => ([], p)
  | x :: xs, p =>
    let t := s.tun u
    match (if mayLeave m x.mac x.sentAt && t.reaches x.rank e then s.put m p (t.permSent u x) else none) with
    | some (k, p') =>
      let y := s.sendPerms u m e xs p'
      ({ x with mac := some m, out := k, sentAt := s.wholeAt m x.data.length k p'.last } :: y.1, y.2)
    | none =>
      let y := s.sendPerms u m e xs p
      (x :: y.1, y.2)

/-- Credits spent. -/
def State.spendCredits (s : State) (u : Nat) (spent : Tbl Nat) : State :=
  let t := s.tun u
  s.setTun u { t with segCredits := spent.foldl (fun c p => Tbl.put c p.1 (s.credits u p.1 - p.2)) t.segCredits }

/-- A tun's segments sent in a peck of a kind to an end with room for some frames: of racking's kind the racking segments before those of
casks (R270). -/
def State.sendIn (s : State) (m u kind e : Nat) (p : PeckRoom) : State × PeckRoom :=
  let t := s.tun u
  let p := { p with spent := [] }
  if kind = 1 then
    let a := s.sendRackSegs u m e true t.rack.segs t.seqs p
    let r := s.sendRackSegs u m e false a.1 a.2.1 a.2.2
    let s := s.spendCredits u r.2.2.spent
    let t := s.tun u
    (s.setTun u { t with rack := { t.rack with segs := r.1 }, seqs := r.2.1 }, r.2.2)
  else
    let r := s.sendSegs u m e t.segs p
    let q := s.sendPerms u m e t.perms r.2
    let s := s.spendCredits u q.2.spent
    let t := s.tun u
    (s.setTun u { t with segs := r.1, perms := q.1 }, q.2)

/-- When a MAC's data frames may go on: the end of the pause of their priority (R287). -/
def State.dataResumes (s : State) (m : Nat) : Nat := Tbl.get 0 (s.mac m).paused s.dataPriority

/-- The control messages of a pooled tun that wait for a MAC are handed to one (R295). Which is not stated; in the model it is the MAC of
the tun's next peck (DESIGN CHOICE, log entry 124). The credits of the slots it has released go with them (R302). -/
def State.sendControls (s : State) (m u : Nat) : State :=
  if tlSealed (s.lay u) then s
  else
    let t := (s.tun u).returnCredits
    (s.setTun u { t with ctlOut := [] }).txControls m (t.ctlOut.map fun x => (u, x))

/-- Frames of a segment that were to leave do not: what they took is as before. -/
def State.unsend (s : State) (m : Nat) (x : Sent) (n : Nat) : State :=
  let t := s.tun x.tun
  let left := x.before + x.frames - n
  let mac := if left = 0 then none else some m
  let seg (y : Seg) : Bool := y.role == .out x.dest && y.mac == some m && y.seq == x.seq
  let rack (y : RackSeg) : Bool := t.endpoint y == some (x.dest - 64) && y.mac == some m && y.seq == x.seq
  let perm (y : Perm) : Bool := y.rank == x.dest && y.mac == some m && y.seq == x.seq
  let found := match x.queue with
    | .coll => t.segs.any seg
    | .rack => t.rack.segs.any rack
    | .perm => t.perms.any perm
  let t := if found && left == 0 && !x.resent then { t with segCredits := t.segCredits.put x.dest (s.credits x.tun x.dest + 1) } else t
  s.setTun x.tun (match x.queue with
    | .coll => { t with segs := t.segs.map fun y => if seg y then { y with mac := mac, out := left, sentAt := none } else y }
    | .rack => { t with rack := { t.rack with segs := t.rack.segs.map fun y => if rack y then { y with mac := mac, out := left, sentAt := none } else y } }
    | .perm => { t with perms := t.perms.map fun y => if perm y then { y with mac := mac, out := left, sentAt := none } else y })

/-- The frames of a peck, newest first, that have not begun taken back. -/
def State.takeBack (s : State) (m : Nat) : List Sent → State × List Sent
  | [] => (s, [])
  | x :: xs =>
    let b := x.begun s.nowPs
    if b = x.frames then (s, x :: xs)
    else
      let r := (s.unsend m x (x.frames - b)).takeBack m xs
      (r.1, if b = 0 then r.2 else { x with frames := b, stop := x.at' + b * x.per } :: r.2)

/-- The peck of a MAC goes on from now: frames that have not begun are taken back, and those of its tun, and those of other pooled tuns
where the owner has none ready, that can start before a time leave, once what has begun and a pause are over (R292 to R294). A sealed
tun starts no frame that would not end by then, and its peck is not shared. -/
def State.fillPeck (s : State) (m before : Nat) : State :=
  match (s.mac m).peck with
  | none => s
  | some p =>
    if p.cut then s
    else
      let r := s.takeBack m p.run
      let s := r.1
      let fixed := tlSealed (s.lay p.tun)
      let from' := max (max p.start ((r.2.head?.map Sent.stop).getD 0)) (max s.nowPs (s.dataResumes m))
      let others := if fixed then [] else s.running.filter fun v => v != p.tun && !(tlSealed (s.lay v))
      let q := (p.tun :: others).foldl (fun (q : State × PeckRoom) v => q.1.sendIn m v p.kind p.ep q.2)
        (s, { at' := from', limit := before, fixed := fixed })
      q.1.setMac m { q.1.mac m with peck := some { p with held := p.held || decide (s.nowPs < s.dataResumes m), run := q.2.sent ++ r.2 } }

/-- A pause begins, changes or ends during a peck (R287, R294): the frames that have not begun wait, and go on when the pause is over. -/
def State.repeck (s : State) (m : Nat) : State :=
  match (s.mac m).peck with
  | none => s
  | some p => s.fillPeck m p.target

/-- An emergency stop during a peck: no further data frame leaves, and what is left of the peck passes unused (R402). -/
def State.haltPecks (s : State) : State :=
  s.macList.foldl (fun (s : State) m =>
    match (s.mac m).peck with
    | none => s
    | some p =>
      let r := s.takeBack m p.run
      r.1.setMac m { r.1.mac m with peck := some { p with run := r.2, cut := true } }) s

/-- Pauses of priorities of a MAC change; a peck whose priority they touch is held or goes on, and control messages that have waited
leave (R287, R294). -/
def State.paused (s : State) (m : Nat) (qs : List (Nat × Nat)) : State :=
  let t := s.pauseMac m qs
  (if t.dataResumes m = s.dataResumes m then t else t.repeck m).flushCtl m

/-- A tun's peck begins on a MAC (R292 to R294): its target is set from its debt, and the frames that can start
before it are sent. A sealed tun has no debt, and is held while the clock of a gauged port is lost (R297). A pooled tun that is not loaded
has no frame ready, and its peck is lent; a sealed one's stays silent (R293). -/
def State.peckStart (s : State) (m i : Nat) : State :=
  let x := s.mac m
  match (s.pecksOf m).find? fun p => p.1 == i with
  | none => s
  | some p =>
    let u := pkTun p.2
    let fixed := tlSealed (s.lay u)
    if 1 < pkKind p.2 || s.pwr.state != .run || x.link != .up || x.peck.isSome || (fixed && !((s.tun u).loaded))
        || (fixed && s.timeLost m) then s
    else
      let start := s.nowPs
      let stop := start + pkLen p.2 * 4000000 - 100000
      let debt := if fixed then 0 else Tbl.get 0 x.debts u
      let target := max start (stop - debt)
      let k : Peck := { idx := i, tun := u, start := start, target := target, stop := stop, kind := pkKind p.2, ep := pkEnd m p.2 }
      let s := s.setMac m { x with debts := if fixed then x.debts else x.debts.put u (debt - (stop - target)), peck := some k }
      (s.sendControls m u).fillPeck m target

/-- Whether a tun has frames ready for pecks of a kind to an end. -/
def State.readyFrames (s : State) (u kind e : Nat) : Bool :=
  let t := s.tun u
  let ready (sentAt : Option Nat) (resent : Bool) (out d : Nat) : Bool := sentAt.isNone && (resent || out != 0 || decide (0 < s.credits u d))
  if kind = 1 then t.rack.segs.any fun x => x.place == .slot && t.toEnd e x && ready x.sentAt x.resent x.out (64 + (t.endpoint x).getD 0)
  else
    t.segs.any (fun x => match x.role with
      | .out r => t.reaches r e && ready x.sentAt x.resent x.out r
      | _ => false)
    || t.perms.any fun x => t.reaches x.rank e && ready x.sentAt x.resent x.out x.rank

/-- The last frame of a peck ends (R294), after what has become ready meanwhile and could start before the target: what it has sent is
counted, what passes the target becomes debt of a pooled tun, and a peck that ends with frames held by a pause is counted. A peck that
has sent no later frame ends at its target. -/
def State.peckEnd (s : State) (m : Nat) : State :=
  match (s.mac m).peck with
  | none => s
  | some p =>
    let s := (s.fillPeck m p.target).countPeck m
    let x := s.mac m
    let q := x.peck.getD p
    let last := max p.target ((q.run.head?.map Sent.stop).getD 0)
    let s := { s with nowPs := max s.nowPs last }
    let overs := last - p.target
    let o := x.overRem + overs
    let x := { x with peck := none, overRem := o % 1000,
                      debts := if tlSealed (s.lay p.tun) then x.debts else Tbl.modify 0 x.debts p.tun (· + overs) }
    let missed := q.held && s.readyFrames p.tun p.kind p.ep
    let s := (s.setMac m x).countMac m 49 (o / 1000)
    if missed then s.countMac m 50 1 else s

/-- The plan staged from the gauge tap takes its place at its bushel (R298, R309): debts are discarded, and so are the pecks of tuns that
the new plan gives none on that MAC, whose frame in transmission is finished. -/
def State.gaugeTurn (s : State) (n : Nat) : State :=
  match s.net.gaugeNext with
  | none => s
  | some g =>
    if planStart g ≤ n then
      let s := { s with net := { s.net with gauge := some g, gaugeNext := none, failed := [], deltasDue := [] } }
      s.macList.foldl (fun (s : State) m =>
        let s := match (s.mac m).peck with
          | none => s
          | some p =>
            if s.usesMac m p.tun then s
            else
              let r := s.takeBack m p.run
              (r.1.setMac m { r.1.mac m with peck := some { p with run := r.2, cut := true } }).peckEnd m
        s.setMac m { s.mac m with debts := [], failedOver := false }) s
    else s

/-! ### Messages received -/

/-- A transport message for a tun on a MAC: accepted, or counted as bad where the tun is not resident or the rank is
none of the cluster's (R303). Answers whether it is accepted. -/
def State.rxMessage (s : State) (m u payload : Nat) (src : Option Nat) : State × Bool :=
  let t := s.tun u
  let s := s.rxFrame m (s.frameLen m u payload) false []
  let ok := t.loaded && (match src with
    | some r => decide (r < t.job.cluster.length) && r != t.rank
    | none => true)
  (s.countMac m (if ok then 23 else 24) 1, ok)

/-- A MAC that frames can reach: its link is up, and the device is not in deep idle, where only a wake pattern is looked for (R308). -/
def State.macUp (s : State) (m : Nat) : Bool := (s.mac m).link == .up && s.pwr.state != .deepIdle

/-- A message of a rank received on a MAC, and what it does once it is accepted; a port that is not up receives none. -/
def State.received (s : State) (m u payload src : Nat) (act : State → State) : State :=
  if !(s.macUp m) then s
  else
    let r := s.rxMessage m u payload (some src)
    if r.2 then act r.1 else r.1

/-- Whether a number lies among so many from a first one on, modulo 2^32. -/
def seqIn (first more q : Nat) : Bool := decide ((q + (2 ^ 32 - first)) % 2 ^ 32 ≤ more)

/-- Racking, cask and evaluation segments acknowledged: those sent through a port, or being sent again, that a test names (R309). -/
def State.ackRack (s : State) (u : Nat) (mine : RackSeg → Bool) : State :=
  ((s.tun u).rack.segs.filter fun x => x.place == .slot && x.numbered && ((x.sentAt.isSome && x.mac.isSome) || x.resent) && mine x).foldl
    (fun (s : State) x => s.ackOne u x) s

/-- The slots of acknowledged segments released (R230, R302), at the first acknowledgement also where a segment is being sent again (R309).
Of kind 1, a receiver acknowledges with status 1 what it has stored (R265), and another device the evaluation segments it has taken
(R274). -/
def State.takeAck (s : State) (m u : Nat) (src : Peer) (kind status first more : Nat) : State :=
  let s := s.setMac m { s.mac m with timeouts := 0 }
  match src with
  | .rank r =>
    let t := s.tun u
    let gone (x : Seg) : Bool := x.role == .out r.val && (x.sentAt.isSome || x.resent) && seqIn first more x.seq
    let gonePerm (x : Perm) : Bool := x.rank == r.val && (x.sentAt.isSome || x.resent) && seqIn first more x.seq
    match kind with
    | 0 => s.setTun u { t with segs := t.segs.filter fun x => !(gone x) }
    | 1 => s.ackRack u fun x => (s.evalPeer u x).map Prod.fst == some r.val && seqIn first more x.seq
    | 3 => s.setTun u { t with perms := t.perms.filter fun x => !(gonePerm x) }
    | _ => s
  | .receiver ep =>
    if kind = 1 && status == 1 then
      s.ackRack u fun x => (s.tun u).endpoint x == some ep.val && (s.evalPeer u x).isNone && seqIn first more x.seq
    else s

/-! ### Data frames (R300, R303) -/

/-- The formats whose blocks carry scales (R84, R232). -/
def blockFmt (c : Nat) : Bool :=
  match fmtOr c with
  | .e4m3 | .e5m2 | .e3m2 | .e2m3 | .e2m1 | .e1m1 | .t2 => true
  | _ => false

/-- The bytes of a segment put together from its frames. -/
def Partial.bytes (p : Partial) : Bytes := (p.data.flatMap Prod.snd).take (field p.header 86 16 + 1)

/-- The block size of the window a segment's first element is delivered into. -/
def State.blockOf (s : State) (u : Nat) (e : BitVec 256) (i : Nat) : Nat :=
  match ((s.tun u).recordsAt e i).head? with
  | some r =>
    let d := Tbl.get 0 (s.tun u).job.dlvs r
    winBs ((s.ctx (dlDie d) u).win (dlWin d))
  | none => 32

/-- The elements of a segment of some bytes whose codes are followed by their block scales (log entry 36). -/
def scaledCount (bits bs len : Nat) : Nat := 8 * bs * len / (bits * bs + 8)

/-- A complete collective segment taken: its codes, scales and rows read and handed on (R230, R237). A row-form
segment with room for another record is the last of its result (log entry 37). -/
def State.collSegment (s : State) (u src : Nat) (p : Partial) : State :=
  let h := p.header
  let t := s.tun u
  let c := field h 148 12
  let e := t.collAt c
  let first := field h 46 40
  let bs := p.bytes
  let part := t.isPart e src first
  let fmt := if colReduces e && !part then colOut e else colIn e
  let bits := fmtBits fmt
  if colSparse e then
    let cols := t.rowWidth e
    let per := rowsPer cols fmt
    let recs := if per = 0 then (if bs.length < 8 then [] else [(Bytes.toNat (bs.take 8) % 2 ^ 40, unpackCodes bits (bs.drop 8))])
      else rowRecords cols bits (bs.length) bs
    let last := recs.isEmpty || decide (recs.length < per)
    s.segmentIn u c src (field h 0 16) first (recs.flatMap Prod.snd) [] (recs.map Prod.fst) (flag h 241) (last && !part) 32
  else if !(colReduces e) && blockFmt (colIn e) then
    let b := s.blockOf u e first
    let n := scaledCount bits b bs.length
    let codes := unpackCodes bits (bs.take (ceilDiv (n * bits) 8))
    let scales := (bs.drop (ceilDiv (n * bits) 8)).map BitVec.toNat
    s.segmentIn u c src (field h 0 16) first (codes.take n) scales [] (flag h 241) false b
  else s.segmentIn u c src (field h 0 16) first (unpackCodes bits bs) [] [] (flag h 241) false 32

/-- The writes that a permutation segment stands for, on the die in TP_COLL[2:0]: TP_ELEM is the byte of that die's record stream
at which it begins (log entry 38), in a re-sharding step under the new layout, else under the layout in force (R220, R250). -/
def Tun.permPlaces (t : Tun) (p : Partial) : List PermWrite :=
  let n := field p.header 148 3
  let at' := field p.header 46 40
  match t.reshard, t.package with
  | .no, _ => t.repairWrites n at' p.bytes
  | _, none => []
  | _, some pkg => t.reshardWrites (relaidJob t.job pkg) ((pkg.rankMap.find t.rank).getD 64) n at' p.bytes

/-- A device under repair whose digest now agrees sends it again, and is no longer under repair (R220). -/
def State.repaired (s : State) (u : Nat) : State :=
  let t := s.tun u
  if t.digestBad.contains t.rank then
    let d := s.ownDigest u t.stepNow
    let t := { t with digests := t.digests.put t.rank d }
    if t.divergent.contains t.rank then s.setTun u t
    else s.setTun u ({ t with digestBad := t.digestBad.filter (· != t.rank) }.sendCtl
      ((t.members.filter (· != t.rank)).map fun r => .digest r d))
  else s

/-- Whether a device may take permuted records now: it repairs its digest, or its re-sharding step has moved its own records; before
that their sender sends them again (log entry 39). -/
def Tun.takesPerms (t : Tun) : Bool :=
  match t.reshard with
  | .no => t.digestBad.contains t.rank
  | .held => false
  | .moved => true

/-- Permuted records put into their places (R220, R250); with the last that a re-sharding step waits for, the stripes that they have
opened are filled (R166, R250). -/
def State.permuted (s : State) (u : Nat) (p : Partial) : State :=
  let n := field p.header 148 3
  let at' := field p.header 46 40
  let t := s.tun u
  let s := s.putRecords u n (t.permPlaces p)
  if t.reshard = .no then (s.reloadFactors n u).repaired u
  else
    let t := s.tun u
    let due := cutDue n at' (at' + p.bytes.length) t.permDue
    let s := s.setTun u { t with permDue := due }
    if due.isEmpty then s.fillStripes u else s

/-- Whom the acknowledgement and the credit of a segment of a kind go to: the source rank, or, for a restore's, the receiver that sends
it, whose endpoint stands in no header. -/
def recvDest (kind src : Nat) : Nat := if kind = 2 then 512 else src

/-- A complete segment counted, acknowledged and taken (R257); one whose records wait for a lost unit, or for the re-sharding step of
this device, is not, and its sender sends it again (R172, R302). Its number is kept among the last 4,096 of its series (R302, R303). -/
def State.segmentDone (s : State) (m u : Nat) (p : Partial) : State :=
  let t := s.tun u
  let n := field p.header 148 3
  let held := if p.kind = 3 then s.permHeld u n (t.permPlaces p) else []
  if p.kind = 3 ∧ !t.takesPerms then s else
  if !(held.isEmpty) then s.holdWrite n u held else
  let k := p.src * 16 + p.kind
  let recv := if p.kind = 0 ∨ p.kind = 3 then 1 else 0
  let t := { t.slotFor (recvDest p.kind p.src) p.kind with
                    coll := { t.coll with segRecv := t.coll.segRecv + recv },
                    partials := t.partials.filter fun x => !(x.src == p.src && x.kind == p.kind && x.seq == p.seq),
                    received := t.received.put k ((p.seq :: Tbl.get [] t.received k).take 4096) }
  let s := (s.setTun u t).txControl m u (.ack (recvDest p.kind p.src) p.kind 0 p.seq)
  match p.kind with
  | 0 => s.collSegment u p.src p
  | 1 => s.setTun u ((s.tun u).importSeg p.bytes)
  | 3 => s.permuted u p
  | _ => s

/-- Whether a header's attempt is earlier than the tun's. -/
def Tun.staleHeader (t : Tun) (h : BitVec 256) : Bool :=
  let step := field h 176 48
  decide (step < t.stepNow) || (step == t.stepNow && decide (field h 160 16 < t.step.attempt))

/-- Whether a header's attempt is the tun's own. -/
def Tun.liveHeader (t : Tun) (h : BitVec 256) : Bool := field h 176 48 == t.stepNow && field h 160 16 == t.step.attempt

/-- A stale segment acknowledged as discarded, its slot being released at once (R256, R301, R302). -/
def State.staleAck (s : State) (m u src kind seq : Nat) : State :=
  let t := s.tun u
  let t := { t with coll := { t.coll with stale := t.coll.stale + 1 } }.sendCtl [.segmentCredit src kind 1]
  (s.setTun u t).txControl m u (.ack src kind 2 seq)

/-- A transport data frame received (R300, R303, R256): one longer than a MAC takes is discarded (R286), bad and stale frames are counted and dropped, a duplicate
segment is acknowledged again, and a frame is placed in its segment; a complete segment is taken. What comes for a tun's input tap
is another tun's evaluation cask (R274). A frame of a step
or attempt that this device has not reached is left for the sender's resend (log entry 39). -/
def State.dataFrame (s : State) (m : Nat) (h : BitVec 256) (payload : Bytes) : State :=
  let u := field h 243 5
  let t := s.tun u
  let src := field h 234 6
  let kind := field h 224 4
  let seq := field h 112 32
  if 9216 < s.frameLen m u payload.length then s.countMac m 14 1 else
  let s := s.rxFrame m (s.frameLen m u payload.length) false []
  if field h 252 4 ≠ 1 ∨ field h 248 4 ≠ 1 ∨ !t.loaded ∨ field h 228 6 ≠ t.rank ∨ 3 < kind ∨ (kind = 1 ∧ !t.inputTap)
      ∨ (kind ≠ 1 ∧ kind ≠ 2 ∧ (src = t.rank ∨ t.job.cluster.length ≤ src)) ∨ payload.length ≠ field h 32 14 then s.countMac m 24 1
  else
    let s := s.countMac m 23 1
    if (kind = 0 ∨ kind = 3) ∧ t.staleHeader h then
      let s := s.countMac m 26 1
      if flag h 242 then s.staleAck m u src kind seq else s
    else if (kind = 0 ∨ kind = 3) ∧ !(t.liveHeader h) then s
    else if (Tbl.get [] t.received (src * 16 + kind)).contains seq then
      if flag h 242 then (s.countMac m 25 1).txControl m u (.ack (recvDest kind src) kind 0 seq) else s
    else
      let old := t.partials.find? fun x => x.src == src && x.kind == kind && x.seq == seq
      let p := old.getD { src := src, kind := kind, seq := seq, header := h, since := s.nowPs }
      let i := field h 107 5
      let p := { p with frames := if p.frames.contains i then p.frames else i :: p.frames,
                        data := p.data.put (64 * field h 22 10) payload }
      if p.frames.length = field h 102 5 + 1 then s.segmentDone m u p
      else
        let rest := t.partials.filter fun x => !(x.src == src && x.kind == kind && x.seq == seq)
        s.setTun u { t with partials := rest ++ [p] }

/-! ### Timers of the transport (R302, R303) -/

/-- One more timeout on a MAC: with the eighth in a row the port has failed (R302, R306). -/
def State.timedOut (s : State) (m : Nat) : State :=
  let x := s.mac m
  let s := s.setMac m { x with timeouts := x.timeouts + 1 }
  if 8 ≤ x.timeouts + 1 then s.failPort m else s

/-- A sent segment of a destination, a kind and a number whose time has run out on a MAC goes again in the next peck to its end: 200 µs
after its last frame, or 1,000 µs towards a receiver (R302). -/
def State.resendDue (s : State) (m u dest kind seq : Nat) : State :=
  let t := s.tun u
  let late (mac sent : Option Nat) (q : Nat) : Bool := mac == some m && sent.isSome && q == seq
  let at' (sent : Option Nat) : Nat := max s.nowPs (sent.getD 0 + if dest < 64 then 200000000 else 1000000000)
  match kind with
  | 0 =>
    match t.segs.find? fun x => x.role == .out dest && late x.mac x.sentAt x.seq with
    | some x =>
      let again (y : Seg) : Seg := if y = x then { y with mac := none, sentAt := none, out := 0, resent := true } else y
      State.timedOut { s.setTun u { t with segs := t.segs.map again, coll := { t.coll with resends := t.coll.resends + 1 } } with
        nowPs := at' x.sentAt } m
    | none => s
  | 1 =>
    match t.rack.segs.find? fun x => t.endpoint x == some (dest - 64) && late x.mac x.sentAt x.seq with
    | some x =>
      let again (y : RackSeg) : RackSeg := if y = x then { y with mac := none, sentAt := none, out := 0, resent := true } else y
      State.timedOut { s.setTun u { t with rack := { t.rack with segs := t.rack.segs.map again },
                                           rackStat := { t.rackStat with resends := t.rackStat.resends + 1 } } with nowPs := at' x.sentAt } m
    | none => s
  | 3 =>
    match t.perms.find? fun x => x.rank == dest && late x.mac x.sentAt x.seq with
    | some x =>
      let again (y : Perm) : Perm := if y = x then { y with mac := none, sentAt := none, out := 0, resent := true } else y
      State.timedOut { s.setTun u { t with perms := t.perms.map again, coll := { t.coll with resends := t.coll.resends + 1 } } with
        nowPs := at' x.sentAt } m
    | none => s
  | _ => s

/-- The frames of a segment still incomplete 2,048 µs after its first are dropped. -/
def State.dropPartial (s : State) (m u src kind seq : Nat) : State :=
  let t := s.tun u
  match t.partials.find? fun x => x.src == src && x.kind == kind && x.seq == seq with
  | none => s
  | some p =>
    let s := { s with nowPs := max s.nowPs (p.since + 2048000000) }
    (s.setTun u { t with partials := t.partials.filter fun x => x != p }).countMac m 27 1

/-! ### Held gating of HD's domains (R27) -/

/-- A keeper replaced. -/
def State.setKeeper (s : State) (k : Nat) (x : Keeper) : State :=
  if k < 320 then
    let d := s.die (k / 40)
    s.setDie (k / 40) { d with keepers := d.keepers.put (k % 40) x }
  else { s with hubKeepers := s.hubKeepers.put k x }

/-- Whether an HD domain has an operation outstanding: a peck on its port, a segment at its engines, a page at the
CXL port, a transfer on its link or a repair of a group of it (R331). -/
def State.hubBusy (s : State) (k : Nat) : Bool :=
  if k < 16 then s.net.macs.any fun p => p.1 / 4 == k && p.2.peck.isSome
  else if k < 20 then s.tuns.any fun p => !(p.2.segs.isEmpty)
  else if k < 22 then s.net.macs.any fun p => p.2.peck.isSome
  else if k = 22 then decide (0 < s.pagesInFlight fun _ => true)
  else if 24 ≤ k then (List.range 2).any fun dir => (s.linkDir (k - 24) dir).active
  else false

/-- HD's held gating requests carried out as their domains fall idle. -/
def State.hubSettle (s : State) : State :=
  { s with hubKeepers := s.hubKeepers.map fun p =>
      match p.2.gateReq with
      | none => p
      | some r => if p.2.waking || s.hubBusy (p.1 - 320) then p
                  else (p.1, { p.2.gate (r == .power) with gateReq := none }) }

/-! ### Restore-complete (R278) -/

/-- The exchange of restore-complete ended where every other rank's has come (R278). -/
def Tun.exchangeDone (t : Tun) : Tun :=
  if t.restoring && ((List.range t.job.cluster.length).all fun r => r == t.rank || t.restored.contains r) then
    { t with restoring := false, restored := [] }
  else t

end Sys2Proof.Machine
end

