-- ==== Sys2Proof/Machine/LinkOps.lean ====
section
/-! DEFINITION. The die-to-die links (R312 to R333): flits and their replay, control lanes, lane repair, and
discovery and identity of the dies. -/

namespace Sys2Proof.Machine

/-! ### Framing words (R314, R315) -/

/-- FL_KIND. -/
def flKind (f : BitVec 64) : Nat := field f 16 4
/-- FL_DST. -/
def flDst (f : BitVec 64) : Nat := field f 20 4
/-- FL_SRC. -/
def flSrc (f : BitVec 64) : Nat := field f 24 4
/-- FL_TUN. -/
def flTun (f : BitVec 64) : Nat := field f 28 5
/-- FL_SEQ. -/
def flSeq (f : BitVec 64) : Nat := field f 33 8
/-- FL_ACK. -/
def flAck (f : BitVec 64) : Nat := field f 41 8
/-- FL_ACK_VALID. -/
def flAckValid (f : BitVec 64) : Bool := flag f 49
/-- FL_TAG. -/
def flTag (f : BitVec 64) : Nat := field f 50 14

/-- Whether a flit's CRC checks: over the payload and then bits [63:16] of the framing word, lowest byte first. -/
def flitCrcOk (f : BitVec 64) (payload : Bytes) : Bool :=
  (crc16 (payload ++ bytesOfNat 6 (field f 16 48))).toNat == field f 0 16

/-! ### Groups -/

/-- Roles dealt to the working groups in ascending order (R319): compute data, memory forwarding, collective data;
where fewer work than the record lists, the roles give up groups in the order collective data, compute data,
memory forwarding, none below one. -/
def dealCounts (cd mf cl work : Nat) : Nat × Nat × Nat :=
  let short := cd + mf + cl - work
  let cl' := max (min cl 1) (cl - short)
  let short := short - (cl - cl')
  let cd' := max 1 (cd - short)
  let short := short - (cd - cd')
  (cd', max 1 (mf - short), cl')

/-- The role map of a direction from its counts. -/
def LinkDir.deal (x : LinkDir) (l : Nat) (cd mf cl : Nat) : LinkDir :=
  let ws := x.working l
  let c := dealCounts cd mf cl ws.length
  let none' : Tbl Nat := ((List.range (linkGroups l)).filter fun g => (x.group g).retired).map fun g => (g, 3)
  { x with due := none, roles := ((List.range ws.length).zip ws).foldl (fun t p =>
      t.put p.2 (if p.1 < c.1 then 0 else if p.1 < c.1 + c.2.1 then 1 else if p.1 < c.1 + c.2.1 + c.2.2 then 2 else 3)) none' }

/-- A payload of a flit: the bytes given, padded with zeros to 128 (R314; how the fields of a payload lie in it is DESIGN CHOICE, log
entry 143). -/
def pad128 (bs : Bytes) : Bytes := bs ++ List.replicate (128 - bs.length) 0

/-- Whether a flit between two dies crosses HD in the place of a ring link that is off (R319). -/
def State.rerouted (s : State) (l : Nat) (f : BitVec 64) : Bool :=
  let a := flSrc f
  let b := flDst f
  decide (l < 8) && decide (a < 8) && decide (b < 8)
    && ((b == (a + 1) % 8 && s.ringOff.contains a) || (b == (a + 7) % 8 && s.ringOff.contains b))

/-- The role whose groups a flit travels on: memory traffic, and what a ring link that is off sends through HD, memory forwarding; data
to or from HD collective data; the rest compute data, tokens, window credits, step outcomes and issue counts among it (R20, R43, R187,
R319). -/
def State.flitRole (s : State) (l : Nat) (f : BitVec 64) : Nat :=
  if (6 ≤ flKind f ∧ flKind f ≤ 8) ∨ s.rerouted l f then 1
  else if (flKind f = 1 ∨ flKind f = 2) ∧ (flSrc f = 8 ∨ flDst f = 8) then 2
  else 0

/-! ### Receiving (R316) -/

/-- The flits an acknowledgement covers leave a retry buffer. -/
def ackRetry (l : List (Nat × Option Flit)) (a : Nat) : List (Nat × Option Flit) :=
  if l.any fun p => p.1 == a then (l.dropWhile fun p => p.1 != a).drop 1 else l

/-- The number of the next flit that a group's sender has not sent before. -/
def Group.sendNext (y : Group) : Nat :=
  match y.retry.getLast? with
  | some p => (p.1 + 1) % 256
  | none => y.nextSeq

/-- A receiver of a group discards what arrives, up to n flits sent for the first time among it, and asks for a replay from the number
that it takes next (R316). Answers how many were sent for the first time. -/
def Group.askAgain (y : Group) (n : Nat) : Group × Nat :=
  let y' := { y with replaying := true, asked := some y.nextSeq }
  if y.replaying || decide (64 < y.retry.length + n) then (y', 0)
  else ({ y' with retry := y.retry ++ (List.range n).map fun i => ((y.sendNext + i) % 256, none) }, n)

/-- The end of a group's own work for a fault (R326). -/
def Group.stop (g : Group) : Group := { g with stopped := true }

/-- The die, or 8 for HD, that a direction of a link leads to (R330). -/
def linkEnd (l dir : Nat) : Nat :=
  if l < 8 then (if dir = 0 then 8 else l) else if dir = 0 then (l - 8 + 1) % 8 else l - 8

/-- Whether traffic from one die to another goes over link l (R20, R319): over the ring link that joins neighbours, and over
the hub links between other dies, or where that ring link is off. -/
def State.onPath (s : State) (l src dst : Nat) : Bool :=
  let ring : Option Nat := if dst = (src + 1) % 8 then some src else if dst = (src + 7) % 8 then some dst else none
  match ring with
  | some i => if s.ringOff.contains i then decide (l < 8) else l == 8 + i
  | none => decide (l < 8)

/-- Whether a flit accepted on a direction of a link is at the die it is for, on the path its traffic takes (R20). -/
def State.arrived (s : State) (l dir : Nat) (f : BitVec 64) : Bool :=
  linkEnd l dir == flDst f && (decide (8 ≤ flSrc f) || decide (8 ≤ flDst f) || s.onPath l (flSrc f) (flDst f))

/-- A CRC error, or a reserved kind, on a group: the flit is discarded and a replay begins; a replayed flit that fails
again, or 16 errors in 1 ms, is a fault of the group. -/
def State.badFlit (s : State) (l dir g seq : Nat) : State :=
  let x := s.linkDir l dir
  let y := x.group g
  if x.off || y.retired || y.stopped || !(s.linkAwake l) then s
  else
    let times := (s.nowPs :: y.crcTimes.filter fun t => decide (s.nowPs < t + 10 ^ 9)).take 16
    let again := y.replaying && seq == y.nextSeq
    let r := y.askAgain 1
    let y := { r.1 with crcTimes := times, stopped := again || decide (16 ≤ times.length) }
    s.setLinkDir l dir { x.setGroup g y with crcErr := x.crcErr + 1, flits := x.flits + r.2 }

/-- Whether a flit kind takes a receive buffer. -/
def takesBuffer (k : Nat) : Bool := k != 0 && k != 5 && k != 11

/-- LNK_LEND_EN (R319). -/
def lendOn (r : BitVec 64) : Bool := flag r 23

/-- The receive buffers of a group that a sealed tun has: TL_LINK_CD, TL_LINK_MF or TL_LINK_CL sixteenths of its 64 (R318, R379). -/
def State.linkShare (s : State) (role u : Nat) : Nat := 4 * field (s.lay u) (192 + 4 * role) 4

/-- Whether a tun has a receive buffer of a group left: a sealed tun within its share, the pooled tuns together within what the sealed
tuns leave (R318, R379; log entry 126). -/
def State.bufferFor (s : State) (y : Group) (role u : Nat) : Bool :=
  let fixed := (List.range 32).filter fun v => tlEn (s.lay v) && tlSealed (s.lay v)
  if fixed.contains u then decide (Tbl.get 0 y.held u < s.linkShare role u)
  else
    let used := y.held.foldl (fun n p => if fixed.contains p.1 then n else n + p.2) 0
    decide (used + fixed.foldl (fun n v => n + s.linkShare role v) 0 < 64)

/-- Whether a group of a direction can take a flit of a tun that needs a buffer: it works, has a credit and a buffer, and its retry buffer
has room. -/
def State.groupFree (s : State) (x : LinkDir) (g u : Nat) : Bool :=
  let y := x.group g
  !y.stopped && !y.waits && y.credits != 0 && decide (y.retry.length < 64) && s.bufferFor y (x.role g) u

/-- Whether a group holds no flit of its home role that is not acknowledged. -/
def State.groupIdle (s : State) (x : LinkDir) (l g : Nat) : Bool :=
  (x.group g).retry.all fun p => match p.2 with
    | some f => s.flitRole l f.framing != x.role g
    | none => false

/-- Whether a flit may travel on a group (R318): on one of its own role; and, of a pooled tun, with lending enabled and no group of its own
role free, on an idle one of another role. A write between the dies of a parity group may carry parity or a rebuild, and is never lent
(DESIGN CHOICE, log entry 144). Flits without a buffer go on any group. -/
def State.groupFor (s : State) (x : LinkDir) (l g kind : Nat) (f : BitVec 64) : Bool :=
  let r := s.flitRole l f
  !(takesBuffer kind) || x.role g == r
    || (lendOn s.links.role && !(tlSealed (s.lay (flTun f))) && x.role g != 3 && !(kind == 8 && flSrc f / 2 == flDst f / 2)
      && !((x.working l).any fun h => x.role h == r && s.groupFree x h (flTun f)) && s.groupIdle x l g)

/-- The lowest group of the largest other role, which a role without a group takes (R329). -/
def LinkDir.donor (x : LinkDir) (l r : Nat) : Option Nat :=
  let ws := x.working l
  let of' (k : Nat) : List Nat := ws.filter fun g => x.role g == k
  if r = 3 || !((of' r).isEmpty) then none
  else
    let big := ([0, 1, 2].filter (· != r)).foldl (fun b k => if (of' b).length < (of' k).length then k else b) (if r = 0 then 1 else 0)
    (of' big).head?

/-- A role that waits for a group takes it once that group's retry buffer is empty (R329). -/
def LinkDir.settle (x : LinkDir) (l : Nat) : LinkDir :=
  match x.due with
  | none => x
  | some r =>
    match x.donor l r with
    | none => { x with due := none }
    | some g => if (x.group g).retry.isEmpty then { x with roles := x.roles.put g r, due := none } else x

/-- Whether a group is the one that a role waits for: its sender starts no new flit on it. -/
def LinkDir.giving (x : LinkDir) (l g : Nat) : Bool :=
  match x.due with
  | none => false
  | some r => x.donor l r == some g

/-- A flit with a good CRC arrives on a group: in sequence it is accepted, its acknowledgement frees the other
direction's retry buffer and its buffer a credit is spent; out of sequence it is discarded and the receiver asks for a replay.
Answers whether it is accepted. A flit for which no credit is held waits at its sender, which counts the cycle
(R49), as does one for which the retry buffer has no room. A flit of a reserved kind counts as a CRC error (R315). -/
def State.acceptFlit (s : State) (l dir g kind : Nat) (f : BitVec 64) (payload : Bytes) : State × Bool :=
  let x := s.linkDir l dir
  let y := x.group g
  let fresh := !(y.retry.any fun p => p.1 == flSeq f)
  if x.off || y.retired || y.stopped || y.waits || !(s.linkAwake l) || decide (linkGroups l ≤ g) then (s, false)
  else if 12 ≤ flKind f then (s.badFlit l dir g (flSeq f), false)
  else if flKind f != kind || (fresh && (!(s.groupFor x l g kind f) || x.giving l g || decide (64 ≤ y.retry.length))) then (s, false)
  else if flSeq f ≠ y.nextSeq then
    let r := y.askAgain ((flSeq f + 256 - y.sendNext) % 256 + 1)
    (s.setLinkDir l dir { x.setGroup g r.1 with flits := x.flits + r.2 }, false)
  else if takesBuffer kind && (y.credits == 0 || !(s.bufferFor y (x.role g) (flTun f))) then
    let n := flSrc f
    let u := flTun f
    if n < 8 && (s.ctx n u).resident then
      let c := s.ctx n u
      let st := c.stall
      let st := if l < 8 then { st with hubCr := st.hubCr + 1 } else { st with ringCr := st.ringCr + 1 }
      (s.setCtx n u { c with stall := st }, false)
    else (s, false)
  else
    let lent := x.role g != 3 && x.role g != s.flitRole l f && takesBuffer kind
    let held : Nat × Option Flit := (flSeq f, some { framing := f, payload := payload })
    let y := { y with nextSeq := (y.nextSeq + 1) % 256, replaying := false, asked := none, again := y.again.filter (· != flSeq f),
                      retry := if fresh then y.retry ++ [held] else y.retry.map fun p => if p.1 = flSeq f then held else p,
                      credits := if takesBuffer kind then y.credits - 1 else y.credits,
                      held := if takesBuffer kind then Tbl.modify 0 y.held (flTun f) (· + 1) else y.held }
    let s := s.setLinkDir l dir { x.setGroup g y with flits := if fresh then x.flits + 1 else x.flits,
                                                       borrowed := if lent then x.borrowed + 1 else x.borrowed }
    let z := s.linkDir l (1 - dir)
    let w := z.group g
    let s := if flAckValid f then s.setLinkDir l (1 - dir) ((z.setGroup g { w with retry := ackRetry w.retry (flAck f) }).settle l) else s
    (s, true)

/-- A flit arrives on a group with a payload: its CRC is checked, and it is accepted or discarded (R314, R316). -/
def State.takeFlit (s : State) (l dir g kind : Nat) (f : BitVec 64) (payload : Bytes) : State × Bool :=
  if !(flitCrcOk f (pad128 payload)) then (if g < linkGroups l then s.badFlit l dir g (flSeq f) else s, false)
  else s.acceptFlit l dir g kind f (pad128 payload)

/-- Link credits of a tun's flits returned to the other direction's sender (R315). -/
def State.returnCredits (s : State) (l dir g n u : Nat) : State :=
  let x := s.linkDir l (1 - dir)
  let y := x.group g
  s.setLinkDir l (1 - dir) (x.setGroup g { y with credits := min 64 (y.credits + n), held := Tbl.modify 0 y.held u (· - n) })

/-- A replay request: the other direction's sender sends again, from the flit of a number on, what its retry buffer holds (R316). -/
def State.replayFrom (s : State) (l dir g q : Nat) : State :=
  let x := s.linkDir l (1 - dir)
  let y := x.group g
  let y := { y with replaying := true, again := (y.retry.dropWhile fun p => p.1 != q).map Prod.fst }
  s.setLinkDir l (1 - dir) { x.setGroup g y with replays := x.replays + 1 }

/-- A data flit of a transfer accepted. -/
def State.transferFlit (s : State) (l dir tag : Nat) : State :=
  let x := s.linkDir l dir
  s.setLinkDir l dir { x with transfers := Tbl.modify 0 x.transfers tag (· + 1) }

/-- Whether the last flit of a transfer may be sent (R315): every other flit of the transfer has been acknowledged, and they and it hold the
total length that its last 8 bytes give. -/
def LinkDir.lastDue (x : LinkDir) (f : BitVec 64) (payload : Bytes) : Bool :=
  let n := Tbl.get 0 x.transfers (flTag f)
  let total := Bytes.toNat (payload.drop 120)
  decide (128 * n ≤ total) && decide (total ≤ 128 * n + 120)
    && x.groups.all fun g => g.2.retry.all fun p => match p.2 with
      | some y => !(flKind y.framing == 1 && flTag y.framing == flTag f && flSrc y.framing == flSrc f)
      | none => true

/-- A transfer's last flit accepted: a transfer between dies is that of the launch of the slot its tag names
(log entry 40), whose far window has its data and its token when the flit is at its die. -/
def State.transferEnd (s : State) (l dir : Nat) (f : BitVec 64) : State :=
  let x := s.linkDir l dir
  let s := s.setLinkDir l dir { x with transfers := x.transfers.erase (flTag f) }
  if flSrc f < 8 ∧ flDst f < 8 ∧ s.arrived l dir f then s.deliverFar (flSrc f) (flTun f) (flTag f % 512) else s

/-- Window credits returned: to the die or the hub that wrote the windows of the source die (R43), and to the device whose RING or
STAGE result the hub had written into one (R232). -/
def State.windowsBack (s : State) (u src dst : Nat) (wins : List Nat) : State :=
  let c := s.ctx src u
  let ws := wins.filter c.returning.contains
  let s := s.setCtx src u { c with returning := c.returning.filter fun w => !(ws.contains w) }
  let keys := ws.map (remoteKey src)
  if dst = 8 then
    let t := s.tun u
    let far := t.farOwed.filter fun p => keys.contains p.1
    s.setTun u ({ t with dlvSpent := t.dlvSpent.filter (fun k => !(keys.contains k)),
                         farOwed := t.farOwed.filter fun p => !(keys.contains p.1) }.sendCtl
      (far.map fun (p : Nat × Nat) => .windowCredit p.2 (p.1 / 1024) (p.1 % 1024)))
  else
    let d := s.ctx dst u
    s.setCtx dst u { d with spent := d.spent.filter fun k => !(keys.contains k) }

/-! ### Control lanes (R317) -/

/-- Whether a ring neighbour can carry a die's control messages: it is not dark, the ring link's control lanes work
and so does its own hub link. -/
def State.neighbourPath (s : State) (n : Nat) : Bool :=
  let ok (k link : Nat) : Bool := (s.found k).state != .dark && !((s.linkDir link 0).off) && !((s.linkDir link 0).ctlLost) && !((s.linkDir link 1).ctlLost)
    && !((s.linkDir k 0).ctlLost) && !((s.linkDir k 1).ctlLost)
  ok ((n + 1) % 8) (8 + n) || ok ((n + 7) % 8) (8 + (n + 7) % 8)

/-- A die fenced at the start (R324): no event is posted and no tun stops, for none runs. -/
def State.fenceStart (s : State) (n cause : Nat) (dark : Bool) : State :=
  let s := s.setDie n { (s.die n).fenceAll dark with lost := true }
  let s := s.setFound n { s.found n with state := if dark then .dark else .computeFence, cause := cause }
  if dark then
    let s := (s.linkOff (8 + n)).linkOff (8 + (n + 7) % 8)
    s.setGroup (n / 2) { s.group (n / 2) with state := .exposed }
  else s

/-- A die whose control messages are routed round, and that has lost that path too, is dark: in a start by cause 8, and in service it is
lost (R317, R324, R405). -/
def State.checkControl (s : State) (n : Nat) : State :=
  if !((s.linkDir n 0).ctlLost || (s.linkDir n 1).ctlLost) || (s.die n).lost || s.neighbourPath n then s
  else if s.pwr.state = .starting then s.fenceStart n 8 true
  else s.loseDie n 8 true

/-- Every die's control path checked, and again for what a die gone dark takes with it. -/
def State.checkControls (s : State) : State := (List.range 16).foldl (fun (s : State) i => s.checkControl (i % 8)) s

/-- A die lost, and with it the control paths that led over it; during an emergency stop the loss is held, and so is what follows from it
(R317, R405, R409). -/
def State.dieGone (s : State) (n cause : Nat) (dark : Bool) : State :=
  let t := s.loseDie n cause dark
  if s.pwr.state = .stopped then t else t.checkControls

/-- Whether a copy of a control flit is good: 64 bytes, whose last two are the CRC-16 of the others (R317; where the CRC lies is DESIGN
CHOICE, log entry 143). -/
def ctlGood (copy : Bytes) : Bool := copy.length == 64 && (crc16 (copy.take 62)).toNat == Bytes.toNat (copy.drop 62)

/-- A control flit received in two copies: the first good one is taken. A copy lost is noted once; both lost on a hub link are routed
through a neighbour, or the die has no control path (R317, R405). -/
def State.controlFlit (s : State) (l dir : Nat) (a b : Bytes) : State :=
  let x := s.linkDir l dir
  let taken := if ctlGood a then a.take 62 else if ctlGood b then b.take 62 else x.ctlIn
  if ctlGood a && ctlGood b then s.setLinkDir l dir { x with ctlIn := taken }
  else if ctlGood a || ctlGood b then
    let s := s.setLinkDir l dir { x with ctlIn := taken, ctlDegraded := true }
    if x.ctlDegraded then s else s.deviceEvent 0x32 [l, dir]
  else
    let s := s.setLinkDir l dir { x with ctlDegraded := true, ctlLost := true, ctlRerouted := x.ctlRerouted || decide (l < 8) && s.neighbourPath l }
    s.checkControls

/-! ### Lane repair (R326 to R330) -/

/-- The lanes of a group found good: signal lanes, and whether a clock lane is. -/
def goodLanes (bad : BitVec 74) : Nat × Bool :=
  (((List.range 72).filter fun i => !(flag bad i)).length, !(flag bad 72) || !(flag bad 73))

/-- The LNK_REPAIR record of a lane (R330). -/
def lnkRecord (l dir g lane : Nat) (half retired : Bool) : BitVec 192 :=
  BitVec.ofNat 192 (l + dir * 2 ^ 4 + g * 2 ^ 5 + lane * 2 ^ 9 + (if half then 2 ^ 16 else 0) + (if retired then 2 ^ 17 else 0))

/-- A group set by its good lanes (R327). -/
def Group.setLanes (y : Group) (bad : BitVec 74) : Group :=
  let bad := y.bad ||| bad
  let g := goodLanes bad
  { y with bad := bad, half := decide (g.1 < 68), retired := decide (g.1 < 34) || !g.2, stopped := decide (g.1 < 34) || !g.2,
           replaying := false }

/-- The records of lanes found bad one after another, each with whether it put the group at half width, and whether it retired it
(R330). -/
def laneFlags (bad : BitVec 74) : List Nat → List (Nat × Bool × Bool)
  | [] => []
  | i :: is =>
    let b := bad ||| BitVec.ofNat 74 (2 ^ i)
    let gone (x : BitVec 74) : Bool := decide ((goodLanes x).1 < 34) || !(goodLanes x).2
    (i, decide (68 ≤ (goodLanes bad).1) && decide ((goodLanes b).1 < 68) && !(gone b), !(gone bad) && gone b) :: laneFlags b is

/-- Lanes found bad go to the repair log. -/
def State.logLanes (s : State) (l dir g : Nat) (bad : BitVec 74) (new : List Nat) : State :=
  (laneFlags bad new).foldl (fun (s : State) p => s.logRepair 0x12 (lnkRecord l dir g p.1 p.2.1 p.2.2)) s

/-- What too few working groups of a link lead to in service (R319, R329). -/
def State.linkShape (s : State) (l dir : Nat) : State :=
  let x := s.linkDir l dir
  let n := (x.working l).length
  if l < 8 ∧ n < 3 then s.loseDie l 7 false
  else if 8 ≤ l ∧ n < 2 then s.linkOff l
  else if l < 8 ∧ ((x.working l).filter fun g => x.role g == 2).length < 7 then s.deviceEvent 0x32 [l, dir]
  else s

/-- A lane test ends (R327 to R331): the lanes newly bad go to the repair log, the group is set and trained anew, and its pause, of 12.21 µs
at most and 0.26 µs more where a role waits for another group, is the interruption of a fault of class 2. A repair that ends during an
emergency stop holds its flits until the release. -/
def State.laneTested (s : State) (l dir g : Nat) (bad : BitVec 74) (ns : Nat) : State :=
  let x := s.linkDir l dir
  let y := x.group g
  if !y.stopped || y.retired || decide (linkGroups l ≤ g) then s
  else
    let z := y.setLanes bad
    let new := (List.range 74).filter fun i => flag bad i && !(flag y.bad i)
    let half := z.half && !y.half && !z.retired
    let ns := min ns (if z.retired then 12470 else 12210)
    let s := (s.logLanes l dir g y.bad new).draw
    let z := { z with trained := s.draws, waits := s.pwr.state == .stopped }
    let r := x.role g
    let x := { x.setGroup g z with
      repairs := x.repairs + 1, repairNs := x.repairNs + ns,
      halfEvents := if half then x.halfEvents + 1 else x.halfEvents,
      retiredCount := if z.retired then x.retiredCount + 1 else x.retiredCount,
      roles := if z.retired then x.roles.put g 3 else x.roles }
    let s := s.setLinkDir l dir (if z.retired then ({ x with due := some r } : LinkDir).settle l else x)
    let s := if half then s.deviceEvent 0x31 [l, dir, g] else s
    let s := s.fault 2 (l % 8) l ns
    if z.retired then (s.linkShape l dir).checkControls else s

/-! ### Discovery and identity (R320 to R322, R370) -/

/-- An index learnt by a die, which sends its neighbours their tokens, or checked against the one it has; the hub sends it a nonce
(R320, R370). -/
def State.learnIndex (s : State) (n h : Nat) (f : Found → Found) : State :=
  let x := s.found n
  match x.index with
  | some i =>
    let s := s.setFound n (f x)
    if i = h then s else s.fenceStart n 3 true
  | none =>
    let s := s.setFound n { f x with index := some h }
    let r := s.random
    let out := [(n, 0, (h + 1) % 8), (n, 1, (h + 7) % 8)]
    let s := { r.2 with links := { r.2.links with nonces := r.2.links.nonces.put n r.1, tokensSent := r.2.links.tokensSent ++ out } }
    if h = n then s else s.fenceStart n 3 true

/-- LNK_ID_SIG of an identity record under a die's key (R370). -/
def dieTag (n : Nat) (nonce : Bytes) (rec' : BitVec 512) : Bytes :=
  kmac256 (bytesOfNat 32 (Config.dieKey n).toNat) (nonce ++ bytesOfNat 16 rec'.toNat) 48
    [0x48, 0x38, 0x20, 0x64, 0x69, 0x65]

/-- An identity record at the hub manager (R321, R370): its bits for the tokens and the seed are what has reached the die. A type that is
reserved fails the check (DEDUCED). -/
def State.identity (s : State) (n : Nat) (rec' : BitVec 512) (nonce : Bytes) : State :=
  let x := s.found n
  let rec' := setField rec' 96 3 (bit x.cw + 2 * bit x.acw + 4 * bit x.seeded)
  let s := s.setFound n { x with record := rec', reported := true }
  let sent := (s.links.nonces.find n).getD nonce
  if field rec' 0 4 ≠ 1 ∨ field rec' 128 384 ≠ Bytes.toNat (dieTag n sent rec') then
    { s with sec := { s.sec with dieBindFail := s.sec.dieBindFail + 1 } }.fenceStart n 4 true
  else if field rec' 4 3 ≠ n then s.fenceStart n 3 true
  else s

end Sys2Proof.Machine
end

