-- ==== Sys2Proof/Machine/DomainOps.lean ====
section
/-! DEFINITION. Domains and their keepers (R25 to R27, R48, R395), and what a bushel starts (R52, R264, R289, R298). -/

namespace Sys2Proof.Machine

/-- Whether a die domain is one that keeps contents a resident tun has a share in: the memories of K21–K24, K30 and
K31 (R395). -/
def memoryDomain (k : Nat) : Bool := (decide (21 ≤ k) && decide (k ≤ 24)) || k == 30 || k == 31

/-- Whether any tun is resident on a die. -/
def Die.anyResident (d : Die) : Bool := d.ctxs.any fun p => p.2.resident

/-- How far a gating request may go (R395): in RUN a memory domain of a die with a resident tun, and K39 with one,
go no further than clock-gated. -/
def State.gateTo (s : State) (k : Nat) (power : Bool) : Bool :=
  power && !(k < 320 && (s.die (k / 40)).anyResident && (memoryDomain (k % 40) || k % 40 == 39) && s.pwr.state != .deepIdle)

/-- Whether a domain has an operation outstanding (R27), or is kept awake on a die shared with a sealed tun (R55). -/
def State.domainBusy (s : State) (k : Nat) : Bool :=
  if k < 320 then (s.die (k / 40)).busy (k % 40) || (s.keptOn (k / 40)).contains (k % 40) else s.hubBusy (k - 320)

/-- A steward's gating request at a keeper (R27): a fenced or held domain stays so; while a wake is under way, or an
operation is outstanding, the request is held; else it is carried out. -/
def State.gateRequest (s : State) (k : Nat) (power : Bool) : State :=
  let x := s.keeperAt k
  let to' := s.gateTo k power
  if x.fenced || x.stopHeld then s
  else if x.waking || s.domainBusy k then s.setKeeper k { x with gateReq := some (if to' then .power else .clock) }
  else s.setKeeper k (x.gate to')

/-- A waking domain reaches ON (R48, R395): a wake abandoned by a stop or a fence does not. -/
def State.wakeDone (s : State) (k : Nat) : State :=
  let x := s.keeperAt k
  if x.waking && !x.fenced && !x.stopHeld then (s.setKeeper k { x with waking := false, power := .on }).hubSettle else s

/-- A bushel begins (R52, R264, R288, R298): the clock's bushel and time, a staged plan, the spill of the bushel and the
slice plans of the dies. A bushel that is not after the present one has begun already. -/
def State.bushelStart (s : State) (n : Nat) : State :=
  let p := s.net.ptp
  if p.bushel ≠ 0 ∧ n ≤ p.bushel then s
  else
    let up := (s.nowPs - s.host.startedPs) / 1000
    let s := s.setPtp { p with bushel := n, began := s.nowPs, timeNs := if p.state = .free then p.timeNs else n * 1024000 - up }
    let s := (s.gaugeTurn n).rekey
    let s := { s with tuns := Tbl.mapVals (fun (t : Tun) => { t with rack := { t.rack with spill := [] } }) s.tuns }
    (List.range 8).foldl (fun s d => s.bushelOn d n) s

/-- The running slice of a die reaches its target (R54): its tun runs on to its next seal point; a tun that can issue
no more ends its slice here, with its debt as it is. -/
def State.targetReached (s : State) (n : Nat) : State :=
  let d := s.die n
  let x := d.slice
  match x.cur with
  | none => s
  | some u =>
    if x.switching || x.idle || x.suspended then s
    else
      let stop := max d.cycle x.target
      let s := s.setDie n { d with cycle := stop, slice := { x with reached := true } }
      if s.canRun n u then s
      else if s.sealedDie n then s.setSlice n { (s.die n).slice with idle := true }
      else s.nextSlice n stop

/-- The switch into a die's tun ends (R53): its 125 cycles are the incoming tun's. -/
def State.switchDone (s : State) (n : Nat) : State :=
  let d := s.die n
  let x := d.slice
  match x.cur with
  | none => s
  | some u =>
    if !x.switching then s
    else
      let c := d.ctx u
      let d := d.setCtx u { c with stall := { c.stall with switchCycles := c.stall.switchCycles + switchCycles } }
      s.setDie n { d with cycle := max d.cycle (x.start + switchCycles), slice := { x with switching := false } }

end Sys2Proof.Machine
end

