-- ==== Sys2Proof/Machine/LoadOps.lean ====
section
/-! DEFINITION. Loading a job (R73, R156, R158, R189, R194, R212, R223 to R228, R236, R238, R244, R254, R291, R323, R325,
R367, R374): its checks, and the contexts it creates. -/

namespace Sys2Proof.Machine

/-! ### Checks of the tables -/

/-- The key of a shard entry in the order of R227: tensor, replica index, first element. -/
def shKey (e : BitVec 256) : List Nat := [shTensor e, shReplica e, shFirst e]

/-- Whether the shard table is sorted (R227). Entries of a replicated tensor share a key. -/
def shardsSorted : List (BitVec 256) → Bool
  | a :: b :: l => !(dataSetLt (shKey b) (shKey a)) && shardsSorted (b :: l)
  | _ => true

/-- Whether pieces, in order, tile elements 0 to total with no gap and no overlap. -/
def tiles (total : Nat) : Nat → List (BitVec 256) → Bool
  | at', [] => at' == total
  | at', e :: l => shFirst e == at' && tiles total (at' + shCount e) l

/-- Whether a shard begins on a multiple of 64 elements, or of a row for an embedding tensor (R226). -/
def shardAligned (tt : BitVec 256) (e : BitVec 256) : Bool :=
  let m := if field tt 32 3 = 2 then max ((tensorDims tt).getLastD 64) 1 else 64
  shFirst e % m == 0

/-- Whether the pieces of one tensor keep the rules of R227 on a number of ranks. -/
def tensorShards (ranks : Nat) (tt : BitVec 256) (l : List (BitVec 256)) : Bool :=
  let total := (tensorDims tt).foldl (· * ·) 1
  if field tt 32 3 = 3 then
    (List.range ranks).all (fun r => (l.filter fun e => shRank e == r).length == 1)
      && l.all fun e => shReplica e == 0 && shFirst e == 0 && shCount e == total && decide (shRank e < ranks)
  else
    let reps := (l.map shReplica).eraseDups
    let piece (k : Nat) : List (BitVec 256) := l.filter fun e => shReplica e == k
    (List.range reps.length).all (fun k => reps.contains k)
      && reps.all (fun k => tiles total 0 (piece k) && (piece k).map shFirst == (piece 0).map shFirst)
      && l.all fun e => shardAligned tt e && decide (shRank e < ranks)

/-- The shard rules of R227 over a job. -/
def shardsOk (j : JobImage) : Bool :=
  shardsSorted j.shards
    && j.tensors.all (fun p => tensorShards j.cluster.length p.2 (j.shards.filter fun e => shTensor e == p.1))
    && j.shards.all fun e => (j.tensors.find (shTensor e)).isSome

/-- Whether a collective's formats are allowed (R228). -/
def collOk (e : BitVec 256) : Bool :=
  let red (c : Nat) : Bool := match Fmt.ofCode c with
    | some .fp32 | some .bf16 | some .fp16 => true
    | _ => false
  let upd (c : Nat) : Bool := match Fmt.ofCode c with
    | some .fp32 | some .bf16 => true
    | _ => false
  let f32 (c : Nat) : Bool := Fmt.ofCode c == some .fp32
  decide (colKind e ≤ 8) && decide (field e 14 2 < 2) && (Fmt.ofCode (colIn e)).isSome
    && (!(colReduces e) || red (colIn e)) && (!(colUpdates e) || upd (colOut e))
    && (colKind e != 8 || (f32 (colIn e) && f32 (colOut e)))
    && (colReduces e || colKind e == 8 || colIn e == colOut e) && decide (colDlvN e ≤ 8)

/-- The segments of some elements of a collective's results from element lo of its buffer to hi: in the row form those of all its rows
(R236, R237). -/
def shareSegs (t : Tun) (e : BitVec 256) (lo hi : Nat) : Nat :=
  let cols := t.rowWidth e
  if colSparse e then rowSegs cols (colOut e) (ceilDiv hi cols - ceilDiv lo cols) else ceilDiv (hi - lo) (segElems (colOut e))

/-- The segments of a bucket's share on a rank: its reduced elements in segments of COL_OUT_FMT, collective by collective, and the
reduced sums of its sketch (R236). -/
def bucketShare (t : Tun) (b r : Nat) : Nat :=
  (t.bucketColls b).foldl (fun x p =>
    let e := p.2
    if colKind e = 8 then (t.sketchRuns e).foldl (fun y q => if q.reducer = r then y + ceilDiv (q.cols + 1) 16384 else y) x
    else if !(colUpdates e) then x
    else
      let mine := (t.job.shards.filter fun h => shTensor h == colTensor e && shRank h == r && shReplica h == 0).foldl (fun y h =>
        let base := if colSparse e then 0 else colFirst e
        y + shareSegs t e (max (shFirst h) base - base) (min (shFirst h + shCount h - base) (colLen e))) 0
      let ranks := t.groupRanks (colGroup e)
      let blocks := max (ceilDiv (colLen e) 64) 1
      let cut (k : Nat) : Nat := min (colLen e) (64 * ceilDiv (k * blocks) (max ranks.length 1))
      let dealt := shareSegs t e (cut (memberOf ranks r)) (cut (memberOf ranks r + 1))
      x + (if colKind e = 1 then mine else if ranks.contains r then dealt else 0)) 0

/-- The buckets of a job. -/
def Tun.allBuckets (t : Tun) : List Nat := ((t.job.colls.filter fun p => colBucketed p.2).map fun p => colBucket p.2).eraseDups

/-- Whether every bucket with an M entry under AdamW has exactly one SKETCH collective (R238). -/
def sketchesOk (j : JobImage) (rank : Nat) (coefs : Tbl (BitVec 512)) : Bool :=
  (ownEntries j rank).all fun e =>
    !(utKind e == 0 && coRule (Tbl.get 0 coefs (utCoef e)) == 0)
      || (j.colls.filter fun c => colKind c.2 == 8 && colBucket c.2 == utBucket e).length == 1

/-- Whether the coefficient set of every entry names a rule (R194). -/
def coefsOk (j : JobImage) (rank : Nat) (coefs : Tbl (BitVec 512)) : Bool :=
  (ownEntries j rank).all fun e => decide (coRule (Tbl.get 0 coefs (utCoef e)) ≤ 2)

/-- Whether the update table entries keep R189 and R206. -/
def entriesOk (j : JobImage) (rank : Nat) : Bool :=
  (ownEntries j rank).all fun e =>
    !(utKind e == 2 && (utCols e % 64 != 0 || utCols e == 0)) && !(fmtOr (utWfmt e) == .int8 && utZp e) && decide (utKind e ≤ 4)

/-- Whether all collectives that feed one gravity group use groups of one size (R254). -/
def gravSizesOk (t : Tun) : Bool :=
  t.job.colls.all fun p => t.job.colls.all fun q =>
    !(colGravEn p.2 && colGravEn q.2 && colGrav p.2 == colGrav q.2)
      || (t.groupRanks (colGroup p.2)).length == (t.groupRanks (colGroup q.2)).length

/-- Whether a window stays in a tun's share in every bank it spans (R156). -/
def windowInside (sh : Share) (w : BitVec 128) : Bool :=
  if winLvl w = 0 then true
  else
    let bytes := winByte w + winBytes w
    let lines := ceilDiv (ceilDiv bytes 64) (max (winNBanks w) 1)
    let share := if winMem w = 0 then sh.spLines else sh.loftLines
    let banks := if winMem w = 0 then 64 else 32
    winNBanks w != 0 && decide (winBank0 w + winNBanks w ≤ banks) && decide (winLine w + lines ≤ share)

/-- Whether a feed-layout window holds the elements its extents name (R158). -/
def feedFits (w : BitVec 128) : Bool :=
  !(winFeed w) || decide (winExtMn w * winDepth w * ceilDiv (winExtK w) (winDepth w) ≤ winRows w * 1024)

/-! ### Refusals -/

/-- The reason a job is refused, in the order of the checks: the number, and what it names. -/
structure Refuse where
  reason : Nat
  args : List Nat := []
  /-- the die a shape event names -/
  shape : Option Nat := none
  deriving DecidableEq, Repr

/-- The first failing check of a list. -/
def firstRefusal : List (Bool × Refuse) → Option Refuse
  | [] => none
  | (bad, r) :: l => if bad then some r else firstRefusal l

/-- Whether any die of a tun holds another laid-out tun beside it. -/
def State.sharedDie (s : State) (u : Nat) : Bool := (s.diesOf u).any fun n => decide (2 ≤ (s.tunsOn n).length)

/-- The checks of a job's tables on this device, for a tun that would take it (R29, R73, R156, R158, R189, R194, R212, R223 to
R228, R236, R238, R244, R254, R255, R291, R323). Numbers are the model's own order (DESIGN CHOICE, log entry 41). -/
def State.jobRefusal (s : State) (u : Nat) (t : Tun) : Option Refuse :=
  let j := t.job
  let dies := s.diesOf u
  let sh := s.share u
  let fixed := tlSealed (s.lay u)
  let gdies := j.groups.flatMap fun p => (List.range 8).filter fun n => flag p.2 (64 + n)
  let badDie := gdies.find? fun n => (s.die n).lost || !(dies.contains n)
  let narrow := dies.find? fun n => (s.die n).arr.presented != (Tbl.get {} j.dies n).width
  firstRefusal
    [ (!j.sigOk, { reason := 3 }),
      (s.links.pkgFeature < j.feature, { reason := 5, args := [j.feature, s.links.pkgFeature] }),
      (narrow.isSome, { reason := 6, args := [narrow.getD 0, (s.die (narrow.getD 0)).arr.presented,
                                             (Tbl.get {} j.dies (narrow.getD 0)).width] }),
      (j.groups.any (fun p => field p.2 0 64 == 0 || field p.2 64 8 == 0), { reason := 7 }),
      ((List.range j.cluster.length).any (fun r => !(flag (Tbl.get 0 j.groups 0) r)), { reason := 8 }),
      (badDie.isSome, { reason := 9, args := [badDie.getD 0], shape := badDie }),
      (dies.any (fun n => (s.die n).lost), { reason := 10, shape := dies.find? fun n => (s.die n).lost }),
      (!(shardsOk j), { reason := 11 }),
      (j.colls.any (fun p => !(collOk p.2)), { reason := 12 }),
      (t.allBuckets.any (fun b => (List.range j.cluster.length).any fun r => decide (1024 < bucketShare t b r)), { reason := 13 }),
      (!(sketchesOk j t.rank t.coefs), { reason := 14 }),
      (!(coefsOk j t.rank t.coefs), { reason := 15 }),
      (!(entriesOk j t.rank), { reason := 16 }),
      (!(gravSizesOk t), { reason := 17 }),
      (!(limitsOk t.limits), { reason := 18 }),
      (!(gravityOk t.gravity), { reason := 19 }),
      (dies.any (fun n => (Tbl.get {} j.dies n).windows.any fun w => !(windowInside sh w.2)), { reason := 20 }),
      (dies.any (fun n => (Tbl.get {} j.dies n).windows.any fun w => !(feedFits w.2)), { reason := 21 }),
      (fixed && s.sharedDie u && !j.sealedBound, { reason := 22 }),
      (fixed && s.sharedDie u && j.colls.any (fun p => (colKind p.2 == 6 || colKind p.2 == 7)
          && (t.groupRanks (colGroup p.2)).contains t.rank && t.sender p.2 != t.rank),
        { reason := 23 }),
      (fixed && s.net.gauge.isNone, { reason := 24 }),
      (dies.any (fun n => decide (4194304 < (Tbl.get {} j.dies n).stream.length)), { reason := 27 }) ]

/-! ### Contexts -/

/-- The context a load creates on a die for the step its record names (R29, R33, R40, R43, R97). -/
def jobCtx (j : JobImage) (rank n : Nat) (r : StepRecord) : Ctx :=
  let d := Tbl.get ({} : DieJob) j.dies n
  { resident := true, stream := (List.range d.stream.length).zip d.stream, streamLen := d.stream.length,
    stepStart := d.stepStart, pc := d.stepStart, loopCounts := d.loopCounts, tokens := startTokens d, windows := d.windows,
    descs := d.descs, masks := d.masks, crossDie := d.crossDie, genKey := genKeyOf j n, genPos := r.t % 2 ^ 24 * 2 ^ 40,
    stepRec := r, sealRec := { next := d.stepStart }, upd := { table := jobEntries j rank n } }

/-- A tun's contexts created on its dies: the banks are ZERO, and nothing of an earlier stream is in the loop buffer (R33, R63). -/
def State.createCtxs (s : State) (u : Nat) : State :=
  let t := s.tun u
  (s.diesOf u).foldl (fun (s : State) n =>
    s.setDie n ((((s.die n).clearBanks u).freshStream u).setCtx u (jobCtx t.job t.rank n t.record))) s

/-- SEC_TMR after a load: cleared, then extended with the job image and the job key (R367). -/
def loadMeasure (j : JobImage) : Bytes :=
  extend (extend (List.replicate 64 0) j.digest) (sha3_512 j.jobKey)

/-- A tun as a load of a job leaves it at the hub: unkeyed, its counters cleared, its bung word that of step 0 (R185,
R222, R257, R282, R367, R374). The coefficient sets are the coefficient tap's, or, where it has given none, the image's. -/
def Tun.loadedWith (t : Tun) (j : JobImage) (rank : Nat) (nonce tmr : Bytes) : Tun :=
  { t.taps with
    loaded := true, job := j, rank := rank, limits := j.limits.getD ({} : Tun).limits, coefs := t.coefsNext.getD (if t.coefs.isEmpty then j.coefs else t.coefs), schedule := j.schedule,
    gravity := j.gravity, silent := j.silentLimit, bung := { step := 0, keg := 1, valid := true },
    step := { lsScale := if j.lossScaling then 0x47800000 else 0x3F800000 },
    rackTapNext := none, rackTap := t.rackTapNext.or t.rackTap, caskTapNext := none, caskTap := t.caskTapNext.or t.caskTap,
    granMapNext := none, granMap := t.granMapNext.getD t.granMap,
    rack := { chain := List.replicate 64 0 }, nonce := nonce, tmr := tmr }

/-- The rank of this device in a job: that whose certificate digest is the device's and whose tun is u (R223). -/
def State.rankIn (s : State) (u : Nat) (j : JobImage) : Option Nat :=
  (((List.range j.cluster.length).zip j.cluster).find? fun p => p.2.1 == u && p.2.2 == s.sec.certDigest).map Prod.fst

/-- A load refused: the events, and the status of its command (R344, R345). -/
def State.refuseLoad (s : State) (u : Nat) (r : Refuse) : State :=
  let s := if r.reason = 3 then s.sigFailed else s
  match r.shape with
  | some n => s.event u 0x23 [n, (s.found n).cause]
  | none => s.event u 0x22 (r.reason :: r.args)

/-- As the device's first tun loads and its rank is known, the plan in force is checked for the gaps of its own deltas; a plan refused
leaves the device with no gauge (R291, R306). -/
def State.checkPlan (s : State) (rank : Nat) : State :=
  match s.clusterRank, s.net.gauge with
  | none, some g =>
    match g.deltas.find? fun d => d.rank == rank && planGap g d with
    | some d => { s with net := { s.net with gauge := none } }.planRefused g 3 d.mac
    | none => s
  | _, _ => s

/-- A sealed tun that is loaded while the clock has no cluster time hears of it, where a gauged port carries its pecks (R297). -/
def State.tellLost (s : State) (u : Nat) : State := if s.clockLost && s.timedTuns.contains u then s.event u 0x1A else s

/-- LOAD JOB (R344): the refusal, or the tun loaded and unkeyed. A tun that the layout does not define, or that holds a
job, and a device that is not running, refuse it; so does a HUB_STOP_ALL at the same moment (R347, log entry 51). -/
def State.loadJob (s : State) (u : Nat) (j : JobImage) : State × Nat :=
  let old := s.tun u
  if s.pwr.state ≠ .run ∨ s.host.winState ≠ .running ∨ s.sec.tamper then (s.refuseLoad u { reason := 1 }, 1)
  else if s.host.stopAllAt = some s.nowPs then (s.refuseLoad u { reason := 29 }, 29)
  else if old.loaded ∨ !(tlEn (s.lay u)) then (s.refuseLoad u { reason := 2 }, 2)
  else
    match s.rankIn u j with
    | none => (s.refuseLoad u { reason := 4 }, 4)
    | some rank =>
      let s := s.checkPlan rank
      let r := s.random
      let t := old.loadedWith j rank r.1 (loadMeasure j)
      match s.jobRefusal u t with
      | some why => (s.refuseLoad u why, why.reason)
      | none => ((((r.2.setTun u t).createCtxs u).rekey).tellLost u, 0)

end Sys2Proof.Machine
end

