-- ==== Sys2Proof/Machine/CommitOps.lean ====
section
/-! DEFINITION. The update engine's arrivals and the hub's commit (R186 to R220, R249 to R252): staged segments, the vote's
result and timeout, the bung, digests, host commit words, and the re-sharding step. -/

namespace Sys2Proof.Machine

/-! ### Segments at the update engine (R190, R192) -/

/-- Whether a staged result is the segment an engine takes. -/
def Tun.isUpdate (t : Tun) (n : Nat) (g : GradSegment) (x : Seg) : Bool :=
  x.role == .update n && (let y := t.gradOf x; y.tensor == g.tensor && y.first == g.first && y.rows == g.rows)

/-- The first staged result that is a segment leaves its slot. -/
def Tun.dropUpdate (t : Tun) (n : Nat) (g : GradSegment) : Tun :=
  match t.segs.find? (t.isUpdate n g) with
  | some x => { t with segs := t.segs.erase x }
  | none => t

/-- A segment given to the engine: taken, it leaves hub staging; waiting, it stays there; a double arrival is a program
fault, and the segment is dropped (R192, R51). -/
def State.giveSegment (s : State) (n u : Nat) (g : GradSegment) : State :=
  match s.takeSegment n u ((s.tun u).lastsDue n g.tensor) g with
  | (s, .taken) =>
    let x := s.upd n u
    (s.setUpd n u { x with staged := x.staged.erase g }).setTun u ((s.tun u).dropUpdate n g)
  | (s, .waits) =>
    let x := s.upd n u
    s.setUpd n u { x with staged := if x.staged.contains g then x.staged else x.staged ++ [g] }
  | (s, .fault f) =>
    let x := s.upd n u
    ((s.setUpd n u { x with staged := x.staged.erase g, begun := x.begun.filter fun p => p.1 != g }).setTun u
      ((s.tun u).dropUpdate n g)).programFault n u f

/-- A segment arrives at a die: where hub staging holds a result of its tensor, range and rows, that is the segment. -/
def State.segmentArrives (s : State) (n u : Nat) (g : GradSegment) : State :=
  let t := s.tun u
  if s.pwr.state ≠ .run || !t.loaded || !(s.ctx n u).resident then s
  else
    let g := match t.segs.find? (t.isUpdate n g) with
      | some x => t.gradOf x
      | none => g
    if (s.upd n u).staged.contains g then s else s.giveSegment n u g

/-- The staged segments of a die offered to its engine: the first that need not wait proceeds; with none the first
waits on. -/
def State.resumeStaged (s : State) (n u : Nat) : State :=
  let x := s.upd n u
  if s.pwr.state ≠ .run then s
  else
    let ready := x.staged.find? fun g => (x.touched g).all fun p => (s.segWaits n u g p).isNone
    match ready.or x.staged.head? with
    | some g => s.giveSegment n u g
    | none => s

/-- The sums a returned sketch segment brings (R200, R238): those that stand in hub staging for the die, or, where the command brings
the other devices' parts, these added to this device's own once each of its pieces has been flushed. -/
def State.returnedSums (s : State) (n u : Nat) (e : BitVec 512) (others : List SketchPart) : Option (List Word32 × Word32) :=
  match (s.tun u).sketchSums n (utTensor e) (utBucket e) with
  | some x => some x
  | none =>
    if (s.sketchPieces u (utTensor e)).all fun q => (Tbl.get ({} : Factors) (s.upd q.1 u).factors q.2.1).flushed then s.localSums u e others
    else none

/-- The sums of a tensor released once every entry of it on the die has folded. -/
def State.releaseSums (s : State) (n u : Nat) (e : BitVec 512) : State :=
  if (s.sketchPieces u (utTensor e)).all fun q => q.1 != n || (Tbl.get ({} : Factors) (s.upd n u).factors q.2.1).folded then
    s.setTun u ((s.tun u).dropSketch n (utTensor e) (utBucket e))
  else s

/-- A returned sketch segment (R200): the entry folds once the sums of every piece of its tensor are here; a held coder is waited for
(R264), and so is the granule of a lost unit that its slot lies in (R172). -/
def State.sketchReturns (s : State) (n u entry : Nat) (others : List SketchPart) : State :=
  let x := s.upd n u
  let e := Tbl.get 0 x.table entry
  let f := Tbl.get ({} : Factors) x.factors entry
  if s.pwr.state ≠ .run || (x.table.find entry).isNone || !(utFactored (s.tun u).coefs e) || !f.flushed || f.folded then s
  else
    match s.returnedSums n u e others with
    | none => s
    | some sums =>
      if !(s.coderFree n u 65472) then s.noteSegWait n u 3
      else
        let held := s.heldWrite u n (s.slotAddr u e) (slotLen e)
        if held.isEmpty then (s.foldSketch n u entry sums).releaseSums n u e else s.holdWrite n u held

/-! ### The vote (R208, R239) -/

/-- A device's vote given once its conditions hold. -/
def State.voteGives (s : State) (u : Nat) : State :=
  let t := s.tun u
  if t.loaded && !t.stopped && s.pwr.state == .run && t.step.given.isNone && s.voteReady u then s.giveVote u else s

/-- A vote segment at member 0. -/
def State.voteIn (s : State) (u src : Nat) (v : VoteData) : State :=
  let t := s.tun u
  if t.loaded && t.rank == 0 && src != 0 && decide (src < t.job.cluster.length) && v.step == t.stepNow && t.step.result.isNone
  then s.setTun u (t.takeVote src v) else s

/-- The delivered result of a vote: at member 0 the one it has formed, elsewhere the one that comes. -/
def State.voteOut (s : State) (u : Nat) (v : VoteData) : State :=
  let t := s.tun u
  if !t.loaded || t.stopped || t.step.given.isNone || t.step.outcome == some .clean then s
  else if t.rank = 0 then
    match t.step.result with
    | some r => s.voteDelivered u r
    | none => s
  else if v.step = t.stepNow then s.voteDelivered u v else s

/-- The vote timeout: no result within UPD_VOTE_TIMEOUT of giving the vote. A device alone in group 0 has its result. In a re-sharding
step it does not run while other ranks may wait for records of a rank that has failed, and where only such ranks' votes are missing
the result is that of the others (R252, R256). -/
def State.voteLate (s : State) (u : Nat) : State :=
  let t := s.tun u
  if !t.loaded || t.stopped || t.step.given.isNone || t.step.outcome == some .clean || t.alone then s
  else if t.votesLeft then if t.step.result.isNone then s.setTun u t.formResult else s
  else if t.voteWaits then s
  else
    let s := { s with nowPs := max s.nowPs (t.step.givenAt + t.voteTimeoutMs * 10 ^ 9) }
    let s := s.setTun u { t with commit := { t.commit with voteTimeouts := t.commit.voteTimeouts + 1 } }
    (s.stopTun u).event u 0x12 [t.stepNow]

/-! ### The bung (R2, R186) -/

/-- The bung of a step whose vote is delivered clean: driven when racking of the step before stands, and the digests of its step that
have come are compared; else the wait is a racking stall, with one racking-lag event. -/
def State.bungDue (s : State) (u : Nat) : State :=
  let t := s.tun u
  if !t.loaded || t.stopped || s.pwr.state != .run || t.step.given.isNone || t.step.outcome != some .clean then s
  else if t.stands (t.stepNow - 1) then (s.driveBung u).compareDigests u
  else s.startLag u

/-- A die after the step outcome (R187, R210): the die holds for it at its step-start slice; a spoiled outcome waits for
what the tun launched. With the last die told, the hub's credits are whole after a spoiled step. -/
def State.tellDie (s : State) (n u : Nat) : State :=
  let t := s.tun u
  let c := s.ctx n u
  if !(t.step.toTell.contains n) || !(c.hold || t.reshard != .no) || s.pwr.state != .run then s
  else
    match t.step.outcome with
    | some (.spoiled _) =>
      if s.outstanding n u then s
      else
        let s := s.outcomeSpoiled n u
        let t := s.tun u
        let rest := t.step.toTell.filter (· != n)
        let t := { t with step := { t.step with toTell := rest } }
        s.setTun u (if rest.isEmpty then { t.fullCredits with loopNext := [] } else t)
    | _ =>
      let s := s.outcomeClean n u
      let t := s.tun u
      let rest := t.step.toTell.filter (· != n)
      let t := { t with step := { t.step with toTell := rest }, loopNext := if rest.isEmpty then [] else t.loopNext }
      s.setTun u t

/-! ### Replica digests (R220) -/

/-- A replica member's digest of a step taken (R220): compared where the step is that of this device's bung, kept for the bung where
that is still to come. -/
def State.digestIn (s : State) (u src step : Nat) (d : Bytes) : State :=
  let t := s.tun u
  if !t.loaded || src == t.rank || decide (t.job.cluster.length ≤ src) then s
  else if t.bung.valid && decide (step ≤ t.bung.step) then
    if step = t.bung.step ∧ !(t.digests.isEmpty) then (s.setTun u { t with digests := t.digests.put src d }).compareDigests u else s
  else s.setTun u { t with digestsAhead := t.digestsAhead.put src (step, d) }

/-! ### Host commit words (R216, R217) -/

/-- The granary debt after a host commit word, in ns. -/
def granaryDebt (f a w debt : Nat) : Nat :=
  let target := max f (f + w - debt)
  debt - ((f + w) - target) + (a - target)

/-- A host commit word consumed: one of another step is ignored, and so is one after the timeout. -/
def State.commitWord (s : State) (u : Nat) (w : BitVec 256) : State :=
  let t := s.tun u
  if !t.loaded || field w 0 48 != t.stepNow || t.step.hostWord.isSome then s
  else
    let ok := field w 128 128 == Bytes.toNat (kmac256 t.exchangeKey (bytesOfNat 16 w.toNat) 16)
    let debt := match t.step.forwarded with
      | some f => granaryDebt (f / 1000) (s.nowPs / 1000) t.granaryWindowNs t.commit.granaryDebt
      | none => t.commit.granaryDebt
    let t := { t with
      step := { t.step with hostWord := some (!ok || flag w 48),
                            state := if t.step.state = .awaitingHost then .awaitingDies else t.step.state },
      commit := { t.commit with granaryDebt := debt, granaryTagFail := if ok then t.commit.granaryTagFail else t.commit.granaryTagFail + 1 } }
    let s := s.setTun u t
    if t.granaryWindowNs < debt then s.event u 0x18 [debt] else s

/-- No host commit word within UPD_GRANARY_TIMEOUT of the last forward: the device votes spoiled. -/
def State.granaryLate (s : State) (u : Nat) : State :=
  let t := s.tun u
  match t.step.forwarded, t.step.hostWord with
  | some f, none =>
    let s := { s with nowPs := max s.nowPs (f + t.granaryTimeoutMs * 10 ^ 9) }
    let st := { t.step with hostWord := some true, state := if t.step.state = .awaitingHost then .awaitingDies else t.step.state }
    (s.setTun u { t with step := st }).event u 0x19 [t.stepNow]
  | _, _ => s

/-! ### The re-sharding step (R250) -/

/-- Whether no die of a tun has passed the step start: each waits for the step outcome, or stands at its step-start slice with
nothing of the step issued. -/
def State.atStepStart (s : State) (u : Nat) : Bool :=
  (s.diesOf u).all fun n =>
    let c := s.ctx n u
    (s.tun u).step.toTell.contains n || (c.pc == c.stepStart && c.rep == 0 && !c.hold && !c.closed)

/-- The rank in the cluster in force of a rank of the new cluster table (R249). -/
def oldRank (pkg : LayoutPackage) (r : Nat) : Option Nat := (pkg.rankMap.find? fun p => p.2 == r).map Prod.fst

/-- The records this device holds for the other ranks' new pieces (R250); a rank that is new to the cluster restores them. -/
def State.movePerms (s : State) (u : Nat) (j : JobImage) (pkg : LayoutPackage) : List Perm :=
  (List.range j.cluster.length).flatMap fun r =>
    match oldRank pkg r with
    | none => []
    | some old =>
      if old = (s.tun u).rank then []
      else (List.range 8).flatMap fun die => (heldRuns (s.streamChunks u old j r die)).map fun (x : Nat × Bytes) => { rank := old, die := die, at' := x.1, data := x.2 }

/-- The re-sharding step's own records on a die: what this device holds is written at its new places, the rest is due. -/
def State.moveOwn (s : State) (u rank : Nat) (j : JobImage) (n : Nat) : State :=
  let cs := s.streamChunks u (s.tun u).rank j rank n
  let s := (heldRuns cs).foldl (fun (s : State) x => s.putRecords u n ((s.tun u).reshardWrites j rank n x.1 x.2)) s
  let t := s.tun u
  s.setTun u { t with permDue := t.permDue ++ (cs.filter fun c => c.2.2.isNone).map fun c => (n, c.1, c.1 + c.2.1) }

/-- The units of lost interfaces that the re-sharding step's own writes wait for (R172). -/
def State.reshardHeld (s : State) (u rank : Nat) (j : JobImage) (dies : List Nat) : List (Nat × Loc) :=
  dies.flatMap fun n => (heldRuns (s.streamChunks u (s.tun u).rank j rank n)).flatMap fun x =>
    (s.permHeld u n ((s.tun u).reshardWrites j rank n x.1 x.2)).map fun l => (n, l)

/-- The re-sharding step runs (R250): every new piece of this device is written under the new layout, and what others need is
sent. -/
def State.reshardMove (s : State) (u : Nat) (pkg : LayoutPackage) : State :=
  let t := s.tun u
  let rank := (pkg.rankMap.find t.rank).getD 64
  let j := relaidJob t.job pkg
  let dies := (s.setLay u (t.layUnder pkg)).diesOf u
  match s.reshardHeld u rank j dies with
  | q :: qs => dies.foldl (fun (s : State) n =>
      let ls := ((q :: qs).filter fun x => x.1 == n).map Prod.snd
      if ls.isEmpty then s else s.holdWrite n u ls) s
  | [] =>
    let ps := s.movePerms u j pkg
    let s := s.setTun u { t with permDue := [] }
    let s := dies.foldl (fun s n => s.moveOwn u rank j n) s
    let t := s.tun u
    (s.setTun u { t.stagePerms ps with reshard := .moved }).fillStripes u

/-- The re-sharding step (R249, R250): that the hub is told to run it is the report of every old rank, so the step-start slice of
the step that follows the bung is held from then on, where a package is staged, no repair of a digest is under way (R256) and no
die has begun the step (log entry 69); it moves once every die has had the last step's outcome. A package whose ranges meet the old
ones after the bung that has come is refused here, as it is at its staging for the bung it was staged under (R249). -/
def State.reshardStep (s : State) (u : Nat) : State :=
  let t := s.tun u
  match t.package with
  | none => s
  | some pkg =>
    if t.reshard = .moved || t.stopped || s.pwr.state != .run || t.step.given.isSome || !(t.digestBad.isEmpty)
        || (t.reshard = .no && !(s.atStepStart u)) then s
    else if t.reshard = .no && s.packageMeets u t.bung.step pkg then
      (s.setTun u { t with package := none }).refuseLoad u { reason := 25 }
    else
      let s := s.setTun u { t with reshard := .held }
      if t.step.toTell.isEmpty then s.reshardMove u pkg else s

end Sys2Proof.Machine
end

