-- ==== Sys2Proof/Machine/Commit.lean ====
section
/-! DEFINITION. The commands of the update engine and of the hub's commit (R186 to R220, R238, R239, R250). -/

namespace Sys2Proof.Machine

/-- The payload of a step outcome: its step, attempt, outcome and cause (R315; how they lie is DESIGN CHOICE, log entry 143). -/
def outcomePayload (t : Tun) : Bytes :=
  let o : Nat × Nat := match t.step.outcome with
    | some (.spoiled nf) => (1, if nf then 1 else 0)
    | _ => (0, 0)
  bytesOfNat 6 t.stepNow ++ bytesOfNat 2 t.step.attempt ++ bytesOfNat 1 o.1 ++ bytesOfNat 1 o.2

/-- STEP_OUTCOME (R187, R210, R315): the commit unit's flit to a die, over its hub link. -/
def execStepOutcome (d : DieId) (u : TunId) (g : Fin 16) (framing : BitVec 64) (s : State) : Host.Outcome State Fault Refusal :=
  let r := s.takeFlit d.val 1 g.val 9 framing (outcomePayload (s.tun u.val))
  .next (if r.2 && flDst framing == d.val && flTun framing == u.val then r.1.tellDie d.val u.val else r.1)

/-- SEGMENT_ARRIVAL (R190). -/
def execSegmentArrival (d : DieId) (u : TunId) (seg : GradSegment) (s : State) : Host.Outcome State Fault Refusal :=
  .next (s.segmentArrives d.val u.val seg).hubSettle

/-- STAGED_SEGMENT_RESUME (R192). -/
def execStagedSegmentResume (d : DieId) (u : TunId) (s : State) : Host.Outcome State Fault Refusal :=
  .next (s.resumeStaged d.val u.val).hubSettle

/-- BLOCK_WRITE_ACK (R190): while the device is stopped no write completes. -/
def execBlockWriteAck (d : DieId) (u : TunId) (entry : Fin 16384) (block : Nat) (s : State) : Host.Outcome State Fault Refusal :=
  .next (if s.pwr.state = .run then s.blockAcked d.val u.val entry.val block else s)

/-- SKETCH_SEGMENT_RETURN (R200, R238). -/
def execSketchSegmentReturn (d : DieId) (u : TunId) (entry : Fin 16384) (others : List SketchPart) (s : State) :
    Host.Outcome State Fault Refusal := .next (s.sketchReturns d.val u.val entry.val others)

/-- VOTE_GIVE (R207, R208). -/
def execVoteGive (u : TunId) (s : State) : Host.Outcome State Fault Refusal := .next (s.voteGives u.val)

/-- VOTE (R239, R301). -/
def execVote (m : MacId) (u : TunId) (src : Fin 64) (v : VoteData) (s : State) : Host.Outcome State Fault Refusal :=
  .next (s.received m.val u.val 520 src.val fun s => s.voteIn u.val src.val v)

/-- VOTE_RESULT (R208 to R213, R254, R301): it comes from member 0 over a MAC; at member 0 it is its own. -/
def execVoteResult (m : Option MacId) (u : TunId) (v : VoteData) (s : State) : Host.Outcome State Fault Refusal :=
  .next (match m with
    | none => if (s.tun u.val).rank = 0 then s.voteOut u.val v else s
    | some m => s.received m.val u.val 520 0 fun s => s.voteOut u.val v)

/-- VOTE_TIMEOUT (R208). -/
def execVoteTimeout (u : TunId) (s : State) : Host.Outcome State Fault Refusal := .next (s.voteLate u.val)

/-- BUNG_DRIVE (R185, R186). -/
def execBungDrive (u : TunId) (s : State) : Host.Outcome State Fault Refusal := .next (s.bungDue u.val)

/-- DIGEST_EXCHANGE (R220, R301). -/
def execDigestExchange (m : MacId) (u : TunId) (src : Fin 64) (step : Nat) (digest : Bytes) (s : State) :
    Host.Outcome State Fault Refusal :=
  .next (s.received m.val u.val (1 + digest.length) src.val fun s => s.digestIn u.val src.val step digest)

/-- HOST_COMMIT_WORD (R216, R217). -/
def execHostCommitWord (u : TunId) (word : BitVec 256) (s : State) : Host.Outcome State Fault Refusal :=
  .next (s.commitWord u.val word)

/-- GRANARY_TIMEOUT (R217). -/
def execGranaryTimeout (u : TunId) (s : State) : Host.Outcome State Fault Refusal := .next (s.granaryLate u.val)

/-- RESHARD_STEP (R250). -/
def execReshardStep (u : TunId) (s : State) : Host.Outcome State Fault Refusal := .next (s.reshardStep u.val)

end Sys2Proof.Machine
end

