-- ==== Sys2Proof/Machine/Domains.lean ====
section
/-! DEFINITION. The commands of domains, fault reports and time slices (R26 to R28, R48, R52 to R55). -/

namespace Sys2Proof.Machine

/-- DOMAIN_WAKE_DONE (R48): a waking domain reaches ON. -/
def execDomainWakeDone (k : KeeperId) (s : State) : Host.Outcome State Fault Refusal := .next (s.wakeDone k.val)

/-- DOMAIN_GATE_REQUEST (R27, R395). -/
def execDomainGateRequest (k : KeeperId) (power : Bool) (s : State) : Host.Outcome State Fault Refusal :=
  .next (s.gateRequest k.val power)

/-- FAULT_REPORT (R28, R404): owners 0 to 7 are the die stewards, 8 is the hub manager. With a die the control paths over it are
lost (R317). -/
def execFaultReport (owner : Fin 9) (unit : Fin 256) (cls : Fin 14) (u : Option TunId) (s : State) :
    Host.Outcome State Fault Refusal :=
  let t := s.report owner.val unit.val cls.val (u.map Fin.val)
  .next (if cls.val = 11 ∧ s.pwr.state ≠ .stopped then t.checkControls else t)

/-- BUSHEL_START (R52). -/
def execBushelStart (n : Nat) (s : State) : Host.Outcome State Fault Refusal := .next (s.bushelStart n).hubSettle

/-- SLICE_TARGET_REACHED (R54). -/
def execSliceTargetReached (d : DieId) (s : State) : Host.Outcome State Fault Refusal := .next (s.targetReached d.val)

/-- SWITCH_DONE (R53). -/
def execSwitchDone (d : DieId) (s : State) : Host.Outcome State Fault Refusal := .next (s.switchDone d.val)

/-- SEALED_NOMINAL_END (R55). -/
def execSealedNominalEnd (d : DieId) (s : State) : Host.Outcome State Fault Refusal := .next (s.sealedEnd d.val)

end Sys2Proof.Machine
end

