-- ==== Sys2Proof/Machine/Ethernet.lean ====
section
/-! DEFINITION. The commands of the Ethernet ports, the clock and the gauge (R283 to R298, R305 to R311). -/

namespace Sys2Proof.Machine

/-- RX_FRAME_DISCARD (R285, R286): in deep idle frames are discarded uncounted (R308). -/
def execRxFrameDiscard (m : MacId) (frame : Bytes) (fcsOk : Bool) (s : State) : Host.Outcome State Fault Refusal :=
  .next (if s.macUp m.val then s.discardFrame m.val frame fcsOk else s)

/-- Whether a frame of a tun on a MAC is faulty in this way: one whose SCI and association number are known is not. -/
def State.secFaulty (s : State) (m u : Nat) : SecFault → Bool
  | .sa sci an => !(s.saKnown m u sci an)
  | _ => true

/-- MACSEC_FRAME_DISCARD (R305): a faulty frame of a tun whose job enables MACsec is accepted by its MAC, counted by
what is wrong with it, and dropped. -/
def execMacsecFrameDiscard (m : MacId) (u : TunId) (why : SecFault) (len : Nat) (s : State) : Host.Outcome State Fault Refusal :=
  let i := match why with
    | .icv => 28
    | .replay => 29
    | .sa _ _ => 30
    | .untagged => 31
  let t := s.tun u.val
  .next (if s.macUp m.val && t.loaded && t.job.macsec && s.secFaulty m.val u.val why then s.rxFrame m.val len false [i] else s)

/-- PAUSE (R287): every priority of the MAC stops for the quanta; 0 ends the pause. -/
def execPause (m : MacId) (quanta : BitVec 16) (s : State) : Host.Outcome State Fault Refusal :=
  .next (if s.macUp m.val then
    (s.rxFrame m.val 64 true [19]).paused m.val ((List.range 8).map fun p => (p, quanta.toNat))
    else s)

/-- PFC (R287): the priorities named. -/
def execPfc (m : MacId) (quanta : Tbl (BitVec 16)) (s : State) : Host.Outcome State Fault Refusal :=
  .next (if s.macUp m.val then
    (s.rxFrame m.val 64 true [20]).paused m.val ((quanta.filter fun q => decide (q.1 < 8)).map fun q => (q.1, q.2.toNat))
    else s)

/-- PAUSE_EXPIRY (R287): the earliest pause of the MAC runs out. -/
def execPauseExpiry (m : MacId) (s : State) : Host.Outcome State Fault Refusal :=
  .next (match (s.mac m.val).paused with
    | [] => s
    | p :: ps =>
      let due := ps.foldl (fun x q => min x q.2) p.2
      let s := { s with nowPs := max s.nowPs due }
      (s.setPauses m.val (s.mac m.val).paused).flushCtl m.val)

/-- Whether a MAC hears PTP: it is one of the PTP ports, and frames reach it (R288). -/
def State.hearsPtp (s : State) (m : Nat) : Bool := s.macUp m && s.ptpPorts.contains m

/-- A PTP message of a domain received on a MAC, counted, and what it does to the device where the domain is the device's (R288). -/
def State.ptpIn (s : State) (m len : Nat) (dom : BitVec 8) (is : List Nat) (act : State → State) : State :=
  if !(s.hearsPtp m) then s
  else
    let s := s.rxFrame m len true (21 :: is)
    if dom.toNat = s.net.ptpDomain then act s else s

/-- The clock changes; where it loses cluster time, the time-lost event goes to the sealed tuns held by that (R297). -/
def State.clockTo (s : State) (p : Ptp) : State :=
  let t := s.setPtp p
  if !(s.clockLost) && t.clockLost then t.timedTuns.foldl (fun (s : State) u => s.event u 0x1A) t else t

/-- PTP_SYNC (R288, R289): a one-step Sync carries its offset; a two-step Sync waits for its Follow_Up. The device asks for its path delay
in answer (when is DESIGN CHOICE, log entry 137). -/
def execPtpSync (m : MacId) (dom : BitVec 8) (twoStep : Bool) (offset : Int) (s : State) : Host.Outcome State Fault Refusal :=
  .next (s.ptpIn m.val 64 dom [55] fun s =>
    let p := s.net.ptp
    if p.best.isNone || p.port != m.val then s
    else (s.clockTo (if twoStep then { p with awaitFollow := true } else p.servo s.nowPs offset)).sendPtp m.val 64)

/-- PTP_FOLLOW_UP (R288). -/
def execPtpFollowUp (m : MacId) (dom : BitVec 8) (offset : Int) (s : State) : Host.Outcome State Fault Refusal :=
  .next (s.ptpIn m.val 64 dom [] fun s =>
    let p := s.net.ptp
    if p.awaitFollow && p.port == m.val then s.clockTo (p.servo s.nowPs offset) else s)

/-- PTP_ANNOUNCE (R288, R289): the best master clock algorithm over the data sets received and the device's own. -/
def execPtpAnnounce (m : MacId) (dom : BitVec 8) (prio1 cls accuracy variance prio2 : Nat) (identity : BitVec 64) (steps : Nat) (s : State) :
    Host.Outcome State Fault Refusal :=
  .next (s.ptpIn m.val 82 dom [] fun s =>
    s.clockTo (s.net.ptp.announce s.net.ptpOwn m.val [prio1, cls, accuracy, variance, prio2, identity.toNat, steps]))

/-- PTP_DELAY_RESPONSE (R288, R290): the mean path delay of the delay request-response mechanism. -/
def execPtpDelayResponse (m : MacId) (dom : BitVec 8) (delay : Nat) (s : State) : Host.Outcome State Fault Refusal :=
  .next (s.ptpIn m.val 72 dom [] fun s =>
    let p := s.net.ptp
    if p.port = m.val then s.setPtp { p with delay := delay } else s)

/-- PTP_PEER_DELAY (R288, R290): the mean path delay of the peer-to-peer mechanism. -/
def execPtpPeerDelay (m : MacId) (dom : BitVec 8) (delay : Nat) (s : State) : Host.Outcome State Fault Refusal :=
  .next (s.ptpIn m.val 72 dom [] fun s =>
    let p := s.net.ptp
    if p.port = m.val then s.setPtp { p with delay := delay } else s)

/-- PTP_SYNC_LOSS (R289): no Sync for 8 intervals takes a LOCKED clock to HOLDOVER; in any state it breaks the run of good intervals. -/
def execPtpSyncLoss (s : State) : Host.Outcome State Fault Refusal :=
  let p := s.net.ptp
  .next (s.setPtp (if p.state = .locked then { p with state := .holdover, since := s.nowPs, good := 0 } else { p with good := 0 }))

/-- HOLDOVER_EXPIRY (R289, R297): the clock becomes FREE, and every sealed tun with a peck on a gauged port hears of
it. -/
def execHoldoverExpiry (s : State) : Host.Outcome State Fault Refusal :=
  let p := s.net.ptp
  if p.state = .holdover then
    let s := { s with nowPs := max s.nowPs (p.since + p.holdoverMs * 10 ^ 9) }
    .next (s.clockTo { p with state := .free, best := none, good := 0, bad := 0 })
  else .next s

/-- LLDP_RECEIVE (R284). -/
def execLldpReceive (m : MacId) (chassis port : Bytes) (s : State) : Host.Outcome State Fault Refusal :=
  .next (if s.macUp m.val then
    let s := s.rxFrame m.val (max 64 (30 + chassis.length + port.length)) true [22]
    s.setMac m.val { s.mac m.val with neighbour := (chassis, port) }
    else s)

/-- LLDP_TRANSMIT (R284): once per second per port. -/
def execLldpTransmit (m : MacId) (s : State) : Host.Outcome State Fault Refusal :=
  .next (if s.macUp m.val && s.pwr.state == .run then s.sendLldp m.val else s)

/-- PECK_START (R292 to R294). -/
def execPeckStart (m : MacId) (i : Fin 256) (s : State) : Host.Outcome State Fault Refusal := .next (s.peckStart m.val i.val)

/-- PECK_LAST_FRAME_END (R294). -/
def execPeckLastFrameEnd (m : MacId) (s : State) : Host.Outcome State Fault Refusal := .next (s.peckEnd m.val).hubSettle

/-- SEALED_CONTROL_FRAME (R295, R297): one 640-byte frame every 16 µs, with what waits and has room in it; a pause or a realignment holds
it. -/
def execSealedControlFrame (m : MacId) (u : TunId) (s : State) : Host.Outcome State Fault Refusal :=
  let x := s.mac m.val
  .next (if (s.tun u.val).loaded && tlSealed (s.lay u.val) && s.canSend m.val && s.usesMac m.val u.val && !(s.timeLost m.val) then
    let now := max s.nowPs (Tbl.get 0 x.controlDue u.val)
    let s := { s with nowPs := now }
    if s.txHeld m.val s.ctlPriority then s
    else (s.setMac m.val { x with controlDue := x.controlDue.put u.val (now + 16000000) }).sealedFrame m.val u.val
  else s)

/-- PORT_FAILURE (R306). -/
def execPortFailure (m : MacId) (why : PortFault) (s : State) : Host.Outcome State Fault Refusal :=
  .next (s.portFails m.val why).hubSettle

/-- FAILOVER_DELTA_APPLY (R306). -/
def execFailoverDeltaApply (rank : Fin 64) (m : MacId) (s : State) : Host.Outcome State Fault Refusal :=
  .next (s.applyDelta rank.val m.val)

/-- SHED_STRETCH_START (R307): an idle stretch begins at a unit of the bushel that follows a peck, or with no peck on the link; a
width-change message tells the far end. -/
def execShedStretchStart (m : MacId) (unit : Fin 256) (s : State) : Host.Outcome State Fault Refusal :=
  let us := s.stretchUs m.val unit.val
  let starts := us == 1024 || s.unitBusy m.val ((unit.val + 255) % 256)
  let lanes := shedLanes (s.port m.val) us
  .next (if s.macUp m.val && decide (us ≠ 0) && starts && decide (lanes < (s.mac m.val).lanes) && portShed (s.port m.val)
      && (s.mac m.val).helloOk && (s.mac m.val).peck.isNone then
    let s := { s with nowPs := max s.nowPs (s.net.ptp.began + 4000000 * unit.val) }
    let s := match s.carrier with
      | some u => s.txControl m.val u (.widthChange lanes)
      | none => s
    s.setWidth m.val lanes s.nowPs
  else s)

/-- LANE_WAKE (R307): shed lanes wake before the next peck; after 20 µs the link realigns. -/
def execLaneWake (m : MacId) (s : State) : Host.Outcome State Fault Refusal :=
  .next (s.setWidth m.val (portLanes (s.port m.val)) (s.nowPs + 20000000))

/-- WIDTH_CHANGE (R301, R307): the far end's width-change message. -/
def execWidthChange (m : MacId) (lanes : Fin 9) (s : State) : Host.Outcome State Fault Refusal :=
  .next (if s.macUp m.val then
    let s := s.rxFrame m.val 64 false [23]
    s.setWidth m.val lanes.val s.nowPs else s)

/-- WAKE_PATTERN_MATCH (R308, R397): in deep idle, a match on a port that keeps watch wakes the device. -/
def execWakePatternMatch (m : MacId) (frame : Bytes) (s : State) : Host.Outcome State Fault Refusal :=
  .next (if s.pwr.state == .deepIdle && s.wakeGroups.contains (m.val / 4) && s.macExists m.val && (s.mac m.val).link == .up
      && s.net.wakes.any (fun w => wakeMatches w.2 (m.val / 4) frame) then
    (s.countMac m.val 54 1).leaveDeepIdle else s)

/-- MAC_HALF_CLEAR (R311): a one written clears its flag. -/
def execMacHalfClear (m : MacId) (w : BitVec 56) (s : State) : Host.Outcome State Fault Refusal :=
  let x := s.mac m.val
  .next (s.setMac m.val { x with half := x.half &&& ~~~w })

/-- PORT_LINK_UP (R311, R397): a port that was down or training is up at a width. -/
def execPortLinkUp (m : MacId) (lanes : Fin 9) (s : State) : Host.Outcome State Fault Refusal :=
  let x := s.mac m.val
  .next (if s.macExists m.val && (x.link == .down || x.link == .training) && s.pwr.state != .off && s.pwr.state != .deepIdle then
    s.setMac m.val { x with link := .up, lanes := lanes.val, shed := false } else s)

/-- GAUGE_TAP (R291, R298): a plan is checked and waits for its bushel, or is refused. -/
def execGaugeTap (plan : GaugePlan) (s : State) : Host.Outcome State Fault Refusal :=
  .next (match planRefusal plan s.clusterRank s.net.ptp.bushel false with
    | some r => s.planRefused plan r.1 r.2
    | none => { s with net := { s.net with gaugeNext := some plan } })

/-- BMC_WRITE_HOLDOVER (R290): 0 to 10,000 ms; a larger value is out of the register's range and is not written. -/
def execBmcWriteHoldover (ms : BitVec 16) (s : State) : Host.Outcome State Fault Refusal :=
  .next (if s.serviced && decide (ms.toNat ≤ 10000) then s.setPtp { s.net.ptp with holdoverMs := ms.toNat } else s)

end Sys2Proof.Machine
end

