-- ==== Sys2Proof/Machine/Image.lean ====
section
/-! DEFINITION. A copy of the Ninik image (R353, R354, R364 to R370, R378): its header, its records and their bodies. What lies past
a body's end reads as zeros (DESIGN CHOICE, log entry 146). -/

namespace Sys2Proof

/-! ### The header (R353) -/

/-- Bytes of a record as a word of w bits. -/
def wordOf (w : Nat) (bs : Bytes) : BitVec w := BitVec.ofNat w (Bytes.toNat bs)

/-- Bits [lo + w − 1 : lo] of a copy's header. -/
def FlashCopy.head (c : FlashCopy) (lo w : Nat) : Nat := field (wordOf 2048 c.header) lo w

/-- NK_MAGIC and NK_FORMAT are those of a copy. -/
def FlashCopy.magicOk (c : FlashCopy) : Bool := c.header.length == 256 && c.head 0 32 == 0x4B494E4E && c.head 32 16 == 1

/-- NK_VERSION. -/
def FlashCopy.version (c : FlashCopy) : Nat := c.head 64 64
/-- NK_LEN. -/
def FlashCopy.len (c : FlashCopy) : Nat := c.head 128 32
/-- NK_NREC. -/
def FlashCopy.nrec (c : FlashCopy) : Nat := c.head 160 16
/-- NK_SERIAL. -/
def FlashCopy.serial (c : FlashCopy) : Nat := c.head 192 64

/-- NK_DIGEST is the SHA3-512 of the records (R353). R364 names the header beside them, which holds the digest itself
(DEDUCED, log entry 146). -/
def FlashCopy.digestOk (c : FlashCopy) : Bool := (c.header.drop 32).take 64 == sha3_512 c.records

/-- A copy's bytes from its offset on. -/
def FlashCopy.bytes (c : FlashCopy) : Bytes := c.header ++ c.records ++ c.signature

/-! ### Records (R354) -/

/-- A record: its 16-byte header and its body. -/
structure NkRecord where
  head : BitVec 128
  body : Bytes
  deriving DecidableEq, Repr

/-- RH_TYPE. -/
def NkRecord.type (r : NkRecord) : Nat := field r.head 0 16

/-- A record's bytes: its header, its body and the zeros to a multiple of 8. -/
def NkRecord.bytes (r : NkRecord) : Bytes :=
  bytesOfNat 16 r.head.toNat ++ r.body ++ List.replicate ((r.body.length + 7) / 8 * 8 - r.body.length) 0

/-- The first record of some bytes, and what follows it; none where they end inside it, where a bit of its header that has no field is
set, or where its padding is not zero. -/
def takeRecord (bs : Bytes) : Option (NkRecord × Bytes) :=
  let head := wordOf 128 (bs.take 16)
  let len := field head 32 32
  let size := (len + 7) / 8 * 8
  let rest := bs.drop 16
  let pad := (rest.take size).drop len
  if bs.length < 16 + size || field head 24 8 != 0 || field head 64 64 != 0 || pad.any (· != 0) then none
  else some ({ head := head, body := rest.take len }, rest.drop size)

/-- The n records that some bytes hold and nothing after them. -/
def splitRecords : Nat → Bytes → Option (List NkRecord)
  | 0, bs => if bs.isEmpty then some [] else none
  | n + 1, bs =>
    match takeRecord bs with
    | none => none
    | some (r, rest) => (splitRecords n rest).map (r :: ·)

/-- The record types, each with the least and the greatest count of its records. -/
def recordTypes : List (Nat × Nat × Nat) :=
  [(0x01, 1, 1), (0x02, 1, 1), (0x10, 0, 8), (0x11, 0, 65535), (0x12, 0, 65535), (0x20, 0, 1), (0x30, 0, 1), (0x31, 0, 1), (0x32, 0, 1),
   (0x40, 1, 1), (0x50, 1, 1), (0x51, 1, 1), (0x60, 0, 1)]

/-- Whether a copy's records obey R354, and with its header and signature fit in 32 MiB (R353). -/
def FlashCopy.recordsOk (c : FlashCopy) : Bool :=
  match splitRecords c.nrec c.records with
  | none => false
  | some rs =>
    c.records.length == c.len && decide (256 + c.len + 4627 ≤ 2 ^ 25)
      && rs.all (fun r => recordTypes.any (fun t => t.1 == r.type) || r.type.testBit 15)
      && recordTypes.all (fun t => let n := (rs.filter fun r => r.type == t.1).length
                                   decide (t.2.1 ≤ n) && decide (n ≤ t.2.2))
      && (rs.head?.map NkRecord.type) == some 0x50

/-- A copy's records. -/
def FlashCopy.recordList (c : FlashCopy) : List NkRecord := (splitRecords c.nrec c.records).getD []

/-- The bodies of a copy's records of a type. -/
def FlashCopy.bodies (c : FlashCopy) (t : Nat) : List Bytes := (c.recordList.filter fun r => r.type == t).map NkRecord.body

/-- The body of the record of a type. -/
def FlashCopy.body (c : FlashCopy) (t : Nat) : Bytes := (c.bodies t).headD []

/-- A table of n entries of some bytes each, from an offset of a body on; entries of zeros are not listed. -/
def entriesOf (w n : Nat) (bs : Bytes) : Tbl (BitVec w) :=
  ((List.range n).map fun i => (i, wordOf w ((bs.drop (w / 8 * i)).take (w / 8)))).filter fun p => p.2 != 0

/-! ### Keys and certificates (R358, R364, R369, R370) -/

/-- Whether the first record, which the boot ROM reads before anything else, is SEC_KEYS. -/
def FlashCopy.secKeys (c : FlashCopy) : Bool := (takeRecord c.records).any fun r => r.1.type == 0x50

/-- The owner image key. -/
def FlashCopy.ownerKey (c : FlashCopy) : Bytes := (c.body 0x50).take 2592
/-- The root key slot of the endorsement. -/
def FlashCopy.rootSlot (c : FlashCopy) : Nat := (wordOf 8 (((c.body 0x50).drop 7219).take 1)).toNat
/-- The endorsed serial. -/
def FlashCopy.endorsedSerial (c : FlashCopy) : Nat := (wordOf 64 (((c.body 0x50).drop 7220).take 8)).toNat

/-- The length of the DER object at the front of some bytes (ITU-T X.690; PRESUMED, log entry 146). -/
def derLen : Bytes → Nat
  | _ :: l :: rest =>
    if l.toNat < 128 then 2 + l.toNat else 2 + (l.toNat - 128) + Bytes.toNat (rest.take (l.toNat - 128)).reverse
  | bs => bs.length

/-- The certificates of SEC_CERT. -/
def FlashCopy.certChain (c : FlashCopy) : Bytes := c.body 0x51

/-- The SHA3-512 of the identity certificate, the third of SEC_CERT (R223, R369). -/
def FlashCopy.certDigest (c : FlashCopy) : Bytes :=
  let skip (bs : Bytes) : Bytes := bs.drop (derLen bs)
  let id := skip (skip c.certChain)
  sha3_512 (id.take (derLen id))

/-! ### Firmware (R365) -/

/-- The HUB_FW body. -/
def FlashCopy.hubFw (c : FlashCopy) : Bytes := c.body 0x01
/-- The CDS_FW body. -/
def FlashCopy.cdsFw (c : FlashCopy) : Bytes := c.body 0x02
/-- FW_VERSION of HUB_FW. -/
def FlashCopy.hubFwVersion (c : FlashCopy) : Nat := Bytes.toNat (c.hubFw.take 8)
/-- FW_VERSION of CDS_FW. -/
def FlashCopy.cdsFwVersion (c : FlashCopy) : Nat := Bytes.toNat (c.cdsFw.take 8)

/-- Every other record in record order, SEC_CERT excepted (R366). -/
def FlashCopy.others (c : FlashCopy) : List Bytes :=
  (c.recordList.filter fun r => r.type != 1 && r.type != 2 && r.type != 0x51).map NkRecord.bytes

/-! ### Repairs and settings -/

/-- The repair maps of the dies' arrays (R72). -/
def FlashCopy.arrRepair (c : FlashCopy) : List (BitVec 144) := (c.bodies 0x10).map (wordOf 144)
/-- The row-repair map (R179). -/
def FlashCopy.rowRepair (c : FlashCopy) : List (BitVec 64) := (c.bodies 0x11).map (wordOf 64)
/-- The lane repairs (R330). -/
def FlashCopy.lnkRepair (c : FlashCopy) : List (BitVec 64) := (c.bodies 0x12).map (wordOf 64)
/-- LNK_ROLE (R319). -/
def FlashCopy.linkRole (c : FlashCopy) : Option (BitVec 64) := (c.bodies 0x20).head?.map (wordOf 64)
/-- The MAC_PORT records, by group (R283). -/
def FlashCopy.ports (c : FlashCopy) : Option (Tbl (BitVec 128)) := (c.bodies 0x30).head?.map (entriesOf 128 16)
/-- The MAC_WAKE records (R308). -/
def FlashCopy.wakes (c : FlashCopy) : Tbl (BitVec 192) := entriesOf 192 8 (c.body 0x31)
/-- PWR_CONFIG (R410). -/
def FlashCopy.power (c : FlashCopy) : Option (BitVec 128) := (c.bodies 0x60).head?.map (wordOf 128)
/-- The default plan (R291), where the copy has a MAC_GAUGE record. -/
def FlashCopy.gauge (c : FlashCopy) : Option GaugePlan := if (c.bodies 0x32).isEmpty then none else c.gaugePlan

/-! ### The tun layout (R378) -/

/-- The tun entries. -/
def FlashCopy.layTuns (c : FlashCopy) : Tbl (BitVec 1024) := entriesOf 1024 32 (c.body 0x40)
/-- The run table. -/
def FlashCopy.layRuns (c : FlashCopy) : Tbl (BitVec 64) := entriesOf 64 1024 ((c.body 0x40).drop 4096)
/-- The slice plans, by die × 32 + entry. -/
def FlashCopy.layPlans (c : FlashCopy) : Tbl (BitVec 16) := entriesOf 16 256 ((c.body 0x40).drop 12288)

end Sys2Proof
end

