-- ==== Sys2Proof/Machine/FlashOps.lean ====
section
/-! DEFINITION. The flash (R352 to R360, R364, R365): boot records, the failed-start count, the choice of a copy and the
repair log's bytes. -/

namespace Sys2Proof.Machine

/-! ### Keys of the device (R368) -/

/-- The record key, which tags boot records and repair log entries. -/
def recordKey : Bytes := kmac256 (bytesOfNat 32 Config.seedS.toNat) [] 32 (strBytes "H8 record")

/-- The alias key's seed, which changes with firmware and image. -/
def State.aliasSeed (s : State) : Bytes :=
  kmac256 (bytesOfNat 32 Config.seedS.toNat) (s.mr 0 ++ s.mr 1 ++ s.mr 2 ++ s.mr 3) 32 (strBytes "H8 alias")

/-! ### Boot records (R356) -/

/-- Bytes 0–95 of a boot record. -/
def BootRecord.head (b : BootRecord) : Bytes :=
  bytesOfNat 8 b.seq
    ++ bytesOfNat 8 (b.kind % 16 + (if b.copy then 16 else 0) + b.fails % 4 * 2 ^ 5 + b.cause % 256 * 2 ^ 8)
    ++ bytesOfNat 8 b.version ++ bytesOfNat 4 b.timeMs ++ bytesOfNat 4 (b.dieState % 2 ^ 16)
    ++ (b.measure ++ List.replicate 64 0).take 64

/-- The key a record is tagged under: all zero where the device had no S (R358). -/
def BootRecord.key (b : BootRecord) : Bytes := if b.zeroKey then List.replicate 32 0 else recordKey

/-- The 256 bytes of a boot record with its tag and commit word, which stays erased while its second program has not been made. -/
def BootRecord.bytes (b : BootRecord) : Bytes :=
  let x := b.head ++ kmac256 b.key b.head 16 ++ List.replicate 136 0
  x ++ if b.committed then (sha3_512 x).take 8 else List.replicate 8 0xFF

/-- LNK_DIE_STATE (R333). -/
def State.dieStates (s : State) : Nat :=
  (List.range 8).foldl (fun x n => x + (match (s.found n).state with
    | .running => 0
    | .computeFence => 1
    | .dark => 2) * 4 ^ n) 0

/-- The records that stand: those whose commit word does (R356). -/
def Flash.standing (f : Flash) : List BootRecord := f.boots.filter BootRecord.committed

/-- The records of the ring that a start with S can check. -/
def Flash.checked (f : Flash) : List BootRecord := f.standing.filter fun b => !b.zeroKey

/-- The records after the newest one that satisfies a test. -/
def afterLast (p : BootRecord → Bool) (l : List BootRecord) : List BootRecord := (l.reverse.takeWhile fun b => !(p b)).reverse

/-- The failed-start count (R357): the start-begun records, with no start-complete record after them, since the newest
record of kind 2, 5 or 6. -/
def Flash.failCount (f : Flash) : Nat :=
  min 3 ((afterLast (fun b => b.kind == 2 || b.kind == 5 || b.kind == 6) f.checked).filter fun b => b.kind == 1).length

/-- A boot record appended; a sector of 256 slots is erased before the ring of 4,096 reaches it. -/
def Flash.addBoot (f : Flash) (b : BootRecord) : Flash :=
  let l := if 4096 ≤ f.boots.length then f.boots.drop 256 else f.boots
  { f with boots := l ++ [b] }

/-- The next BR_SEQ. -/
def Flash.nextSeq (f : Flash) : Nat := match f.boots.getLast? with
  | some b => b.seq + 1
  | none => 0

/-- LNK_FENCE_CAUSE and the kind of each fenced die (R325). -/
def State.fences (s : State) : List (Nat × Nat × Nat) :=
  (List.range 8).filterMap fun n =>
    let x := s.found n
    match x.state with
    | .running => none
    | .computeFence => some (n, 1, x.cause)
    | .dark => some (n, 2, x.cause)

/-- The rule of R283 that a MAC_PORT record breaks: 1 its lane map, 2 MAC_SHED_EN, 3 MAC_GAUGED. -/
def portBroken (p : BitVec 128) : Option Nat :=
  if portMode p = 0 then none
  else if !((List.range 8).all fun l => (List.range 8).any fun i => portLane p i == l) then some 1
  else if portShed p && !(portDirect p) then some 2
  else if !(portGauged p) && !(portDirect p) then some 3
  else none

/-- LNK_ROLE counts for a link: compute data, memory forwarding and collective data (R319). -/
def roleCounts (r : BitVec 64) (l : Nat) : Nat × Nat × Nat :=
  if l < 8 then (field r 0 5, field r 5 5, field r 10 5) else (field r 15 4, field r 19 4, 0)

/-- Whether a LNK_ROLE record keeps its rules. -/
def roleOk (r : BitVec 64) : Bool :=
  let h := roleCounts r 0
  let g := roleCounts r 8
  h.1 + h.2.1 + h.2.2 == 16 && g.1 + g.2.1 == 8 && decide (7 ≤ h.2.2) && decide (1 ≤ h.1) && decide (1 ≤ h.2.1)
    && decide (1 ≤ g.1) && decide (1 ≤ g.2.1)

/-- What the boot record of a start notes of the image it took: the lane groups that are off for a broken rule, and a LNK_ROLE record that
breaks its rules, as 16 (R283, R319; that it stands beside the fields of R356 is DESIGN CHOICE, log entry 128). -/
def bootNotes (c : FlashCopy) : List (Nat × Nat) :=
  ((c.ports.getD []).filterMap fun p => (portBroken p.2).map fun r => (p.1, r))
    ++ (if c.linkRole.any fun r => !(roleOk r) then [(16, 0)] else [])

/-- BR_MEASURE: SHA3-512 over SEC_MR0 to SEC_MR6 (R366). -/
def State.bootMeasure (s : State) : Bytes := sha3_512 ((List.range 7).flatMap s.mr)

/-- A record of a kind with the device's state. Without S no count is formed (R358). -/
def State.bootRecord (s : State) (kind : Nat) (copy : Bool) (cause : Nat) : BootRecord :=
  { seq := s.flash.nextSeq, kind := kind, copy := copy, fails := if s.sec.seed.isNone then 0 else s.flash.failCount, cause := cause,
    version := (if copy then s.flash.copyB else s.flash.copyA).version,
    timeMs := (s.nowPs - s.host.startedPs) / 10 ^ 9, dieState := s.dieStates, measure := s.bootMeasure,
    zeroKey := s.sec.seed.isNone, fences := s.fences,
    notes := if kind = 2 then bootNotes (if copy then s.flash.copyB else s.flash.copyA) else [] }

/-- A record written, in its two page programs. -/
def State.boot (s : State) (kind : Nat) (copy : Bool) (cause : Nat) : State :=
  { s with flash := s.flash.addBoot (s.bootRecord kind copy cause) }

/-- A record of which the first page program alone has been made (R356). -/
def State.bootCut (s : State) (kind : Nat) (copy : Bool) (cause : Nat) : State :=
  { s with flash := s.flash.addBoot { s.bootRecord kind copy cause with committed := false } }

/-- The cause of the newest failed start or entry to steep mode that a start with S can check (R350). -/
def Flash.failedCause (f : Flash) : Nat := match (f.checked.filter fun b => b.kind == 3 || b.kind == 4).getLast? with
  | some b => b.cause
  | none => 0

/-- The cause of the newest start-failed record, or 0 (R357). -/
def Flash.lastCause (f : Flash) : Nat := match (f.checked.filter fun b => b.kind == 3).getLast? with
  | some b => b.cause
  | none => 0

/-! ### Copies (R355, R364, R365) -/

/-- The copy of a name: A or B. -/
def Flash.copy (f : Flash) (c : Bool) : FlashCopy := if c then f.copyB else f.copyA

/-- Whether a layout keeps a tun's own rule (R378): an enabled tun has a die. -/
def layoutDies (ts : Tbl (BitVec 1024)) : Bool := ts.all fun p => !(tlEn p.2) || !((tlDies p.2).isEmpty)

/-- Whether the enabled tuns of a layout, pair by pair, keep apart in scratchpad, loft and taps. -/
def layoutApart (ts : Tbl (BitVec 1024)) : Bool :=
  ts.all fun p => ts.all fun q =>
    p.1 == q.1 || !(tlEn p.2) || !(tlEn q.2)
      || (!(rangesMeet (tlTap p.2) (tlTaps p.2) (tlTap q.2) (tlTaps q.2))
          && (!((tlDies p.2).any fun n => (tlDies q.2).contains n)
              || (!(rangesMeet (field p.2 32 16) (field p.2 48 16) (field q.2 32 16) (field q.2 48 16))
                  && !(rangesMeet (field p.2 64 20) (field p.2 84 20) (field q.2 64 20) (field q.2 84 20)))))

/-- Whether each tun's share and taps lie inside the die and the tap range (R156, R337): 65,536 scratchpad lines and
786,432 loft lines a bank. -/
def layoutInside (ts : Tbl (BitVec 1024)) : Bool :=
  ts.all fun p =>
    let l := p.2
    !(tlEn l) || (decide (17 ≤ field l 48 16) && decide (field l 32 16 + field l 48 16 ≤ spBankLines)
      && decide (field l 64 20 + field l 84 20 ≤ loftBankLines) && decide (16 ≤ tlTap l) && decide (tlTap l + tlTaps l ≤ 1024)
      && decide (63 ≤ field l 116 11) && decide (field l 176 7 ≤ 64))
where
  /-- 64-byte lines of a scratchpad bank: 4 MiB (R152) -/
  spBankLines : Nat := 65536
  /-- 64-byte lines of a loft bank on one die: 48 MiB (R152) -/
  loftBankLines : Nat := 786432

/-- Whether the runs of a tun lie inside their groups, at most 16 in a group (R163). -/
def runsInside (ts : Tbl (BitVec 1024)) (runs : Tbl (BitVec 64)) : Bool :=
  ts.all fun p => !(tlEn p.2) ||
    (let rs := (List.range (field p.2 176 7)).map fun i => Run.ofEntry (Tbl.get 0 runs (field p.2 160 16 + i))
     rs.all (fun r => decide (1 ≤ r.count) && decide (r.first + r.count ≤ 21846))
      && (List.range 4).all fun pg => decide ((rs.filter fun r => r.pg == pg).length ≤ 16))

/-- Whether no two runs in use share a stripe. -/
def layoutRuns (ts : Tbl (BitVec 1024)) (runs : Tbl (BitVec 64)) : Bool :=
  let used := ts.flatMap fun p => if tlEn p.2 then (List.range (field p.2 176 7)).map fun i => field p.2 160 16 + i else []
  let r (i : Nat) : Run := Run.ofEntry (Tbl.get 0 runs i)
  (List.range used.length).all fun a => (List.range used.length).all fun b =>
    decide (a = b) || (r (used.getD a 0)).pg != (r (used.getD b 0)).pg
      || !(rangesMeet (r (used.getD a 0)).first (r (used.getD a 0)).count (r (used.getD b 0)).first (r (used.getD b 0)).count)

/-- Whether the sealed sixteenths and quotas stay within the whole, and the slots within 4,096 (R161, R230, R378). -/
def layoutQuotas (ts : Tbl (BitVec 1024)) : Bool :=
  let on := ts.filter fun p => tlEn p.2
  let fixed := on.filter fun p => tlSealed p.2
  let sum (l : Tbl (BitVec 1024)) (f : BitVec 1024 → Nat) : Nat := l.foldl (fun x p => x + f p.2) 0
  let onDie (n : Nat) : Tbl (BitVec 1024) := fixed.filter fun p => (tlDies p.2).contains n
  decide (sum on (fun l => tlSlots l + tlRackSlots l) ≤ 4096)
    && [192, 196, 200, 204].all (fun lo => decide (sum fixed (fun l => field l lo 4) ≤ 16))
    && (List.range 8).all fun n => decide (sum (onDie n) tlMovers ≤ 512) && decide (sum (onDie n) (fun l => field l 137 8) ≤ 256)
        && decide (sum (onDie n) (fun l => field l 145 7) ≤ 64)

/-- The rules a layout must keep (R378). -/
def layoutOk (c : FlashCopy) : Bool :=
  layoutDies c.layTuns && layoutApart c.layTuns && layoutInside c.layTuns && runsInside c.layTuns c.layRuns && layoutRuns c.layTuns c.layRuns && layoutQuotas c.layTuns

/-- Whether a copy is valid (R355): its header, its digest and signatures, its serial, its records and its version. Without S no boot record
can be checked (R358). -/
def State.copyValid (s : State) (c : FlashCopy) (serial : Nat) : Bool :=
  let high := if s.sec.seed.isNone then 0 else (s.flash.checked.filter fun b => b.kind == 2).foldl (fun x b => max x b.version) 0
  c.readable && c.whole && c.magicOk && c.digestOk && c.signatureOk && (c.serial == 0 || c.serial == serial) && c.recordsOk && c.secKeys
    && decide (high ≤ c.version)

/-- Why a valid copy fails its check during the start: 2 for an endorsement, a firmware signature or a record's own
rules, 6 for helper data that yields another S (R358, R364, R365, R378, R410). -/
def copyCheck (c : FlashCopy) (serial : Nat) : Nat :=
  if !c.pufOk then 6
  else if !c.endorseOk || !(c.endorsedSerial == 0 || c.endorsedSerial == serial) || !(decide (c.rootSlot < 4)) || !c.hubFwOk || !c.cdsFwOk || !(layoutOk c) || !(match c.power with
      | some p => pwrConfigOk p
      | none => true) then 2
  else 0

/-- Whether a copy is spent (R355). -/
def Flash.spent (f : Flash) (c : Bool) : Bool :=
  let l := afterLast (fun b => b.kind == 6 && b.copy == c) f.checked
  (List.range l.length).any fun i =>
    match l[i]? with
    | some b => b.kind == 1 && b.copy == c && !((l.drop (i + 1)).any fun x => x.kind == 2)
    | none => false

/-- The copies a start tries, in order (R355): the valid copy that is not spent, the higher version first and A on a tie;
then the other. -/
def State.tries (s : State) (serial : Nat) : List Bool :=
  let ok := [false, true].filter fun c => s.copyValid (s.flash.copy c) serial
  let fresh := ok.filter fun c => !(s.flash.spent c)
  let pick (l : List Bool) : Option Bool := l.foldl (fun b c => match b with
    | none => some c
    | some x => if (s.flash.copy x).version < (s.flash.copy c).version then some c else some x) none
  match if fresh.isEmpty then pick ok else pick fresh with
  | none => []
  | some c => c :: ok.filter (· != c)

/-! ### The repair log (R360) -/

/-- An entry of the repair log with its number. -/
def RepairEntry.bytes (e : RepairEntry) (seq : Nat) : Bytes :=
  let head := bytesOfNat 2 e.type ++ List.replicate 6 0 ++ bytesOfNat 8 seq ++ bytesOfNat 24 e.body.toNat
  let x := head ++ kmac256 recordKey head 16
  x ++ (sha3_512 x).take 8

/-- What a half of the log holds: its header, then its entries in order. -/
def LogHalf.bytes (h : LogHalf) : Bytes :=
  (match h.generation with
    | some g => ({ type := 0xFE, body := 0 } : RepairEntry).bytes g
    | none => List.replicate 64 0xFF)
    ++ ((List.range h.entries.length).zip h.entries).flatMap fun p => p.2.bytes (p.1 + 1)

/-- The half of the log in use. -/
def Flash.logHalf (f : Flash) : Bytes := (f.half f.useB).bytes

/-! ### The flash's layout (R352) -/

/-- Where a boot record's slot, and an entry of a half of the repair log, stand in the flash. -/
def bootOffset (seq : Nat) : Nat := 0x4000000 + 256 * (seq % 4096)
/-- Entry i of a half. -/
def logOffset (b : Bool) (i : Nat) : Nat := 0x4100000 + (if b then 0x80000 else 0) + 64 * i

/-- The byte at an offset of the flash: copy A, copy B, the ring of boot records, the two halves of the repair log; what is erased reads
as 0xFF. -/
def Flash.byte (f : Flash) (off : Nat) : Byte :=
  if off < 0x2000000 then f.copyA.bytes.getD off 0xFF
  else if off < 0x4000000 then f.copyB.bytes.getD (off - 0x2000000) 0xFF
  else if off < 0x4100000 then
    match f.boots.find? fun b => bootOffset b.seq == off / 256 * 256 with
    | some b => b.bytes.getD (off % 256) 0xFF
    | none => 0xFF
  else if off < logOffset true 0 then f.halfA.bytes.getD (off - logOffset false 0) 0xFF
  else f.halfB.bytes.getD (off - logOffset true 0) 0xFF

end Sys2Proof.Machine
end

