-- ==== Sys2Proof/Machine/Flags.lean ====
section
/-! DEFINITION. The status words and blocks as the status window shows them (R50, R82, R110, R130, R151, R180, R221, R222,
R257, R258, R282, R290, R310, R311, R332, R333, R348 to R351, R356, R386, R411, R412): each block from its fields, least
bit first, and the byte of the window at an offset. -/

namespace Sys2Proof.Machine

/-- Fields from the least bit on: width and value. -/
def pack : List (Nat × Nat) → Nat
  | [] => 0
  | (w, v) :: l => v % 2 ^ w + 2 ^ w * pack l

/-- A block of 64-bit counters. -/
def pack64 (l : List Nat) : Nat := pack (l.map fun v => (64, v))

/-! ### A tun's blocks -/

/-- The stall block (R50). -/
def Stall.word (x : Stall) : Nat :=
  pack64 [x.fetch, x.wake, x.sealed, x.slip, x.src, x.dst, x.remote, x.array, x.mover, x.cellar, x.hubCr, x.ringCr, x.issued,
    x.debt, x.switchCycles]

/-- The numeric status block (R110). -/
def NumStat.word (x : NumStat) : Nat :=
  pack64 [x.elems, x.sat, x.inf, x.flush, x.nanLost, x.intSat, bit x.stepNonfinite, x.genPosition]

/-- The vector status block (R130). -/
def VecStat.word (x : VecStat) : Nat :=
  pack64 [x.rows, x.stallBusy, x.portWait, x.invalid, x.divZero, x.intSat, x.smEmpty, x.smInf, x.smNan]

/-- The narrow arithmetic status block (R151). -/
def NarrowStat.word (x : NarrowStat) : Nat :=
  pack64 [x.recomputes, x.over2, x.scaleLow, x.scaleHigh, x.recomputeCycles, x.zpPasses, x.silentEvents]

/-- The update status block (R221). -/
def UpdStat.word (x : UpdStat) : Nat :=
  pack64 [x.blocks, x.records, x.frozenElems, x.freezeCopies, x.nfSegments, x.nfResults, x.clipped, x.orderWait, x.stallBlocks,
    x.regenBytes, x.granaryBytes]

/-- HUB_STEP_STATE (R222). -/
def StepState.code : StepState → Nat
  | .running => 0
  | .awaitingDies => 1
  | .awaitingHost => 2
  | .voteOpen => 3
  | .awaitingRacking => 4
  | .stopped => 5

/-- The commit block (R222). -/
def Tun.commitWord (t : Tun) (u : Nat) : Nat :=
  let c := t.commit
  pack [(128, t.bung.word u), (3, t.step.state.code), (1, bit c.lastSpoiled), (1, bit c.lastNf), (59, 0), (64, c.committed),
    (64, c.spoiled), (64, c.voteTimeouts), (64, c.granaryDebt), (64, c.granaryTagFail), (64, c.digestMismatches)]

/-- The collective status block (R257). -/
def CollStat.word (x : CollStat) : Nat :=
  pack64 [x.segSent, x.segRecv, x.stallSegment, x.stallGranary, x.redElems, x.longAdds, x.bucketHold, x.stale, x.resends,
    x.reshards, x.permuteBytes, x.gravDiscards, x.idleGates]

/-- The racking status block (R282), with the coder waits of every die. -/
def RackStat.word (x : RackStat) (hold : Nat) : Nat :=
  pack ([(48, x.stood), (16, 0)] ++ [x.segments, x.bytes, x.resends, x.spilled, x.stall, x.lagEvents, x.abandoned, x.caskPieces,
    x.caskBytes, x.caskWait, hold, x.restores, x.restoreRefused].map fun v => (64, v))

/-- The gravity entries (R258). -/
def gravWord (g : Tbl GravEntry) : Nat :=
  pack ((List.range 64).flatMap fun i =>
    let e := Tbl.get ({} : GravEntry) g i
    [(32, e.l.toNat), (32, e.g.toNat), (32, e.nbar.toNat), (32, e.dbar.toNat)])

/-- Bytes of a run of a block, from an offset of it on. -/
structure Placed where
  off : Nat
  bytes : Bytes
  deriving DecidableEq, Repr

/-- A block of w bytes placed at an offset. -/
def place (off w v : Nat) : Placed := { off := off, bytes := bytesOfNat w v }

/-- The byte at an offset among blocks that do not meet; one in none of them reads as zero. -/
def byteAt (l : List Placed) (a : Nat) : Byte :=
  match l.find? fun p => decide (p.off ≤ a) && decide (a < p.off + p.bytes.length) with
  | some p => p.bytes.getD (a - p.off) 0
  | none => 0

/-- The blocks of a tun in its 8 KiB (R348). The racking stall of a bung that still waits stands in HUB_RACK_STALL as
it counts (R2, R264). -/
def State.tunBlocks (s : State) (u : Nat) : List Placed :=
  let t := s.tun u
  let waited := match t.step.lagSince with
    | some x => (s.nowPs - x) / 800
    | none => 0
  let hold := (List.range 8).foldl (fun x n => x + (s.upd n u).stat.rackHold) 0
  [place 0 72 (t.commitWord u), place 0x100 104 t.coll.word, place 0x200 112 ({ t.rackStat with stall := t.rackStat.stall + waited }.word hold), place 0x400 1024 (gravWord t.grav)]
    ++ (List.range 8).flatMap fun n =>
      let c := s.ctx n u
      let b := 0x1000 + 0x200 * n
      [place b 120 c.stall.word, place (b + 0x80) 64 c.num.word, place (b + 0xC0) 72 c.vec.word, place (b + 0x140) 56 c.narrow.word,
       place (b + 0x180) 88 c.upd.stat.word]

/-- The 8 KiB of a tun's status. -/
def State.tunStatus (s : State) (u : Nat) : Bytes := (List.range 8192).map (byteAt (s.tunBlocks u))

/-! ### The device's blocks -/

/-- HUB_WIN_STATE (R350). -/
def WinState.code : WinState → Nat
  | .starting => 0
  | .running => 1
  | .steep => 2

/-- The window header (R350). -/
def State.headerWord (s : State) : Nat :=
  let h := s.host
  pack [(32, 0x38485841), (8, 1), (3, h.winState.code), (1, bit h.copy), (2, h.fails), (18, 0), (64, h.serial), (64, h.imageVer),
    (64, (s.nowPs - h.startedPs) / 10 ^ 9), (64, h.writesDropped), (64, h.tapRefused), (8, h.cause)]

/-- The package shape block (R333). -/
def State.shapeWord (s : State) : Nat :=
  let l := s.links
  pack [(8, l.pkgFeature), (8, l.hubFeature), (8, l.hubMinDie), (8, 0), (16, s.dieStates), (16, 0),
    (32, pack ((List.range 8).map fun n => (4, (s.found n).cause)))]

/-- MAC_PTP_STATE (R290). -/
def PtpState.code : PtpState → Nat
  | .free => 0
  | .acquiring => 1
  | .locked => 2
  | .holdover => 3

/-- The time status (R290). -/
def Ptp.word (p : Ptp) : Nat :=
  pack [(2, p.state.code), (6, p.port), (24, 0), (32, (p.offset % 2 ^ 32).toNat), (32, p.delay), (16, p.holdoverMs), (16, 0), (64, p.bushel)]

/-- MAC_LINK (R311). -/
def MacLink.code : MacLink → Nat
  | .down => 0
  | .training => 1
  | .up => 2
  | .fenced => 3

/-- MAC_WIDTH (R311). -/
def widthCode (lanes : Nat) : Nat :=
  match lanes with
  | 8 => 3
  | 4 => 2
  | 2 => 1
  | _ => 0

/-- Whether the gauge is kept on a MAC (R289, R297): a gauged port whose clock is LOCKED or in HOLDOVER. -/
def State.timeOk (s : State) (m : Nat) : Bool :=
  portGauged (s.port m) && (s.net.ptp.state == .locked || s.net.ptp.state == .holdover)

/-- A MAC's counters (R310). -/
def Mac.counterWord (x : Mac) : Nat := pack ((List.range 56).map fun i => (32, (Tbl.get (0 : BitVec 32) x.counters i).toNat))

/-- A MAC's status word and half-range flags (R311). -/
def State.macWord (s : State) (m : Nat) : Nat :=
  let x := s.mac m
  pack [(2, x.link.code), (2, widthCode (if x.link = .up then x.lanes else 0)), (1, bit (s.timeOk m)), (1, bit x.failedOver), (58, 0), (56, x.half.toNat)]

/-- LNK_GROUP_STATE of a group (R332). -/
def Group.stateCode (g : Group) : Nat :=
  if g.retired then 3 else if g.half then 2 else if g.bad = 0 then 0 else 1

/-- Spares of a group still free: four signal lanes beyond the 68 of full width (R326). -/
def Group.sparesFree (g : Group) : Nat := (goodLanes g.bad).1 - 68

/-- The link status block (R332); before the groups are tested and dealt their fields are as at reset. -/
def State.linkWord (s : State) (l dir : Nat) : Nat :=
  let x := s.linkDir l dir
  let gs := List.range 16
  let has (g : Nat) : Bool := decide (g < linkGroups l) && !(x.roles.isEmpty)
  pack [(32, pack (gs.map fun g => (2, if has g then (x.group g).stateCode else 0))),
    (48, pack (gs.map fun g => (3, if has g then (x.group g).sparesFree else 0))), (16, 0),
    (32, pack (gs.map fun g => (2, if has g then x.role g else 0))), (8, s.links.pkgFeature), (1, bit x.ctlDegraded),
    (1, bit x.ctlRerouted), (1, bit x.off), (53, 0), (64, x.flits), (64, x.crcErr), (64, x.replays), (64, x.repairs),
    (64, x.halfEvents), (64, x.retiredCount), (64, x.repairNs), (64, x.borrowed)]

/-- The array status block (R82). -/
def ArrStat.word (x : ArrStat) : Nat :=
  pack [(8, x.presented), (3, x.sparesFree), (1, bit x.fenced), (52, 0), (64, x.passes), (64, x.discards), (64, x.residueFaults),
    (64, x.transients), (64, x.replays), (64, x.replayCycles), (8, x.lastCol), (7, x.lastRow), (1, bit x.lastPerm)]

/-- CDS_PG_STATE (R180). -/
def PgState.code : PgState → Nat
  | .whole => 0
  | .rebuilding => 1
  | .exposed => 2
  | .fenced => 3

/-- The memory status block of a die (R180). -/
def State.memWord (s : State) (n : Nat) : Nat :=
  let x := (s.die n).memStat
  let g := s.group (n / 2)
  let fences := (List.range 6).foldl (fun y i => max y ((s.die n).rowFences.filter fun p => p.1 == i).length) 0
  pack [(64, x.spCe), (64, x.spUe), (64, x.loftCe), (64, x.loftUe), (64, x.cellarCe), (64, x.cellarUe), (64, x.reconstructs),
    (64, x.degradedReads), (64, x.stripeFills), (64, x.rebuiltStripes), (6, x.failedCi), (2, g.state.code),
    (7, (g.rebuilt + g.early.length) * 100 / 21846), (2, x.rebuildShare), (5, fences), (42, 0), (48, x.lastUeAddr)]

/-- PWR_STATE (R411). -/
def PwrState.code : PwrState → Nat
  | .starting => 0
  | .run => 1
  | .deepIdle => 2
  | .stopped => 3
  | .steep => 4
  | .pullSafe => 5
  | .off => 6

/-- A keeper's state (R411): HELD while a fence or a stop holds it. -/
def Keeper.code (k : Keeper) : Nat :=
  if k.fenced || k.stopHeld then 3
  else match k.power with
    | .on => 0
    | .clockGated => 1
    | .powerGated => 2

/-- The power status block (R411). -/
def State.powerWord (s : State) : Nat :=
  let p := s.pwr
  let x := p.sensors
  let k (i : Nat) : Keeper := if i < 320 then Tbl.get {} (s.die (i / 40)).keepers (i % 40) else Tbl.get {} s.hubKeepers i
  pack [(3, p.state.code), (4, p.throttle), (3, p.estopCause), (1, bit p.pullSafe), (5, 0), (16, x.inV), (16, x.inI), (16, x.w1ms),
    (16, x.w1s), (8, x.tCd), (8, x.tHd), (8, x.tCellar), (24, 0), (64, x.energyMj), (64, p.throttleCycles), (64, p.estops),
    (64, p.estopNsMax), (64, p.deepIdleMs), (704, pack ((List.range 352).map fun i => (2, (k i).code)))]

/-- The fault block (R412). -/
def Pwr.faultWord (p : Pwr) : Nat :=
  pack ((List.range 13).map (fun c => (64, Tbl.get 0 p.faults (c + 1)))
    ++ [(64, p.absorbedNsMax), (4, p.lastClass), (4, p.lastDie), (8, p.lastUnit), (48, 0), (64, p.lastTime), (64, p.lastIntNs)])

/-- SEC_STATE (R386). -/
def SecState.code : SecState → Nat
  | .starting => 0
  | .locked => 1
  | .steep => 2

/-- Open sessions (R386). -/
def Sec.openSessions (x : Sec) : Nat := (x.sessions.filter fun p => p.2.isOpen).length

/-- Bits [31:0] of the security status: the SEC_STATE word. -/
def Sec.stateWord (x : Sec) : Nat :=
  pack [(2, x.state.code), (2, x.rootSlot), (1, bit x.tamper), (1, bit x.pufOk), (4, x.openSessions), (22, 0)]

/-- The security status (R386). -/
def State.secWord (s : State) : Nat :=
  let x := s.sec
  let keyed := (List.range 32).foldl (fun y u => y + bit (s.tun u).ts.isSome * 2 ^ u) 0
  pack [(32, x.stateWord), (32, keyed), (64, x.sigFail), (64, x.secretRefused), (64, x.spdmErrors), (64, x.teardowns), (64, x.dieBindFail)]

/-- The copy of the newest boot record (R357). -/
def State.bootCopy (s : State) : Bytes := match s.flash.standing.getLast? with
  | some b => b.bytes
  | none => []

/-- The blocks of the device part of the window (R348). In steep mode it holds the header and the boot-record copy only
(R359). -/
def State.deviceBlocks (s : State) : List Placed :=
  let first := [place 0 256 s.headerWord, { off := 0x400, bytes := s.bootCopy }]
  if s.host.winState = .steep then first
  else
    first ++ [place 0x100 16 s.shapeWord, place 0x200 24 s.net.ptp.word]
      ++ (List.range 64).flatMap (fun m => [place (0x1000 + 0x100 * m) 224 (s.mac m).counterWord, place (0x10E0 + 0x100 * m) 16 (s.macWord m)])
      ++ (List.range 32).map (fun i => place (0x8000 + 0x80 * i) 88 (s.linkWord (i / 2) (i % 2)))
      ++ (List.range 8).flatMap (fun n => [place (0x10000 + 0x1000 * n) 64 (s.die n).arr.word, place (0x10100 + 0x1000 * n) 96 (s.memWord n)])
      ++ [place 0x20000 160 s.powerWord, place 0x20100 136 s.pwr.faultWord, place 0x30000 64 s.secWord]
      ++ (List.range 7).map fun i => { off := 0x30100 + 0x40 * i, bytes := s.mr i }

/-- The byte of the status window at an offset (R348): a tun's part reads as zero while its job's status is closed
(R351), and offsets not listed read as zero. -/
def State.windowByte (s : State) (off : Nat) : Byte :=
  if 0x100000 ≤ off ∧ off < 0x300000 then
    let u := (off - 0x100000) / 0x10000
    if s.host.winState = .steep || (s.tun u).job.closedStatus then 0 else byteAt (s.tunBlocks u) ((off - 0x100000) % 0x10000)
  else byteAt s.deviceBlocks off

/-- An entry of the MSI-X table: masked until the host writes it (PCI Express; PRESUMED, log entry 145). -/
def HostIf.msixEntry (h : HostIf) (v : Nat) : BitVec 128 := Tbl.get (BitVec.ofNat 128 (2 ^ 96)) h.msix v

/-- What a read of the 64-bit word i of BAR0 gives (R11, R334, R335): its registers, and the 33 entries of the MSI-X table from 0x8000
on; write-only fields, reserved bits and every other offset read as zero. -/
def State.barWord (s : State) (i : Nat) : BitVec 64 :=
  match i with
  | 0 => s.host.tapBase
  | 1 => BitVec.ofNat 64 (bit s.host.tapOn)
  | 2 => BitVec.ofNat 64 (bit (s.tuns.any fun p => p.2.loaded))
  | _ => if 0x1000 ≤ i ∧ i < 0x1000 + 66 then BitVec.ofNat 64 (field (s.host.msixEntry ((i - 0x1000) / 2)) (64 * (i % 2)) 64) else 0

end Sys2Proof.Machine
end

