-- ==== Sys2Proof/Machine/RestoreOps.lean ====
section
/-! DEFINITION. A restore (R277 to R281): the objects of a restore list opened, the checks of R280, and the state that a
restore leaves. A fresh start is the restore to step 0. -/

namespace Sys2Proof.Machine

/-! ### The objects of a list -/

/-- A piece of a restore list: its commit's header fields, its descriptor and its bytes (R272). -/
structure RPiece where
  f : RkFields
  desc : BitVec 1024
  plain : Bytes
  ok : Bool
  header : BitVec 512
  deriving DecidableEq, Repr

/-- CK_TENSOR. -/
def RPiece.tensor (p : RPiece) : Nat := field p.desc 0 32
/-- CK_KIND. -/
def RPiece.kind (p : RPiece) : Nat := field p.desc 32 3
/-- CK_FIRST. -/
def RPiece.first (p : RPiece) : Nat := field p.desc 192 40
/-- CK_COUNT. -/
def RPiece.count (p : RPiece) : Nat := field p.desc 232 40

/-- A difference or factor segment opened and decoded (R260, R262). -/
structure RDiff where
  f : RkFields
  bytes : Bytes
  deriving DecidableEq, Repr

/-- The fields of an object's header. -/
def objFields (o : RestoreObject) : RkFields := RkFields.ofHeader o.header

/-- Header bytes 0–31. -/
def objLow (o : RestoreObject) : Bytes := bytesOfNat 32 (o.header.toNat % 2 ^ 256)

/-- A data segment put among those of its piece in offset order, RK_FIRST. -/
def insertData (o : RestoreObject) : List RestoreObject → List RestoreObject
  | [] => [o]
  | x :: xs => if (objFields o).first < (objFields x).first then o :: x :: xs else x :: insertData o xs

/-- The pieces of a list in list order, each with its data in offset order. -/
def pieces (key : Bytes) (objs : List RestoreObject) : List RPiece :=
  (objs.filter fun o => (objFields o).type == 9).map fun c =>
    let f := (objFields c)
    let ds := (objs.filter fun o =>
      let g : RkFields := objFields o
      g.type == 8 && g.rank == f.rank && g.die == f.die && g.step == f.step && g.seq == f.seq).foldl (fun l o => insertData o l) []
    let desc : BitVec 1024 := BitVec.ofNat 1024 (Bytes.toNat (openPayload key f c.payload))
    let cipher := ds.flatMap fun o => o.payload
    let plain := ds.flatMap fun o => openPayload key (objFields o) o.payload
    { f := f, desc := desc, plain := plain, header := c.header,
      ok := Bytes.toNat (sha3_512 cipher) == field desc 320 512 && plain.length == field desc 272 40 }

/-- The bytes of a difference or factor segment; an empty payload is zero throughout. -/
def openDiff (key : Bytes) (o : RestoreObject) : RDiff :=
  let f := (objFields o)
  { f := f, bytes := if f.len = 0 then [] else rackDecode (65536) (openPayload key f o.payload) }

/-- The difference and factor segments of a list. -/
def diffs (key : Bytes) (objs : List RestoreObject) : List RDiff :=
  (objs.filter fun o => (objFields o).type == 1 || (objFields o).type == 2).map (openDiff key)

/-- The racking commit records of a list, with their header fields. -/
def commitsOf (key : Bytes) (objs : List RestoreObject) : List (RkFields × BitVec 6144) :=
  (objs.filter fun o => (objFields o).type == 6).map fun o =>
    ((objFields o), BitVec.ofNat 6144 (Bytes.toNat (openPayload key (objFields o) o.payload)))

/-- A restore list read by a device: its keys applied. -/
structure RList where
  T : Nat
  pieces : List RPiece
  diffs : List RDiff
  commits : List (RkFields × BitVec 6144)
  layouts : List (RkFields × List (BitVec 256))
  history : List (RkFields × Bytes)
  deriving DecidableEq, Repr

/-- The shard table entries of a layout segment's payload. -/
def shardsIn (bs : Bytes) : List (BitVec 256) :=
  (List.range (bs.length / 32)).map fun i => BitVec.ofNat 256 (Bytes.toNat ((bs.drop (32 * i)).take 32))

/-- The objects of a list whose body has its commit word: of a step's racking, those of the rank and attempt of a commit record of the
list (R275); a piece is opened from its commit. -/
def committed (objs : List RestoreObject) : List RestoreObject :=
  let key (o : RestoreObject) : Nat × Nat × Nat := ((objFields o).step, (objFields o).rank, (objFields o).attempt)
  let words := (objs.filter fun o => (objFields o).type == 6).map key
  objs.filter fun o => decide (6 ≤ (objFields o).type) || words.contains (key o)

/-- A list read under a racking key; a body without its commit word is ignored (R275). -/
def readList (key : Bytes) (T : Nat) (objs : List RestoreObject) : RList :=
  let objs := committed objs
  let of' (ty : Nat) : List RestoreObject := objs.filter fun o => (objFields o).type == ty
  { T := T, pieces := pieces key objs, diffs := diffs key objs, commits := commitsOf key objs,
    layouts := (of' 4).map fun o => ((objFields o), shardsIn (openPayload key (objFields o) o.payload)),
    history := (of' 3).map fun o => ((objFields o), openPayload key (objFields o) o.payload) }

/-- The step after which the racking of a list begins: the oldest base step of its pieces (R277). -/
def RList.oldest (l : RList) : Nat := l.pieces.foldl (fun x p => min x p.f.step) l.T

/-- The steps whose racking a restore applies, ascending. -/
def RList.steps (l : RList) : List Nat := (List.range (l.T - l.oldest)).map (· + l.oldest + 1)

/-- The commit record of a step: the first of the list. -/
def RList.commit (l : RList) (s : Nat) : Option (BitVec 6144) := (l.commits.find? fun c => c.1.step == s).map Prod.snd

/-- Whether step s applied updates (RC_UPDATED). -/
def RList.updated (l : RList) (s : Nat) : Bool :=
  match l.commit s with
  | some c => flag c 49
  | none => false

/-- The pieces that hold an element of a tensor. -/
def RList.holding (l : RList) (tensor e : Nat) : List RPiece :=
  l.pieces.filter fun p => p.tensor == tensor && decide (p.first ≤ e) && decide (e < p.first + p.count)

/-- The base step of an element: that of the last piece of the list that holds it. -/
def RList.base (l : RList) (tensor e : Nat) : Option Nat := ((l.holding tensor e).getLast?).map fun p => p.f.step

/-! ### Where a source kept its part -/

/-- A part of a tensor held by a die of a rank. -/
structure Part where
  tensor : Nat
  rank : Nat
  die : Nat
  first : Nat
  count : Nat
  deriving DecidableEq, Repr

/-- A shard table entry as a part. -/
def Part.ofShard (e : BitVec 256) : Part :=
  { tensor := shTensor e, rank := shRank e, die := shDie e, first := shFirst e, count := shCount e }

/-- The parts of the layout in force at step s (R277): the newest layout segments before it; the job's own table where
the list has none; else what the pieces show. -/
def RList.parts (l : RList) (j : JobImage) (s : Nat) : List Part :=
  let before := l.layouts.filter fun x => decide (x.1.step < s)
  match before.getLast? with
  | some last =>
    ((before.filter fun x => x.1.step == last.1.step && x.1.rank == last.1.rank).flatMap fun x => x.2).map Part.ofShard
  | none =>
    if l.layouts.isEmpty then j.shards.map Part.ofShard
    else l.pieces.map fun p => { tensor := p.tensor, rank := p.f.rank, die := p.f.die, first := p.first, count := p.count }

/-- The factor words of step s from a die of a rank: word by word, the 8 bytes and how many segments cover it. -/
def RList.factorWords (l : RList) (s : Nat) (p : Part) (words : Nat) : List (Bytes × Nat) :=
  let segs := l.diffs.filter fun d => d.f.type == 2 && d.f.step == s && d.f.rank == p.rank && d.f.die == p.die && d.f.tensor == p.tensor
  (List.range words).map fun w =>
    let cover := segs.filter fun d => decide (d.f.first ≤ w) && decide (w < d.f.first + d.f.count)
    (match cover.head? with
      | some d => ((d.bytes.drop (8 * (w - d.f.first))).take 8 ++ List.replicate 8 0).take 8
      | none => List.replicate 8 0, cover.length)

/-- The rows a part of a tensor of some columns spans: the first, and their number. -/
def Part.rows (p : Part) (cols : Nat) : Nat × Nat := (p.first / cols, (p.first + p.count - 1) / cols + 1 - p.first / cols)

/-- The 8-byte words of a part's factor slot, padded (R259). -/
def Part.slotWords (p : Part) (cols : Nat) : Nat := ceilDiv (slotBytes (p.rows cols).2 cols) 8

/-! ### Own entries -/

/-- An update table entry of a tun: die, entry number and entry. -/
abbrev Own := Nat × Nat × BitVec 512

/-- The entries of a job on a tun's dies that racking covers: all but the granary's. -/
def State.owned (s : State) (u rank : Nat) (j : JobImage) : List Own :=
  (s.diesOf u).flatMap fun n => ((jobEntries j rank n).filter fun p => utKind p.2 != 4).map fun p => (n, p.1, p.2)

/-- The first elements of the blocks of an entry. -/
def blockFirsts (e : BitVec 512) : List Nat := (List.range (entryBlocks e)).map fun b => utFirst e + 64 * b

/-- Whether an entry folds its factors: an M entry under AdamW that is not frozen (R199, R205). -/
def folds (j : JobImage) (e : BitVec 512) : Bool :=
  utKind e == 0 && !(utFrozen e) && coRule (Tbl.get 0 j.coefs (utCoef e)) == 0

/-! ### The checks of R280 -/

/-- A failed check: its number in R280's order, and header bytes 0–31 of the object. -/
structure RFail where
  check : Nat
  object : Bytes := List.replicate 32 0
  deriving DecidableEq, Repr

/-- The first object whose tag, or piece whose digest, fails. -/
def tagFailure (key : Bytes) (objs : List RestoreObject) (ps : List RPiece) : Option RFail :=
  match objs.find? fun o => !(tagOk key o) with
  | some o => some { check := 1, object := objLow o }
  | none =>
    match ps.find? fun (p : RPiece) => !p.ok with
    | some p => some { check := 1, object := bytesOfNat 32 (p.header.toNat % 2 ^ 256) }
    | none => none

/-- Whether each range of the device's shards is covered by a piece of base step at most T, of base step 0 in a fresh
start. -/
def RList.piecesOk (l : RList) (own : List Own) : Bool :=
  own.all fun o => (List.range (utCount o.2.2)).all fun i =>
    match l.base (utTensor o.2.2) (utFirst o.2.2 + i) with
    | some b => decide (b ≤ l.T)
    | none => false

/-- The commit record of a step that a rank wrote. -/
def RList.commitBy (l : RList) (s rank : Nat) : Option (BitVec 6144) :=
  (l.commits.find? fun c => c.1.step == s && c.1.rank == rank).map Prod.snd

/-- Whether a record follows that of the same rank's step before; the record after a load or a restore begins a chain with zeros
(R267). -/
def RList.follows (l : RList) (c : RkFields × BitVec 6144) : Bool :=
  field c.2 0 48 == c.1.step &&
    (match l.commitBy (c.1.step - 1) c.1.rank with
      | some p => field c.2 1216 512 == 0 || field c.2 1216 512 == Bytes.toNat (sha3_512 (bytesOfNat 768 p.toNat))
      | none => true)

/-- Whether the difference and factor segments that a list holds of a record's rank and step are of its own series: no more from a
die than RC_SEGS states, and each numbered below it (R275; DEDUCED, log entry 127). -/
def segsWithin (objs : List RestoreObject) (c : RkFields × BitVec 6144) : Bool :=
  (List.range 8).all fun n =>
    let mine := objs.filter fun o =>
      let f := objFields o
      (f.type == 1 || f.type == 2) && f.step == c.1.step && f.rank == c.1.rank && f.die == n && f.attempt == c.1.attempt
    let k := field c.2 (192 + 32 * n) 32
    decide (mine.length ≤ k) && mine.all fun o => decide ((objFields o).seq < k)

/-- The object at which a missing commit record of a step shows: the first of the list that is of that step or a later one, or else
the last of the list (R346; log entry 135). -/
def gapObject (objs : List RestoreObject) (s : Nat) : Bytes :=
  match (objs.find? fun o => decide (s ≤ (objFields o).step)).or objs.getLast? with
  | some o => objLow o
  | none => List.replicate 32 0

/-- The chain: each step's record is there, and every record of the list follows the one of its rank before it, with the segments that
it counts (R267, R275, R280). -/
def RList.chainFailure (l : RList) (objs : List RestoreObject) : Option RFail :=
  l.steps.findSome? fun s =>
    if (l.commit s).isNone then some { check := 2, object := gapObject objs s }
    else ((l.commits.filter fun c => c.1.step == s).find? fun c => !(l.follows c && segsWithin objs c)).map fun c =>
      { check := 2, object := bytesOfNat 32 c.1.low }

/-- The difference segments of step s that hold a block. -/
def RList.covering (l : RList) (s tensor x : Nat) : List RDiff :=
  l.diffs.filter fun d => d.f.type == 1 && d.f.step == s && d.f.tensor == tensor && decide (d.f.first ≤ x) && decide (x < d.f.first + 64 * d.f.count)

/-- The parts of step s that meet an entry. -/
def RList.partsOf (l : RList) (j : JobImage) (s : Nat) (e : BitVec 512) : List Part :=
  (l.parts j s).filter fun p => p.tensor == utTensor e && decide (p.first < utFirst e + utCount e) && decide (utFirst e < p.first + p.count)

/-- Header bytes 0–31 of the commit record of step s that a rank wrote, or else of the step's first one. -/
def RList.commitHead (l : RList) (s rank : Nat) : Bytes :=
  match (l.commits.find? fun c => c.1.step == s && c.1.rank == rank).or (l.commits.find? fun c => c.1.step == s) with
  | some c => bytesOfNat 32 c.1.low
  | none => List.replicate 32 0

/-- The object at which a coverage of step s fails: the second of the segments that cover the same, or, where none covers it, the commit
record of the rank that held the part (R346; log entry 135). -/
def RList.coverObject (l : RList) (s rank : Nat) (cover : List RDiff) : Bytes :=
  match cover.drop 1 with
  | d :: _ => bytesOfNat 32 d.f.low
  | [] => l.commitHead s rank

/-- The first block or factor word of the device's M, V and replicated ranges, newer than its base step, that step s covers not at all
or twice (R280). -/
def RList.coverFailure (l : RList) (j : JobImage) (own : List Own) (s : Nat) : Option RFail :=
  own.findSome? fun o =>
    let e := o.2.2
    let newer (x : Nat) : Bool := match l.base (utTensor e) x with
      | some b => decide (b < s)
      | none => false
    if utKind e = 2 then none
    else
      let ps := l.partsOf j s e
      match (blockFirsts e).find? fun x => newer x && (l.covering s (utTensor e) x).length != 1 with
      | some x =>
        let rank := match ps.find? fun p => decide (p.first ≤ x) && decide (x < p.first + p.count) with
          | some p => p.rank
          | none => 64
        some { check := 3, object := l.coverObject s rank (l.covering s (utTensor e) x) }
      | none =>
        if !(folds j e) || !((blockFirsts e).any newer) then none
        else ps.findSome? fun p =>
          let segs := l.diffs.filter fun d => d.f.type == 2 && d.f.step == s && d.f.rank == p.rank && d.f.die == p.die && d.f.tensor == p.tensor
          ((List.range (p.slotWords (max (utCols e) 1))).find? fun w =>
              (segs.filter fun d => decide (d.f.first ≤ w) && decide (w < d.f.first + d.f.count)).length != 1).map fun w =>
            { check := 3, object := l.coverObject s p.rank (segs.filter fun d => decide (d.f.first ≤ w) && decide (w < d.f.first + d.f.count)) }

/-- The old dies of a rank whose embedding ranges of step s meet the device's (R277). -/
def RList.embDies (l : RList) (j : JobImage) (own : List Own) (s rank : Nat) : List Nat :=
  (List.range 8).filter fun n => own.any fun o => utKind o.2.2 == 2 && (l.partsOf j s o.2.2).any fun p => p.rank == rank && p.die == n

/-- The first commit record of step s that the embedding segments do not match: of each die whose embedding ranges meet the device's, all
that the record counts, and of another die all or none; the digest over their headers is checked where all of the step are there, as
it runs over them all (R277, R280; log entry 135). -/
def RList.embFailure (l : RList) (j : JobImage) (own : List Own) (objs : List RestoreObject) (s : Nat) : Option RFail :=
  ((l.commits.filter fun c => c.1.step == s).find? fun c =>
    let mine := (committed objs).filter fun o =>
      let f := (objFields o)
      f.type == 1 && f.emb && f.step == s && f.rank == c.1.rank
    let count (n : Nat) : Nat := (mine.filter fun o => (objFields o).die == n).length
    let due (n : Nat) : Nat := field c.2 (448 + 32 * n) 32
    let needed := l.embDies j own s c.1.rank
    let ordered := (List.range 8).flatMap fun n =>
      let l := mine.filter fun o => (objFields o).die == n
      (l.map fun o => ((objFields o).seq, o.header)).foldl (fun (t : Tbl (BitVec 512)) p => Tbl.put t p.1 p.2) []
    !(((List.range 8).all fun n => count n == due n || (!(needed.contains n) && count n == 0))
      && (!((List.range 8).all fun n => count n == due n)
        || field c.2 704 512 == Bytes.toNat (sha3_512 (ordered.flatMap fun p => bytesOfNat 64 p.2.toNat))))).map
    fun c => { check := 4, object := bytesOfNat 32 c.1.low }

/-- The first failed check of a restore (R280); the identity is checked when the job image is read. -/
def restoreFailure (key : Bytes) (j : JobImage) (own : List Own) (objs : List RestoreObject) (l : RList) : Option RFail :=
  match tagFailure key objs l.pieces with
  | some f => some f
  | none =>
    if !(l.piecesOk own) then some { check := 5 }
    else
      match l.chainFailure objs with
      | some f => some f
      | none =>
        l.steps.findSome? fun s =>
          (if l.updated s then l.coverFailure j own s else none).or
            (if own.any (fun o => utKind o.2.2 == 2) then l.embFailure j own objs s else none)

/-! ### The bytes a restore writes -/

/-- Record x of a piece put into record r of a block (R272). -/
def RPiece.intoBlock (p : RPiece) (cols el r : Nat) (b : Block) : Block :=
  let i := el - p.first
  let k := p.count
  let rec' : Rec := { w := wordAt p.plain (4 * i), m := wordAt p.plain (4 * k + 4 * i) }
  let b := { b with recs := b.recs.set r rec' }
  if p.kind = 0 then b
  else
    let scale := (p.plain.getD (9 * k + i / 32) 0).toNat
    let b := { b with codes := b.codes.set r (p.plain.getD (8 * k + i) 0).toNat,
                      scale0 := if r < 32 then scale else b.scale0, scale1 := if r < 32 then b.scale1 else scale }
    if p.kind = 2 then
      let at' := 9 * k + ceilDiv k 32 + 12 * (i / max cols 1)
      { b with rowStep := Bytes.toNat ((p.plain.drop at').take 4), written := Bytes.toNat ((p.plain.drop (at' + 4)).take 6) }
    else b

/-- An empty block. -/
def Block.empty : Block := { recs := List.replicate 64 { w := 0, m := 0 }, codes := List.replicate 64 0 }

/-- A block of an entry as the pieces give it, then with the differences of every later step that applied updates
(R278). -/
def RList.block (l : RList) (e : BitVec 512) (b : Nat) : Bytes :=
  let first := utFirst e + 64 * b
  let blk := (List.range (utLive e b)).foldl (fun (x : Block) r =>
    (l.holding (utTensor e) (first + r)).foldl (fun x p => p.intoBlock (utCols e) (first + r) r x) x) Block.empty
  let bytes := blk.toBytes (utKind e != 0)
  let size := utBlockBytes e
  let base := (l.base (utTensor e) first).getD 0
  l.steps.foldl (fun bs s =>
    if l.updated s && decide (base < s) then
      (l.diffs.filter fun d => d.f.type == 1 && d.f.step == s && d.f.tensor == utTensor e
          && decide (d.f.first ≤ first) && decide (first < d.f.first + 64 * d.f.count)).foldl (fun bs d =>
        let part := (d.bytes.drop (size * ((first - d.f.first) / 64))).take size
        if part.length = size then xorBytes bs part else bs) bs
    else bs) bytes

/-- The slot of an M piece put over a slot: the header, the rows the piece spans, and the columns. -/
def RPiece.intoSlot (p : RPiece) (cols : Nat) (x : FactorSlot) : FactorSlot :=
  let k := p.count
  let w (i : Nat) : Word32 := wordAt p.plain (8 * k + i)
  let r0 := p.first / cols
  let rows := (p.first + k - 1) / cols + 1 - r0
  { fbar := w 0, folds := (w 4).toNat,
    fr := (List.range rows).foldl (fun t i => Tbl.put t (r0 + i) (w (64 + 4 * i))) x.fr,
    fc := (List.range cols).map fun j => (j, w (64 + 4 * rows + 4 * j)) }

/-- XOR of two codes. -/
def xor32 (a b : Word32) : Word32 := a ^^^ b

/-- A slot with the factor difference of a source applied in one step: the rows that it gives and that are older than the step, and,
where it is main, the header and the columns. -/
def FactorSlot.applyDiff (x : FactorSlot) (p : Part) (cols : Nat) (older : Nat → Bool) (main : Bool) (d : Bytes) : FactorSlot :=
  let w (i : Nat) : Word32 := wordAt d i
  let (r0, rows) := p.rows cols
  let x := { x with fr := x.fr.map fun q =>
    if r0 ≤ q.1 ∧ q.1 < r0 + rows ∧ older q.1 then (q.1, xor32 q.2 (w (64 + 4 * (q.1 - r0)))) else q }
  if main then
    { x with fbar := xor32 x.fbar (w 0), folds := Nat.xor x.folds (w 4).toNat,
             fc := x.fc.map fun q => (q.1, xor32 q.2 (w (64 + 4 * rows + 4 * q.1))) }
  else x

/-- The pieces of a list put over one another for the slot of an entry, in list order; the header and the columns are those of the last
piece that holds the entry's first element. -/
def RList.slotBase (l : RList) (e : BitVec 512) : FactorSlot :=
  let cols := max (utCols e) 1
  let overs (p : RPiece) : Bool := p.tensor == utTensor e && decide (p.first < utFirst e + utCount e) && decide (utFirst e < p.first + p.count)
  let x := (l.pieces.filter overs).foldl (fun (x : FactorSlot) p =>
    let y := p.intoSlot cols x
    if p.first ≤ utFirst e then y else { y with fbar := x.fbar, folds := x.folds, fc := x.fc }) ({} : FactorSlot)
  let own : Part := { tensor := utTensor e, rank := 0, die := 0, first := utFirst e, count := utCount e }
  let rows := own.rows cols
  { x with fr := (List.range rows.2).map fun i => (rows.1 + i, Tbl.get 0 x.fr (rows.1 + i)) }

/-- The base step of a row of an entry's slot: that of the last piece of the list that meets the entry in the row, which has given it
(RList.slotBase). -/
def RList.rowBase (l : RList) (e : BitVec 512) (r : Nat) : Nat :=
  let cols := max (utCols e) 1
  match (l.pieces.filter fun p => p.tensor == utTensor e && decide (p.first < utFirst e + utCount e) && decide (utFirst e < p.first + p.count)
      && decide (p.first / cols ≤ r) && decide (r ≤ (p.first + p.count - 1) / cols)).getLast? with
  | some p => p.f.step
  | none => 0

/-- The factor slot of an M entry after a restore: the slots of its pieces, and to each row, and to the header and columns, the
differences of the steps after the base step of the piece that gave them (R278). Each step's difference of a row is taken once: from
the source that held the row's first element in the entry. -/
def RList.slot (l : RList) (j : JobImage) (e : BitVec 512) : FactorSlot :=
  let cols := max (utCols e) 1
  let base (i : Nat) : Nat := (l.base (utTensor e) i).getD 0
  l.steps.foldl (fun x s =>
    if l.updated s then
      (l.partsOf j s e).foldl (fun (x : FactorSlot) p =>
        let has (i : Nat) : Bool := decide (p.first ≤ i) && decide (i < p.first + p.count)
        let main := has (utFirst e) && decide (base (utFirst e) < s)
        x.applyDiff p cols (fun r => has (max (r * cols) (utFirst e)) && decide (l.rowBase e r < s)) main
          ((l.factorWords s p (p.slotWords cols)).flatMap Prod.fst)) x
    else x) (l.slotBase e)

/-- The entries written: both kegs or both copies, and both slots of an M entry with their masters. -/
def State.restoreEntry (s : State) (u : Nat) (l : RList) (j : JobImage) (o : Own) : State :=
  let n := o.1
  let e := o.2.2
  let s := (List.range (entryBlocks e)).foldl (fun (s : State) b =>
    let bs := l.block e b
    (s.cellarWrite u n (s.blockAddr e 0 b) bs).cellarWrite u n (s.blockAddr e 1 b) bs) s
  if utFactored j.coefs e then
    let x := l.slot j e
    let bytes := x.toBytes
    let s := (s.cellarWrite u n (utFact e) bytes).cellarWrite u n (utFact e + bytes.length) bytes
    let c := s.upd n u
    s.setUpd n u { c with factors := c.factors.put o.2.1 { even := x, odd := x } }
  else s

/-- The history of a slot in a history segment's payload, and the largest of its valid entries (R139, R262, R281). -/
def historySlot (bs : Bytes) (i : Nat) : StatSlot :=
  let w := (bs.drop (68 * i)).take 68
  let x : StatSlot := { hist := (List.range 16).foldl (fun (t : Tbl Word32) h => Tbl.put t h (wordAt w (4 * h))) [],
                        valid := (w.getD 64 0).toNat, head := (w.getD 65 0).toNat }
  { x with hmax := x.histMax }

/-- A die's statistics slots after a restore: those declared unchanged, from the history of step T. -/
def RList.stats (l : RList) (j : JobImage) (rank n : Nat) : Tbl StatSlot :=
  match l.history.find? fun h => h.1.step == l.T && h.1.die == n && h.1.rank == rank with
  | some h => ((List.range 512).filter fun i => j.keepStats.contains (512 * n + i)).map fun i => (i, historySlot h.2 i)
  | none => []

/-! ### The restore (R278, R279) -/

/-- The hub's state of the step after a restore to T: from the commit record of T, or the fresh start's. -/
def Tun.restoredFrom (t : Tun) (T : Nat) (c : Option (BitVec 6144)) : Tun :=
  let t := { t with bung := { step := T, keg := (T + 1) % 2, valid := true }, restoredTo := T, outputPosted := T }
  match c with
  | some r =>
    let grav := (List.range 64).map fun g =>
      (g, ({ nbar := BitVec.ofNat 32 (field r (2048 + 64 * g) 32), dbar := BitVec.ofNat 32 (field r (2080 + 64 * g) 32) } : GravEntry))
    { t with step := { t.step with k := field r 64 32, lsScale := BitVec.ofNat 32 (field r 96 32), lsClean := field r 128 32 },
             grav := grav.filter fun p => p.2 != {},
             loopNext := if flag t.gravity 0 then [(field t.gravity 7 4, field r 160 16)] else [] }
  | none => t

/-- The bytes of a restore list as the tap's ring holds it: a 64-byte list record for each object (R341). -/
def listBytes (objs : List RestoreObject) : Bytes := objs.flatMap fun o => objLow o ++ List.replicate 32 0

/-- A restore refused: counted, and its event on the control tap (R280, R346). -/
def State.refuseRestore (s : State) (u : Nat) (f : RFail) : State :=
  let t := s.tun u
  (s.setTun u { t with rackStat := { t.rackStat with restoreRefused := t.rackStat.restoreRefused + 1 } }).eventBytes u 0x25
    ([BitVec.ofNat 8 f.check] ++ List.replicate 7 0 ++ f.object)

/-- A tun as its restore leaves it before its state is taken: loaded with the restore's image, its secrets and the counts
that a restore does not clear kept (R282, R367). -/
def Tun.reloaded (t : Tun) (j : JobImage) (rank T : Nat) (objs : List RestoreObject) : Tun :=
  let tmr := extend (loadMeasure j) (bytesOfNat 6 T ++ sha3_512 (listBytes objs))
  { t.loadedWith j rank t.nonce tmr with
    ts := t.ts, secretTaken := t.secretTaken, imports := t.imports, commit := t.commit, coll := t.coll,
    rackStat := { restores := t.rackStat.restores, restoreRefused := t.rackStat.restoreRefused },
    seqs := t.seqs, segCredits := t.segCredits, helloKey := t.helloKey, restored := t.restored,
    restoring := decide (2 ≤ j.cluster.length) }

/-- The records that a waiting re-sharding step has not been sent, read from a cask and the racking tail of the step that is committed
(R252): the blocks and factor slots of the new entries that meet a range still due, after the checks of R280. -/
def State.supply (s : State) (u T : Nat) (objs : List RestoreObject) (pkg : LayoutPackage) : State :=
  let t := s.tun u
  let rank := (pkg.rankMap.find t.rank).getD 64
  let j := relaidJob t.job pkg
  let j := { j with coefs := t.coefs }
  let l := readList t.rackKey T objs
  let due (n lo hi : Nat) : Bool := t.permDue.any fun d => d.1 == n && decide (d.2.1 < hi) && decide (lo < d.2.2)
  let needs := (s.diesOf u).flatMap fun n => ((recordStream j rank n).filter fun p =>
    due n p.1 (p.1 + shardBlocks j p.2 * shardBlockBytes j p.2 + shardSlot j p.2)).map fun p => (n, p.1, p.2)
  let own : List Own := needs.map fun q => (q.1, shUt q.2.2, shardEntry j q.2.2)
  if T ≠ t.bung.step then s
  else
    match restoreFailure t.rackKey j own objs l with
    | some f => s.refuseRestore u f
    | none =>
      let s := needs.foldl (fun (s : State) q =>
        let e := shardEntry j q.2.2
        let size := shardBlockBytes j q.2.2
        let s := (List.range (shardBlocks j q.2.2)).foldl (fun (s : State) b =>
          let lo := q.2.1 + size * b
          if due q.1 lo (lo + size) then s.putRecords u q.1 ((s.tun u).reshardWrites j rank q.1 lo (l.block e b)) else s) s
        let lo := q.2.1 + size * shardBlocks j q.2.2
        if due q.1 lo (lo + shardSlot j q.2.2) then s.putRecords u q.1 ((s.tun u).reshardWrites j rank q.1 lo (l.slot j e).toBytes) else s) s
      (s.setTun u { s.tun u with permDue := [] }).fillStripes u

/-- A restore of a loaded and keyed tun to step T from a list (R278 to R281). A tun with no job or no secret accepts none
(R374). While a re-sharding step waits for records, the list supplies them (R252). -/
def State.restore (s : State) (u T : Nat) (j : JobImage) (objs : List RestoreObject) : State :=
  let t := s.tun u
  if !t.loaded || t.ts.isNone then s
  else if let (Reshard.moved, some pkg) := (t.reshard, t.package) then s.supply u T objs pkg
  else
    match s.rankIn u j with
    | none => s.refuseRestore u { check := 6 }
    | some rank =>
      let t' := t.reloaded j rank T objs
      match s.jobRefusal u t' with
      | some why => s.refuseLoad u why
      | none =>
        let j := { j with coefs := t'.coefs }
        let l := readList t.rackKey T objs
        let own := s.owned u rank j
        match restoreFailure t.rackKey j own objs l with
        | some f => s.refuseRestore u f
        | none =>
          let t' := t'.restoredFrom T (if T = 0 then none else l.commit T)
          let s := (s.setTun u t').createCtxs u
          let s := own.foldl (fun s o => s.restoreEntry u l j o) s
          let s := (s.diesOf u).foldl (fun (s : State) n =>
            let c := s.ctx n u
            s.setCtx n u { c with stats := l.stats j rank n,
                                  loopCounts := t'.loopNext.foldl (fun l p => Tbl.put l p.1 p.2) c.loopCounts }) s
          let t' := s.tun u
          let t' := { t'.exchangeDone with rackStat := { t'.rackStat with restores := t'.rackStat.restores + 1 } }
          let s := s.setTun u (t'.sendCtl ((t'.members.filter (· != rank)).map .restoreComplete))
          s.planCasks u 0

end Sys2Proof.Machine
end

