-- ==== Sys2Proof/Machine/HostOps.lean ====
section
/-! DEFINITION. The host interface (R176, R177, R194, R249, R335 to R351): the tap table, what each kind of entry does, ring
indices, the layout package and the closed status. -/

namespace Sys2Proof.Machine

/-! ### Entries (R338, R341) -/

/-- TAP_KIND. -/
def tapKind (e : BitVec 1024) : Nat := field e 0 4
/-- TAP_TUN. -/
def tapTun (e : BitVec 1024) : Nat := field e 4 5
/-- TAP_EN. -/
def tapEn (e : BitVec 1024) : Bool := flag e 9
/-- TAP_GEN_COUNT. -/
def tapGen (e : BitVec 1024) : Nat := field e 960 32
/-- AR_HOST_IDX of area a. -/
def areaHostIdx (e : BitVec 1024) (a : Nat) : Nat := field e (64 + 256 * a + 128) 64
/-- Kind parameters from byte b on, w bits. -/
def tapParam (e : BitVec 1024) (b w : Nat) : Nat := field e (8 * b) w

/-- Whether any tun holds a job (HUB_JOBS_LOADED). -/
def State.jobsLoaded (s : State) : Bool := s.tuns.any fun p => p.2.loaded

/-- The tun whose range holds a tap (R337). -/
def State.tapOwner (s : State) (t : Nat) : Option Nat :=
  (List.range 32).find? fun u =>
    let l := s.lay u
    tlEn l && decide (tlTap l ≤ t) && decide (t < tlTap l + tlTaps l)

/-- Whether an area descriptor keeps R340. -/
def areaOk (e : BitVec 1024) (a : Nat) : Bool :=
  let log := field e (64 + 256 * a + 64) 6
  log == 0 || (decide (12 ≤ log) && decide (log ≤ 40) && field e (64 + 256 * a) 12 == 0 && field e (64 + 256 * a + 192) 3 == 0)

/-- Whether an entry keeps the rules of its kind (R340, R341, R343). -/
def kindOk (e : BitVec 1024) : Bool :=
  match tapKind e with
  | 0 => false
  | 8 => areaOk e 0 && decide (1 ≤ tapParam e 96 7) && decide (tapParam e 96 7 ≤ 64)
  | 12 => areaOk e 0 && areaOk e 1 && tapParam e 72 16 != 0
  | k => areaOk e 0 && areaOk e 1 && decide (k < 13)

/-- Whether an entry is one of kind k that keeps its rules, which bind it while it is enabled (R337, R341). -/
def kindEntry (k : Nat) (e : BitVec 1024) : Bool := tapKind e == k && (!(tapEn e) || kindOk e)

/-- Whether an entry is legal at a tap (R337). -/
def State.tapLegal (s : State) (t : Nat) (e : BitVec 1024) : Bool :=
  let k := tapKind e
  if t = 0 then kindEntry 10 e || (k == 0 && !(tapEn e))
  else if t = 1 then kindEntry 1 e || (k == 0 && !(tapEn e))
  else if t < 16 then !(tapEn e)
  else
    match s.tapOwner t with
    | none => !(tapEn e)
    | some u =>
      tapTun e == u && (k != 1 || t == tlTap (s.lay u)) && k != 10 && decide (k < 13) && kindEntry k e

/-- A tap's record replaced. -/
def State.setTap (s : State) (t : Nat) (x : Tap) : State := { s with host := { s.host with taps := s.host.taps.put t x } }

/-- A tap-refused or tap-torn event on the owner's control tap or on tap 1, and its count (R337, R339). -/
def State.tapFault (s : State) (t why : Nat) : State :=
  let s := { s with host := { s.host with tapRefused := s.host.tapRefused + 1 } }
  match s.tapOwner t with
  | some u => if t < 16 then s.deviceEvent 0x24 [t, why] else s.event u 0x24 [t, why]
  | none => s.deviceEvent 0x24 [t, why]

/-! ### Rings (R340) -/

/-- A ring that the device fills, with the host's index moved on; indices only grow. -/
def Ring.consume (r : Ring) (idx : Nat) : Ring := { r with hostIdx := max r.hostIdx (min idx r.devIdx) }

/-- The host's index of area A of a tap of a kind: events, output records and status slots are consumed; racking, cask and
evaluation slots are acknowledged (R265). -/
def State.hostIndex (s : State) (t : Nat) (e : BitVec 1024) : State :=
  let idx := areaHostIdx e 0
  if t = 1 then { s with host := { s.host with events := s.host.events.consume idx } }.deviceEventsBack
  else
    match s.tapOwner t with
    | none => s
    | some u =>
      let x := s.tun u
      match tapKind e with
      | 1 => (s.setTun u { x with events := x.events.consume idx }).eventsBack u
      | 3 => s.setTun u { x with outRing := x.outRing.consume idx }
      | 4 => s.ackRing u 4 idx
      | 5 => s.ackRing u 5 idx
      | 6 => s.ackRing u 6 idx
      | 12 => s.setTun u { x with statusRing := x.statusRing.consume idx }
      | _ => s

/-! ### What an entry does -/

/-- The first enabled tap of a kind in a tun's range: its number and entry. -/
def State.tunTap (s : State) (u k : Nat) : Option (Nat × BitVec 1024) :=
  (s.host.taps.find? fun p => s.tapOwner p.1 == some u && tapEn p.2.entry && tapKind p.2.entry == k).map fun p => (p.1, p.2.entry)

/-- An evaluation tap's entry: an increase of EV_REQ requests one evaluation cask (R274, R341). -/
def Tun.evaluation (t : Tun) (e : BitVec 1024) : Tun :=
  let n := tapParam e 72 32
  let t := { t with evalTap := some e }
  if t.evReq < n then { t with evReq := n, rack := { t.rack with evalReq := tapEn e } } else t

/-- A status tap's entry: its interval counts from the next bushel (R341, R351). -/
def State.statusEntry (s : State) (u : Nat) (e : BitVec 1024) : State :=
  s.setTun u { s.tun u with statusTap := some e, statusDue := s.net.ptp.bushel + 1 }

/-- The granary parameters of an entry (R343). -/
def Tun.granaryEntry (t : Tun) (e : BitVec 1024) : Tun :=
  { t with granArea := tapParam e 72 64, granWc := (tapParam e 80 64, tapParam e 88 64) }

/-- A tap's kind taken into use, or out of use where the tap no longer has it. -/
def State.useKind (s : State) (u k : Nat) : State :=
  let e := match s.tunTap u k with
    | some x => x.2
    | none => 0
  let t := s.tun u
  match k with
  | 2 => s.setTun u { t with inputTap := tapEn e }
  | 4 => s.setTun u { t with rackTapNext := some e }
  | 5 => s.setTun u { t with caskTapNext := some e }
  | 6 => s.setTun u (t.evaluation e)
  | 12 => s.statusEntry u e
  | 8 => (s.setTun u (t.granaryEntry e)).commitWord u (BitVec.ofNat 256 (field e 320 256))
  | _ => s

/-- A legal entry consumed: its kind's effect, and its ring index. What an entry brings in its areas (commands, records, a
map, sets, a plan, a package, a list) comes with the command that reads it. -/
def State.tapApply (s : State) (t : Nat) (e : BitVec 1024) : State :=
  let old := tapKind (s.tapEntry t)
  let s := s.setTap t { seen := tapGen e, entry := e }
  let s := match s.tapOwner t with
    | none => s
    | some u =>
      if t < 16 then s
      else
        let s := if old = tapKind e then s else s.useKind u old
        s.useKind u (tapKind e)
  s.hostIndex t e

/-- A check of a tap (R339). -/
def State.tapCheck (s : State) (t : Nat) (e : BitVec 1024) : State :=
  let x := Tbl.get ({} : Tap) s.host.taps t
  if !s.host.tapOn || !s.host.linkUp || s.host.winState ≠ .running || tapGen e = x.seen then s
  else if crc32 (bytesOfNat 120 e.toNat) ≠ BitVec.ofNat 32 (field e 992 32) then s.setTap t { x with torn := true }
  else if s.tapLegal t e then s.tapApply t e
  else (s.setTap t { x with seen := tapGen e, torn := false }).tapFault t 0

/-- A torn entry that is still torn after 1 ms (R339). -/
def State.tapTorn (s : State) (t : Nat) : State :=
  let x := Tbl.get ({} : Tap) s.host.taps t
  if x.torn then (s.setTap t { x with torn := false }).tapFault t 1 else s

/-- The host moves a ring's index on (R340): the entry is written with it. -/
def State.ringAdvance (s : State) (t a idx : Nat) : State :=
  let x := Tbl.get ({} : Tap) s.host.taps t
  if !s.host.tapOn || !s.host.linkUp || !(tapEn x.entry) || decide (idx ≤ areaHostIdx x.entry a) then s
  else
    let e := setField x.entry (64 + 256 * a + 128) 64 idx
    let s := s.setTap t { x with entry := e, seen := (x.seen + 1) % 2 ^ 32 }
    if a = 0 then s.hostIndex t e else s

/-! ### Maps, sets and packages -/

/-- Whether a granary map breaks its rules: an entry that is not aligned to 4 KiB, or tun-local ranges that overlap (R177,
R343; DEDUCED, log entry 115). -/
def mapOverlaps (m : List (BitVec 256)) : Bool :=
  m.any (fun e => field e 0 12 != 0 || field e 64 12 != 0 || field e 192 12 != 0) ||
  (List.range m.length).any fun i => (List.range m.length).any fun j =>
    let a : BitVec 256 := m.getD i 0
    let b : BitVec 256 := m.getD j 0
    i != j && rangesMeet (field a 0 64) (4096 * field a 128 40) (field b 0 64) (4096 * field b 128 40)

/-- A tap that breaks a rule of its kind, named by the kind (R337). -/
def State.kindRefused (s : State) (u k : Nat) : State :=
  s.tapFault (match s.tunTap u k with
    | some x => x.1
    | none => tlTap (s.lay u)) 0

/-- A layout package staged, or refused (R249, R367). -/
def State.stagePackage (s : State) (u : Nat) (pkg : LayoutPackage) : State :=
  let t := s.tun u
  if !t.loaded then s
  else if !pkg.sigOk then s.refuseLoad u { reason := 3 }
  else if !(shardsOk { pkg.job with tensors := t.job.tensors }) then s.refuseLoad u { reason := 11 }
  else if t.reshard ≠ .no then s.refuseLoad u { reason := 26 }
  else if s.packageMeets u (t.bung.step + 1) pkg then s.refuseLoad u { reason := 25 }
  else s.setTun u { t with package := some pkg }

/-! ### Output and closed status -/

/-- Whether a launch of a tun in a step up to k writes the granary and is not over. -/
def State.granaryWrites (s : State) (u k : Nat) : Bool :=
  s.dies.any fun p => p.2.movs.any fun j => j.tun == u && mdDstLvl j.desc == 2 && !j.void && decide (j.step ≤ k)

/-- A write of a tun to a ring in host memory that finds the link down: an error of a CXL access, which spoils the step (R170, R336). -/
def State.ringFails (s : State) (u : Nat) : State :=
  let t := s.tun u
  (s.setTun u { t with commit := { t.commit with granaryTagFail := t.commit.granaryTagFail + 1 } }).spoilAll u

/-- The output record of the oldest committed step without one, once that step's granary writes are complete and where the ring has
room (R341). Its bytes are those of an input record (log entry 45). -/
def State.postOutput (s : State) (u : Nat) : State :=
  let t := s.tun u
  let k := t.outputPosted + 1
  match s.tunTap u 3 with
  | none => s
  | some (_, e) =>
    if t.loaded && decide (k ≤ t.bung.step) && !(s.granaryWrites u k)
        && decide (t.outRing.devIdx + 64 ≤ t.outRing.hostIdx + areaSize e 0) then
      if s.host.linkUp then
        s.setTun u { t with outputPosted := k, outputs := k :: t.outputs,
                            outRing := t.outRing.push (BitVec.ofNat 512 (k % 2 ^ 48)) }
      else s.ringFails u
    else s

/-- The closed status of a tun written into its status tap once its interval is over (R351): the 8 KiB encrypted and tagged
under the status key; the tweak is a free value, and the tag stands beside the slot (log entry 46). -/
def State.closedStatus (s : State) (u : Nat) : State :=
  let t := s.tun u
  match tapOn t.statusTap with
  | none => s
  | some e =>
    if t.loaded && t.job.closedStatus && t.ts.isSome && decide (t.statusDue ≤ s.net.ptp.bushel)
        && decide (t.statusRing.devIdx + 8192 ≤ t.statusRing.hostIdx + areaSize e 0) then
      let k := t.statusKey
      let ct := xtsEnc (k.take 32) (k.drop 32) (Config.openNat 8 s.draws) (s.tunStatus u)
      let t := { t with statusDue := s.net.ptp.bushel + tapParam e 72 16 }
      if s.host.linkUp then
        s.draw.setTun u { t with statusOut := ct :: t.statusOut, statusTags := kmac256 k ct 16 :: t.statusTags,
                                 statusRing := { t.statusRing with devIdx := t.statusRing.devIdx + 8192, seq := t.statusRing.seq + 1 } }
      else (s.draw.setTun u t).ringFails u
    else s

/-! ### The window written (R349) -/

/-- A write of up to 64 bits at an offset of the window: the half-range flags of a MAC are cleared by ones; any other write
is dropped and counted. -/
def State.windowWrite (s : State) (off n : Nat) (w : BitVec 64) : State :=
  let m := (off - 0x1000) / 0x100
  let at' := (off - 0x1000) % 0x100
  if 0x1000 ≤ off ∧ off < 0x5000 ∧ 0xE8 < at' + n ∧ at' < 0xEF then
    let ones := (w.toNat % 2 ^ (8 * n)) * 2 ^ (8 * at') / 2 ^ (8 * 0xE8)
    s.setMac m { s.mac m with half := (s.mac m).half &&& ~~~(BitVec.ofNat 56 ones) }
  else { s with host := { s.host with writesDropped := s.host.writesDropped + 1 } }

end Sys2Proof.Machine
end

