-- ==== Sys2Proof/Machine/HostIf.lean ====
section
/-! DEFINITION. The commands of the host interface (R176, R177, R194, R212, R249, R265, R270, R274, R277, R335 to R351,
R384). -/

namespace Sys2Proof.Machine

/-- HUB_TAP_BASE_WRITE (R335): dropped and counted while any tun holds a job. -/
def execHubTapBaseWrite (v : BitVec 64) (s : State) : Host.Outcome State Fault Refusal :=
  .next (if s.jobsLoaded then { s with host := { s.host with writesDropped := s.host.writesDropped + 1 } }
    else { s with host := { s.host with tapBase := v } })

/-- HUB_TAP_ON_WRITE (R335): dropped and counted while any tun holds a job. -/
def execHubTapOnWrite (v : Bool) (s : State) : Host.Outcome State Fault Refusal :=
  .next (if s.jobsLoaded then { s with host := { s.host with writesDropped := s.host.writesDropped + 1 } }
    else { s with host := { s.host with tapOn := v } })

/-- HUB_STOP_ALL (R335): writing 1 stops every tun, and a load that comes at the same moment is refused (R347). -/
def execHubStopAll (v : Bool) (s : State) : Host.Outcome State Fault Refusal := .next (if v then s.stopAllNow else s)

/-- HUB_DOORBELL (R339, R397): the device leaves deep idle, and the tap named is checked at once. -/
def execHubDoorbell (t : Fin 1024) (entry : BitVec 1024) (s : State) : Host.Outcome State Fault Refusal :=
  .next (s.leaveDeepIdle.tapCheck t.val entry)

/-- CXL_LINK_RESET (R336): only the port and its configuration are reset, its MSI-X table among them. -/
def execCxlLinkReset (s : State) : Host.Outcome State Fault Refusal :=
  .next { s with host := { s.host with linkUp := false, width := 0, rate := 0, ideSkid := false, msix := [] } }

/-- The lanes of a CXL link. -/
def cxlLanes : CxlWidth → Nat
  | .x2 => 2
  | .x4 => 4
  | .x8 => 8

/-- CXL_LINK_UP (R334, R336): the link has trained, and every entry of the tap table is read again; those whose generation has changed
are consumed. What waited for the link is written. -/
def execCxlLinkUp (table : Tbl (BitVec 1024)) (width : CxlWidth) (half skid : Bool) (s : State) : Host.Outcome State Fault Refusal :=
  let s := { s with host := { s.host with linkUp := true, width := cxlLanes width, rate := if half then 32 else 64, ideSkid := skid } }
  let s := table.foldl (fun (s : State) p => if p.1 < 1024 then s.tapCheck p.1 p.2 else s) s
  .next ((List.range 32).foldl (fun (s : State) u => (s.eventsBack u).fillTunRings u) s.deviceEventsBack)

/-- TAP_SNOOP (R339): a line of an entry leaves the cache, and the entry is checked. -/
def execTapSnoop (t : Fin 1024) (entry : BitVec 1024) (s : State) : Host.Outcome State Fault Refusal :=
  .next (s.tapCheck t.val entry)

/-- TAP_TORN_TIMEOUT (R339). -/
def execTapTornTimeout (t : Fin 1024) (s : State) : Host.Outcome State Fault Refusal := .next (s.tapTorn t.val)

/-- INPUT_RECORD (R342): a record for a step and attempt stands in the ring. -/
def execInputRecord (u : TunId) (recX : BitVec 512) (s : State) : Host.Outcome State Fault Refusal :=
  let t := s.tun u.val
  .next (if t.inputTap then
    s.setTun u.val { t with inIdx := t.inIdx + 64, inputs := (t.inputs.filter fun x => decide (t.stepNow ≤ x.1)) ++ [(field recX 0 48, field recX 48 16)] }
  else s)

/-- OUTPUT_RECORD (R177, R341). -/
def execOutputRecord (u : TunId) (s : State) : Host.Outcome State Fault Refusal := .next (s.postOutput u.val)

/-- RING_INDEX_ADVANCE (R265, R340). -/
def execRingIndexAdvance (t : Fin 1024) (area : Fin 2) (idx : BitVec 64) (s : State) : Host.Outcome State Fault Refusal :=
  .next (s.ringAdvance t.val area.val idx.toNat)

/-- RACKING_TAP (R265, R269): the receiver from the next step start on. -/
def execRackingTap (u : TunId) (entry : BitVec 1024) (s : State) : Host.Outcome State Fault Refusal :=
  .next (if kindEntry 4 entry && tapTun entry == u.val then s.setTun u.val { s.tun u.val with rackTapNext := some entry } else s.kindRefused u.val 4)

/-- CASK_TAP (R270). -/
def execCaskTap (u : TunId) (entry : BitVec 1024) (s : State) : Host.Outcome State Fault Refusal :=
  .next (if kindEntry 5 entry && tapTun entry == u.val then s.setTun u.val { s.tun u.val with caskTapNext := some entry } else s.kindRefused u.val 5)

/-- EVALUATION_CASK_REQUEST (R274, R341): an increase of EV_REQ requests a cask in the next step. -/
def execEvaluationCaskRequest (u : TunId) (entry : BitVec 1024) (s : State) : Host.Outcome State Fault Refusal :=
  .next (if kindEntry 6 entry && tapTun entry == u.val then s.setTun u.val ((s.tun u.val).evaluation entry) else s.kindRefused u.val 6)

/-- RESTORE (R277 to R281, R341): an increase of RS_GO restores the tun to step T from the objects of its list. -/
def execRestore (u : TunId) (entry : BitVec 1024) (job : JobImage) (objs : List RestoreObject) (s : State) : Host.Outcome State Fault Refusal :=
  let t := s.tun u.val
  let go := tapParam entry 80 32
  .next (if !(kindEntry 7 entry) || tapTun entry != u.val then s.kindRefused u.val 7
    else if !(tapEn entry) || decide (go ≤ t.rsGo) then s
    else (s.setTun u.val { t with rsGo := go }).restore u.val (tapParam entry 72 48) job (objs.take (tapParam entry 84 32)))

/-- GRANARY_MAP (R177, R343): the map of the granary tap, from the next step start on; one that overlaps is refused. -/
def execGranaryMap (u : TunId) (entry : BitVec 1024) (map : List (BitVec 256)) (s : State) : Host.Outcome State Fault Refusal :=
  let m := map.take (tapParam entry 96 7)
  .next (if tapKind entry ≠ 8 || !(kindOk entry) || tapTun entry != u.val || mapOverlaps m then s.kindRefused u.val 8
    else s.setTun u.val { (s.tun u.val).granaryEntry entry with granMapNext := some m })

/-- COEFFICIENT_TAP (R194): the 256 sets, from the next step start on; a rule that R194 does not name refuses them, and so
does a rule that needs a sketch the job does not have (R238). -/
def execCoefficientTap (u : TunId) (sets : List (BitVec 512)) (s : State) : Host.Outcome State Fault Refusal :=
  let t := s.tun u.val
  let cs := (List.range (min 256 sets.length)).zip sets
  .next (if coefsOk t.job t.rank cs && sketchesOk t.job t.rank cs then s.setTun u.val { t with coefsNext := some cs }
    else s.kindRefused u.val 9)

/-- LAYOUT_TAP (R249): a package is checked and staged. -/
def execLayoutTap (u : TunId) (pkg : LayoutPackage) (s : State) : Host.Outcome State Fault Refusal :=
  .next (s.stagePackage u.val pkg)

/-- STATUS_TAP (R341, R351). -/
def execStatusTap (u : TunId) (entry : BitVec 1024) (s : State) : Host.Outcome State Fault Refusal :=
  .next (if tapKind entry = 12 && kindOk entry && tapTun entry == u.val then s.statusEntry u.val entry else s.kindRefused u.val 12)

/-- CLOSED_STATUS_WRITE (R351). -/
def execClosedStatusWrite (u : TunId) (s : State) : Host.Outcome State Fault Refusal := .next (s.closedStatus u.val)

/-- LOAD_JOB (R344): the tun is loaded, or the command is refused with its reason. -/
def execLoadJob (u : TunId) (cmdSeq : BitVec 32) (job : JobImage) (s : State) : Host.Outcome State Fault Refusal :=
  let r := s.loadJob u.val job
  .next ((if r.2 = 0 then r.1.planCasks u.val 0 else r.1).commandDone u.val cmdSeq r.2)

/-- STOP_THE_TUN (R344): its committed step and last cask stay intact. -/
def execStopTheTun (u : TunId) (cmdSeq : BitVec 32) (s : State) : Host.Outcome State Fault Refusal :=
  .next ((s.stopTun u.val).commandDone u.val cmdSeq (if (s.tun u.val).loaded then 0 else 2))

/-- TEAR_DOWN (R384). -/
def execTearDown (u : TunId) (cmdSeq : BitVec 32) (s : State) : Host.Outcome State Fault Refusal :=
  .next (if (s.tun u.val).loaded then (s.tearDownTun u.val).commandDone u.val cmdSeq 0 else s.commandDone u.val cmdSeq 2)

/-- A record of a tun's job staged for the next step start, or its command refused with a reason (R344). -/
def stageRecord (u : Nat) (cmdSeq : BitVec 32) (ok : Bool) (why : Nat) (f : Tun → Tun) (s : State) : State :=
  let t := s.tun u
  if !t.loaded then s.commandDone u cmdSeq 2
  else if ok then (s.setTun u (f t)).commandDone u cmdSeq 0
  else s.commandDone u cmdSeq why

/-- WRITE_SCHEDULE_RECORD (R201, R344). -/
def execWriteScheduleRecord (u : TunId) (cmdSeq : BitVec 32) (recX : BitVec 512) (s : State) : Host.Outcome State Fault Refusal :=
  .next (stageRecord u.val cmdSeq true 0 (fun t => { t with scheduleNext := some recX }) s)

/-- WRITE_SILENT_LIMIT (R150, R344). -/
def execWriteSilentLimit (u : TunId) (cmdSeq : BitVec 32) (limit : BitVec 16) (s : State) : Host.Outcome State Fault Refusal :=
  .next (stageRecord u.val cmdSeq true 0 (fun t => { t with silentNext := some limit.toNat }) s)

/-- WRITE_GRAVITY_RECORD (R255, R344). -/
def execWriteGravityRecord (u : TunId) (cmdSeq : BitVec 32) (recX : BitVec 512) (s : State) : Host.Outcome State Fault Refusal :=
  .next (stageRecord u.val cmdSeq (gravityOk recX) 19 (fun t => { t with gravityNext := some recX }) s)

/-- WRITE_LOOP_COUNT_ENTRY (R33, R344): entries 1 to 15. -/
def execWriteLoopCountEntry (u : TunId) (cmdSeq : BitVec 32) (entry : Fin 16) (count : BitVec 20) (s : State) : Host.Outcome State Fault Refusal :=
  .next (stageRecord u.val cmdSeq (decide (entry.val ≠ 0)) 27 (fun t => { t with loopNext := t.loopNext.put entry.val count.toNat }) s)

/-- WRITE_LIMITS_RECORD (R212, R344). -/
def execWriteLimitsRecord (u : TunId) (cmdSeq : BitVec 32) (recX : BitVec 512) (s : State) : Host.Outcome State Fault Refusal :=
  .next (stageRecord u.val cmdSeq (limitsOk recX) 18 (fun t => { t with limitsNext := some recX }) s)

/-- UNKNOWN_COMMAND (R344): another code is refused with command done. -/
def execUnknownCommand (u : TunId) (cmdSeq : BitVec 32) (op : BitVec 8) (s : State) : Host.Outcome State Fault Refusal :=
  .next (if 1 ≤ op.toNat ∧ op.toNat ≤ 8 then s else s.commandDone u.val cmdSeq 28)

/-- STATUS_WINDOW_WRITE (R349): an offset past the window's 4 MiB is no address of the device (R334). -/
def execStatusWindowWrite (off : Nat) (w : BitVec 64) (bytes : Fin 9) (s : State) : Host.Outcome State Fault Refusal :=
  if off < 0x400000 then .next (s.windowWrite off bytes.val w) else .fault (.outsideWindow off)

end Sys2Proof.Machine
end

