-- ==== Sys2Proof/Machine/Links.lean ====
section
/-! DEFINITION. The commands of the die-to-die links (R20, R43, R44, R314 to R317, R320, R321, R326, R327). A flit
command names the link, the direction, the lane group and the framing word that arrives there, whose CRC is checked over it and the
payload. -/

namespace Sys2Proof.Machine

/-- DATA_FLIT (R315). -/
def execDataFlit (l : LinkId) (dir : Fin 2) (g : Fin 16) (framing : BitVec 64) (payload : Bytes) (s : State) :
    Host.Outcome State Fault Refusal :=
  let r := s.takeFlit l.val dir.val g.val 1 framing payload
  .next (if r.2 then r.1.transferFlit l.val dir.val (flTag framing) else r.1)

/-- DATA_LAST_FLIT (R315): the transfer's token is set as its last flit is accepted. A last flit whose transfer has others
unacknowledged has not been sent yet. -/
def execDataLastFlit (l : LinkId) (dir : Fin 2) (g : Fin 16) (framing : BitVec 64) (payload : Bytes) (s : State) :
    Host.Outcome State Fault Refusal :=
  .next (if flitCrcOk framing (pad128 payload) && !((s.linkDir l.val dir.val).lastDue framing payload) then s
    else
      let r := s.takeFlit l.val dir.val g.val 2 framing payload
      if r.2 then (r.1.transferEnd l.val dir.val framing).hubSettle else r.1)

/-- IDLE_FLIT (R315). -/
def execIdleFlit (l : LinkId) (dir : Fin 2) (g : Fin 16) (framing : BitVec 64) (s : State) : Host.Outcome State Fault Refusal :=
  .next (s.takeFlit l.val dir.val g.val 0 framing []).1

/-- TOKEN_SET_FLIT (R40, R43, R315): a window or plain token of the destination die. -/
def execTokenSetFlit (l : LinkId) (dir : Fin 2) (g : Fin 16) (framing : BitVec 64) (s : State) :
    Host.Outcome State Fault Refusal :=
  let n := flDst framing
  let u := flTun framing
  let r := s.takeFlit l.val dir.val g.val 3 framing (bytesOfNat 1 n ++ bytesOfNat 2 (flTag framing % 4096))
  .next (if r.2 && decide (n < 8) && r.1.arrived l.val dir.val framing && (r.1.ctx n u).resident then r.1.completeToken n u (flTag framing % 4096) true else r.1)

/-- WINDOW_CREDIT_RETURN (R43): the source die returns the credits of windows it has consumed. -/
def execWindowCreditReturn (l : LinkId) (dir : Fin 2) (g : Fin 16) (framing : BitVec 64) (wins : List (Fin 1024))
    (s : State) : Host.Outcome State Fault Refusal :=
  let r := s.takeFlit l.val dir.val g.val 4 framing (wins.flatMap fun w => bytesOfNat 2 w.val)
  let u := flTun framing
  .next (if r.2 && decide (flSrc framing < 8) && decide (flDst framing ≤ 8) && r.1.arrived l.val dir.val framing
      && (r.1.ctx (flSrc framing) u).resident then
    r.1.windowsBack u (flSrc framing) (flDst framing) (wins.map Fin.val) else r.1)

/-- LINK_CREDIT_RETURN (R315, R316): FL_TAG credits, 1–64. -/
def execLinkCreditReturn (l : LinkId) (dir : Fin 2) (g : Fin 16) (framing : BitVec 64) (s : State) :
    Host.Outcome State Fault Refusal :=
  let r := s.takeFlit l.val dir.val g.val 5 framing []
  .next (if r.2 then r.1.returnCredits l.val dir.val g.val (flTag framing) (flTun framing) else r.1)

/-- MEMORY_READ_REQUEST (R20, R315): the request stands at the owning die until its data returns; a degraded read
counts on the die that holds the unit when its launch takes the bytes. -/
def execMemoryReadRequest (l : LinkId) (dir : Fin 2) (g : Fin 16) (framing : BitVec 64) (addr len : Nat) (s : State) :
    Host.Outcome State Fault Refusal :=
  let r := s.takeFlit l.val dir.val g.val 6 framing (bytesOfNat 8 addr ++ bytesOfNat 8 len)
  let x := r.1.linkDir l.val dir.val
  let inside := addr + len ≤ r.1.cellarSize (flTun framing) (flDst framing) ∧ r.1.arrived l.val dir.val framing
  .next (if r.2 ∧ inside then r.1.setLinkDir l.val dir.val { x with transfers := x.transfers.put (16384 + flTag framing) len }
    else r.1)

/-- MEMORY_READ_DATA (R315): data of a request comes back on the other direction of the link. -/
def execMemoryReadData (l : LinkId) (dir : Fin 2) (g : Fin 16) (framing : BitVec 64) (data : Bytes) (s : State) :
    Host.Outcome State Fault Refusal :=
  let r := s.takeFlit l.val dir.val g.val 7 framing data
  let x := r.1.linkDir l.val (1 - dir.val)
  let k := 16384 + flTag framing
  .next (if r.2 then
    match x.transfers.find k with
    | none => r.1
    | some left => (r.1.setLinkDir l.val (1 - dir.val)
        { x with transfers := if left ≤ data.length then x.transfers.erase k else x.transfers.put k (left - data.length) }).hubSettle
    else r.1)

/-- MEMORY_WRITE (R20, R315): bytes of a tun-local cellar address written by the owning die, when they have come there over
the ring link of two neighbours or the hub links of others; at HD they pass on. -/
def execMemoryWrite (l : LinkId) (dir : Fin 2) (g : Fin 16) (framing : BitVec 64) (addr : Nat) (data : Bytes) (s : State) :
    Host.Outcome State Fault Refusal :=
  let r := s.takeFlit l.val dir.val g.val 8 framing (bytesOfNat 8 addr ++ data)
  .next (if r.2 && decide (flDst framing < 8) && r.1.arrived l.val dir.val framing then
      r.1.remoteWrite (flSrc framing) (flTun framing) (flDst framing) addr data else r.1)

/-- ISSUE_COUNT (R44, R315): a die's count at one of the tun's other dies. A die sends its count after every 64 issues, so what
arrives is a multiple of 64 that the die has reached; another number was never sent, and an older count than the one held is
not taken. -/
def execIssueCount (l : LinkId) (dir : Fin 2) (g : Fin 16) (framing : BitVec 64) (count : Nat) (s : State) :
    Host.Outcome State Fault Refusal :=
  let r := s.takeFlit l.val dir.val g.val 10 framing (bytesOfNat 1 (flSrc framing) ++ bytesOfNat 8 count)
  let d := flDst framing
  let u := flTun framing
  let src := flSrc framing
  let c := r.1.ctx d u
  .next (if r.2 && decide (d < 8) && decide (src < 8) && r.1.arrived l.val dir.val framing && c.resident && d != src && count % 64 == 0
      && decide (count ≤ (r.1.ctx src u).issue) then
    r.1.setCtx d u { c with peers := c.peers.put src (max count (Tbl.get 0 c.peers src)) } else r.1)

/-- REPLAY_REQUEST (R316): the sender sends again from FL_TAG. -/
def execReplayRequest (l : LinkId) (dir : Fin 2) (g : Fin 16) (framing : BitVec 64) (s : State) :
    Host.Outcome State Fault Refusal :=
  let r := s.takeFlit l.val dir.val g.val 11 framing []
  .next (if r.2 then r.1.replayFrom l.val dir.val g.val (flTag framing % 256) else r.1)

/-- FLIT_CRC_ERROR (R315, R316, R326). -/
def execFlitCrcError (l : LinkId) (dir : Fin 2) (g : Fin 16) (seq : BitVec 8) (s : State) : Host.Outcome State Fault Refusal :=
  .next (if g.val < linkGroups l.val then s.badFlit l.val dir.val g.val seq.toNat else s)

/-- CONTROL_FLIT (R317): the first good copy is taken. -/
def execControlFlit (l : LinkId) (dir : Fin 2) (copyA copyB : Bytes) (s : State) : Host.Outcome State Fault Refusal :=
  .next (s.controlFlit l.val dir.val copyA copyB)

/-- LANE_GROUP_FAULT (R326): the group is stopped and its retry buffer held until its lane test. -/
def execLaneGroupFault (l : LinkId) (dir : Fin 2) (g : Fin 16) (s : State) : Host.Outcome State Fault Refusal :=
  let x := s.linkDir l.val dir.val
  .next (if g.val < linkGroups l.val && !((x.group g.val).retired) && !x.off then
    s.setLinkDir l.val dir.val (x.setGroup g.val (x.group g.val).stop) else s)

/-- LANE_TEST_DONE (R327, R328, R330): bad holds the lanes that failed. -/
def execLaneTestDone (l : LinkId) (dir : Fin 2) (g : Fin 16) (bad : BitVec 74) (pausedNs : Nat) (s : State) :
    Host.Outcome State Fault Refusal :=
  .next (s.laneTested l.val dir.val g.val bad pausedNs).hubSettle

/-- DISCOVERY_SEED (R320): a seed that the hub has sent reaches a die during a start; the first goes to port 0, and the others are those of
the dies not indexed after 10 µs. An index that comes from a seed at another port than 0 is noted. -/
def execDiscoverySeed (d : DieId) (c : Fin 8) (s : State) : Host.Outcome State Fault Refusal :=
  .next (if s.pwr.state = .starting ∧ (d.val = 0 ∨ s.links.seedsSent.contains d.val) then
    let s := { s with links := { s.links with seedsSent := if s.links.seedsSent.contains d.val then s.links.seedsSent else d.val :: s.links.seedsSent } }
    s.learnIndex d.val c.val fun x => { x with seeded := x.seeded || (d.val != 0 && x.index.isNone) } else s)

/-- RING_TOKEN (R320): a token reaches side port 0 or 1 of a die; one at side port 1 has travelled clockwise. -/
def execRingToken (d : DieId) (side : Fin 2) (h : Fin 8) (s : State) : Host.Outcome State Fault Refusal :=
  .next (if s.pwr.state = .starting then
    s.learnIndex d.val h.val fun x =>
      if side.val = 1 then { x with cw := true }
      else { x with acw := x.acw || x.index.isNone || x.index == some h.val }
    else s)

/-- DIRECT_SEED_TIMER (R320): 10 µs after the first seed the hub seeds every die that is not indexed. -/
def execDirectSeedTimer (s : State) : Host.Outcome State Fault Refusal :=
  .next (if s.pwr.state = .starting then
    let ns := (List.range 8).filter fun n => (s.found n).index.isNone
    { s with links := { s.links with seedsSent := s.links.seedsSent ++ ns } } else s)

/-- IDENTITY_REPORT (R321, R370). -/
def execIdentityReport (d : DieId) (rec' : BitVec 512) (nonce : Bytes) (s : State) : Host.Outcome State Fault Refusal :=
  .next (if s.pwr.state = .starting then s.identity d.val rec' nonce else s)

end Sys2Proof.Machine
end

