-- ==== Sys2Proof/Machine/MemOps.lean ====
section
/-! DEFINITION. Errors and repairs of the memories (R162, R164, R166 to R174): rows and device addresses, row fences of
cellar, the failure of an interface, and the rebuild of its parity group. -/

namespace Sys2Proof.Machine

/-! ### Rows and addresses -/

/-- The level of a local address: 0 scratchpad, 1 and 2 the loft dies; none outside the memories (R152, R154). -/
def localLvl (a : Nat) : Option Nat :=
  if a < 2 ^ 28 then some 0
  else if 2 ^ 32 ≤ a ∧ a < 2 ^ 32 + 0x60000000 then some 1
  else if 2 ^ 32 + 2 ^ 31 ≤ a ∧ a < 2 ^ 32 + 2 ^ 31 + 0x60000000 then some 2
  else none

/-- The row of 8 KiB of a bank that holds a local address (R174, R179). -/
def localRow (a lvl : Nat) : RowRepair :=
  { lvl := lvl, unit := if lvl = 0 then a / 64 % 64 else a / 64 % 32, row := if lvl = 0 then a / 2 ^ 19 else a % 2 ^ 31 / 2 ^ 18 }

/-- The device address of a local address of die n (R162). -/
def deviceAddr (n a : Nat) : Nat :=
  if a < 2 ^ 32 then 0x041000000000 + n * 2 ^ 28 + a else 0x040000000000 + n * 2 ^ 32 + (a - 2 ^ 32)

/-- The keeper of a memory's domain: scratchpad banks, a loft die (R25). -/
def memKeeper (r : RowRepair) : Nat := if r.lvl = 0 then 21 + r.unit / 16 else 29 + r.lvl

/-- Whether a row exists (R179). -/
def RowRepair.inBounds (r : RowRepair) : Bool :=
  match r.lvl with
  | 0 => decide (r.unit < 64) && decide (r.row < 512)
  | 1 | 2 => decide (r.unit < 32) && decide (r.row < 6144)
  | _ => decide (r.unit < 6) && decide (r.row < 8388608)

/-! ### The failure of an interface (R167, R171, R173) -/

/-- The runs of every tun in a group, of class 0. -/
def State.looseRuns (s : State) (pg : Nat) : List Run :=
  (List.range 32).flatMap fun u => (s.runsOf u).filter fun r => r.pg == pg && r.cls == 0

/-- The stripes of a granule (R163). -/
def granuleStripes (g : Nat) : Nat := if g = 21845 then 4096 else 12288

/-- The bytes of an interface that a run covers: where they begin and how many they are. -/
def Run.span (r : Run) : Nat × Nat :=
  (r.first * 12288 * 256, ((r.first + r.count - 1) * 12288 + granuleStripes (r.first + r.count - 1) - r.first * 12288) * 256)

/-- A range of cellar that reads as zero until it is written (R171). -/
def Cellar.lose (c : Cellar) (a n : Nat) : Cellar :=
  { c with mem := c.mem.zeroRange a n, keys := c.keys.filter fun p => !(decide (a / 64 ≤ p.1) && decide (p.1 < (a + n) / 64)),
           zeros := c.zeros ++ [(a, n)] }

/-- The switch to degraded mapping: the partial parity of open stripes is discarded, the lost units of loose granules
read as zero, and those granules are marked rebuilt (R167, R171). -/
def State.degrade (s : State) (pg pos : Nat) : State :=
  let loose := s.looseRuns pg
  let s := (List.range 2).foldl (fun (s : State) h =>
    let d := s.die (2 * pg + h)
    s.setDie (2 * pg + h) { d with stripes := d.stripes.filter fun p => p.1 / 2 ^ 28 != pg }) s
  let s := { s with cellar := loose.foldl (fun (c : Cellar) (r : Run) => c.lose ((12 * pg + pos) * 2 ^ 36 + r.span.1) r.span.2) s.cellar }
  s.setGroup pg { state := .rebuilding, failed := some pos,
                  early := loose.flatMap fun (r : Run) => (List.range r.count).map fun i => r.first + i }

/-- An interface fails (R171, R173, R406): every tun with a run in its group spoils; a group that was whole goes to degraded
mapping, and the slice plans of those tuns' dies that hold a sealed tun are suspended; any other group cannot absorb it. An
interface of a dark die, or one that is fenced already, is out of use. -/
def State.interfaceFails (s : State) (i : Nat) : State :=
  let n := i / 6
  let pg := i / 12
  let g := s.group pg
  if g.failed = some (i % 12) ∨ g.state = .fenced ∨ (s.found n).state = .dark then s
  else
    let s := (s.tunsIn pg).foldl (fun s u => s.spoilAll u) s
    let d := s.die n
    let s := s.setDie n { d with memStat := { d.memStat with failedCi := i } }
    let s := { s with cellar := { s.cellar with failed := s.cellar.failed ++ [i] } }
    if g.state = .whole then ((s.degrade pg (i % 12)).suspendDies (s.tunsIn pg)).absorbed 3 n i else s.groupLost pg n i

/-! ### Rebuild (R172, R173) -/

/-- How many of the stripes from s0 on, n of them, hold their parity on die h and a data unit at position pos: the units
rebuilt there. -/
def parityCount (h pos n : Nat) : Nat :=
  let at' (j : Nat) : Nat := if parityPos j / 6 = h ∧ parityPos j ≠ pos then 1 else 0
  n / 12 * ((List.range 12).foldl (fun x j => x + at' j) 0) + (List.range (n % 12)).foldl (fun x j => x + at' j) 0

/-- Rebuilt stripes counted on the dies that hold the units. -/
def State.countRebuilt (s : State) (pg : Nat) (k : Nat → Nat) : State :=
  (List.range 2).foldl (fun (s : State) h =>
    let d := s.die (2 * pg + h)
    s.setDie (2 * pg + h) { d with memStat := { d.memStat with rebuiltStripes := d.memStat.rebuiltStripes + k h } }) s

/-- The next granule in ascending order that is not rebuilt, with fuel for those that are. -/
def nextGranule (early : List Nat) : Nat → Nat → Nat
  | 0, g => g
  | fuel + 1, g => if early.contains g then nextGranule early fuel (g + 1) else g

/-- A group with one more granule rebuilt, and which it was: a granule that a write demands goes first. -/
def ParityGroup.rebuild (g : ParityGroup) : ParityGroup × Nat :=
  let wanted := g.demand.filter fun x => decide (g.rebuilt ≤ x) && !(g.early.contains x)
  let now := wanted.headD (nextGranule g.early g.early.length g.rebuilt)
  let early := now :: g.early
  let upTo := nextGranule early early.length g.rebuilt
  ({ g with rebuilt := upTo, early := early.filter fun x => decide (upTo ≤ x), demand := wanted.filter fun x => x != now }, now)

/-- Freezing copies that wait for a granule are tried again in the steps that run (R172, R205). -/
def State.retryFreezes (s : State) (pg : Nat) : State :=
  (s.tunsIn pg).foldl (fun (s : State) u => (s.diesOf u).foldl (fun (s : State) n =>
    let c := s.ctx n u
    if c.upd.toFreeze.isEmpty || (c.hold && !c.closed) then s else s.freezeCopies n u) s) s

/-- The rebuilder finishes a granule; with the last one the group is exposed. In deep idle it pauses. -/
def State.rebuildGranule (s : State) (pg : Nat) : State :=
  let g := s.group pg
  if g.state ≠ .rebuilding ∨ s.pwr.state = .deepIdle ∨ !(s.groupLinked pg) then s
  else
    let r := g.rebuild
    let s := if r.2 < 21846 then s.countRebuilt pg fun h => parityCount h (g.failed.getD 12) (granuleStripes r.2) else s
    let s := s.setGroup pg r.1
    let s := s.retryWrites.retryFreezes pg
    if 21846 ≤ r.1.rebuilt then s.expose pg else s

/-! ### The parity units (R164 to R166) -/

/-- The unit of 256 bytes of a stripe at a position, as stored. -/
def State.storedUnit (s : State) (pg st pos : Nat) : Bytes :=
  (List.range 4).flatMap fun i => s.cellar.stored s.cellarKey (((12 * pg + pos) * 2 ^ 36 + st * 256) / 64 + i)

/-- What the parity unit of a stripe that is not open holds: the XOR of its eleven data units as stored. Guarded writes and
the assembler keep it so, and no command sees a stripe between a write and its parity (log entry 94). -/
def State.parityUnit (s : State) (pg st : Nat) : Bytes :=
  ((List.range 12).filter fun q => q != parityPos st).foldl (fun x q => xorBytes x (s.storedUnit pg st q)) (List.replicate 256 0)

/-- The partial parity of an open stripe (R166): the XOR of the units that its mask says are written. -/
def State.partialParity (s : State) (pg st mask : Nat) : Bytes :=
  ((List.range 12).filter fun q => mask / 2 ^ q % 2 == 1).foldl (fun x q => xorBytes x (s.storedUnit pg st q)) (List.replicate 256 0)

/-- A unit of a protected stripe found from the eleven others (R170, R171): the parity and the ten other data units. -/
def State.reconstruct (s : State) (pg st pos : Nat) : Bytes :=
  ((List.range 12).filter fun q => q != parityPos st && q != pos).foldl (fun x q => xorBytes x (s.storedUnit pg st q)) (s.parityUnit pg st)

/-! ### Row fences of cellar (R174) -/

/-- A row of a cellar interface is fenced: its 32 stripes are rebuilt into their parity units and have no parity any
more. A seventeenth fence of an interface is its failure. In a group without parity nothing can be rebuilt, and the row
stays in use. -/
def State.fenceRow (s : State) (n pos row : Nat) : State :=
  let d := s.die n
  let pg := n / 2
  if d.rowFences.contains (pos, row) ∨ (s.group pg).state ≠ .whole then s
  else if 16 ≤ (d.rowFences.filter fun p => p.1 == pos).length then s.interfaceFails (6 * n + pos)
  else
    let q := pos + 6 * (n % 2)
    let s := s.setDie n { d with rowFences := d.rowFences ++ [(pos, row)] }
    let s := s.countRebuilt pg fun h => ((List.range 32).filter fun i =>
      let p := parityPos (32 * row + i)
      p / 6 == h && p != q).length
    s.logRepair 0x11 (rowRecord n { lvl := 3, unit := pos, row := row } false)

/-- Whether a place's stripe has no protection left: its group degraded, exposed or fenced, its row fenced, its stripe
open, or its parity on a lost die (R166, R170, R173, R405). -/
def State.unprotected (s : State) (l : Loc) : Bool :=
  (s.group l.pg).state != .whole || s.stripeFenced l.pg l.stripe || (s.found (stripeDie l.pg l.stripe)).state == .dark
    || (s.die (stripeDie l.pg l.stripe)).stripes.any fun p => p.1 == stripeKey l.pg l.stripe

/-! ### Uncorrectable words (R170) -/

/-- A statistics slot with its word i rewritten as zero (R133, R170). -/
def StatSlot.zeroWord (t : StatSlot) (i : Nat) : StatSlot :=
  match i with
  | 0 => { t with amax := 0 }
  | 1 => { t with hmax := 0 }
  | 2 => { t with valid := 0, head := 0, nan := false, pushed := false, prevValid := 0 }
  | 3 => { t with overs := 0 }
  | 4 => { t with over2 := 0 }
  | 5 => { t with under := 0 }
  | 6 => { t with disp0 := 0 }
  | 7 => { t with disp1 := 0 }
  | _ => if 16 ≤ i ∧ i < 32 then { t with hist := t.hist.put (i - 16) 0 } else t

/-- A step record with its word i rewritten as zero (R170, R188). -/
def StepRecord.zeroWord (r : StepRecord) (i : Nat) : StepRecord :=
  match i with
  | 0 => { r with t := r.t / 2 ^ 32 * 2 ^ 32 }
  | 1 => { r with t := r.t % 2 ^ 32 }
  | 2 => { r with eta := 0 }
  | 3 => { r with lsScale := 0 }
  | 4 => { r with lsInv := 0 }
  | 5 => { r with k := 0 }
  | 6 => { r with attempt := 0, prevNf := false }
  | 7 => { r with lsClean := 0 }
  | _ => r

/-- A context with the 16-byte word at a local address rewritten as zero, where its statistics table or its step record lies there
(R133, R170, R188). -/
def Ctx.zeroAt (sh : Share) (c : Ctx) (a : Nat) : Ctx :=
  let l := a / 4096 - sh.spLine0
  let b := a / 64 % 64
  let four (i : Nat) : List Nat := (List.range 4).map fun k => i / 4 * 4 + k
  if a < 2 ^ 32 ∧ sh.spLine0 ≤ a / 4096 ∧ l < 16 then
    let off := (64 * l + b) * 64 + a % 64
    { c with stats := Tbl.modify {} c.stats (off / 128) fun t => (four (off % 128 / 4)).foldl StatSlot.zeroWord t }
  else if a < 2 ^ 32 ∧ sh.spLine0 ≤ a / 4096 ∧ l = 16 ∧ b = 0 then
    { c with stepRec := (four (a % 64 / 4)).foldl StepRecord.zeroWord c.stepRec }
  else c

/-- An uncorrectable word of scratchpad or loft that was consumed: the step spoils, the word is rewritten as zero and its
row queued. -/
def State.localUe (s : State) (n u a : Nat) (r : RowRepair) : State :=
  let d := s.die n
  let s := s.setDie n { d with mem := d.mem.zeroRange (a / 16 * 16) 16 }
  let s := (if (s.ctx n u).resident then s.setCtx n u ((s.ctx n u).zeroAt (s.share u) a) else s).spoil n u
  let x := s.noteUe u (deviceAddr n (a / 16 * 16))
  let s := x.1.queueRow n r
  if x.2 then s.handle 10 n (memKeeper r) (some u) else s.fault 6 n (memKeeper r) 0

/-- The count of an uncorrectable word, and its device address (R180). -/
def MemStat.ue (m : MemStat) (lvl addr : Nat) : MemStat :=
  match lvl with
  | 0 => { m with spUe := m.spUe + 1, lastUeAddr := addr }
  | 1 | 2 => { m with loftUe := m.loftUe + 1, lastUeAddr := addr }
  | _ => { m with cellarUe := m.cellarUe + 1, lastUeAddr := addr }

/-- The count of a corrected word (R180). -/
def MemStat.ce (m : MemStat) (lvl : Nat) : MemStat :=
  match lvl with
  | 0 => { m with spCe := m.spCe + 1 }
  | 1 | 2 => { m with loftCe := m.loftCe + 1 }
  | _ => { m with cellarCe := m.cellarCe + 1 }

/-- A die's memory counters changed. -/
def State.noteMem (s : State) (n : Nat) (f : MemStat → MemStat) : State :=
  let d := s.die n
  s.setDie n { d with memStat := f d.memStat }

/-- An uncorrectable word of cellar that was consumed (R170): with its stripe protected the unit is reconstructed and its
row fenced; without, or where its location fails again in the replay, or with a second unit of the stripe lost, the tun
stops. In a loose run the replay rewrites it. -/
def State.cellarUe (s : State) (n u off : Nat) (second : Bool) : State :=
  match s.cellarAt u n off with
  | none => s
  | some l =>
    let i := 12 * l.pg + l.pos
    let s := (s.noteMem n fun m => m.ue 3 l.addr).spoil n u
    let x := s.noteUe u l.addr
    let s := x.1
    if x.2 || (l.cls != 0 && (second || s.unprotected l)) then (s.fenceRow (i / 6) (i % 6) (l.stripe / 32)).handle 10 n i (some u)
    else
      let s := if l.cls = 0 then s else s.noteMem n fun m => { m with reconstructs := m.reconstructs + 1 }
      (s.fenceRow (i / 6) (i % 6) (l.stripe / 32)).fault 6 n i 0

/-- A line of loft that a fetch or the sketch cache could not read is fetched again from its cellar master, and its row is
queued; a fetch waits cycles whose number is a free value (R170). -/
def State.refetch (s : State) (n u : Nat) (r : RowRepair) (fetch : Bool) : State :=
  let s := (s.queueRow n r).fault 6 n (memKeeper r) 0
  if fetch && (s.ctx n u).resident then
    let w := 1 + Config.openNat 14 s.draws
    let c := s.ctx n u
    let s := s.draw.setCtx n u { c with stall := { c.stall with fetch := c.stall.fetch + w } }
    s.setDie n { s.die n with cycle := (s.die n).cycle + w }
  else s

/-- An uncorrectable word, by where it was found (R170). -/
def State.uncorrectable (s : State) (n u : Nat) (site : UeSite) (addr : Nat) (second : Bool) : State :=
  if (s.found n).state = .dark then s
  else
    match site with
    | .scratchpad | .loft =>
      match localLvl addr with
      | some lvl => if (lvl = 0) = (site = .scratchpad) then
            (s.noteMem n fun m => m.ue lvl (deviceAddr n (addr / 16 * 16))).localUe n u addr (localRow addr lvl)
          else s
      | none => s
    | .fetch | .sketchCache =>
      match localLvl addr with
      | some lvl => if lvl = 0 then s
          else (s.noteMem n fun m => m.ue lvl (deviceAddr n (addr / 16 * 16))).refetch n u (localRow addr lvl) (decide (site = .fetch))
      | none => s
    | .context =>
      if (s.ctx n u).resident then
        let s := s.spoil n u
        let x := (s.setCtx n u { s.ctx n u with rebuild := true }).noteUe u (2 ^ 59 + 2 ^ 48 * n + addr)
        if x.2 then x.1.handle 10 n 39 (some u) else x.1.fault 6 n 39 0
      else s
    | .cellar => s.cellarUe n u addr second
    | .staging =>
      let x := (s.spoilAll u).noteUe u (0x042000000000 + addr % 2 ^ 28)
      if x.2 then x.1.handle 10 8 16 (some u) else x.1.fault 6 8 16 0

/-! ### Corrected words (R168, R169) -/

/-- The unit that a class 5 fault names: a keeper, or the interface. -/
def ceUnit (n : Nat) (r : RowRepair) : Nat := if r.lvl = 3 then 6 * n + r.unit else memKeeper r

/-- A corrected word is written back and counted; a second one in its row within 24 hours has the row repaired. -/
def State.corrected (s : State) (n : Nat) (r : RowRepair) : State :=
  if !r.inBounds || (s.found n).state == .dark then s
  else
    let s := (s.noteMem n fun m => m.ce r.lvl).fault 5 n (ceUnit n r) 0
    let d := s.die n
    let seen := d.ceSeen.filter fun p => decide (s.nowPs ≤ p.2 + 86400 * 10 ^ 12)
    if seen.any fun p => p.1 == r then
      let s := s.setDie n { d with ceSeen := seen.filter fun p => p.1 != r }
      if r.lvl = 3 then s.fenceRow n r.unit r.row else s.queueRow n r
    else s.setDie n { d with ceSeen := seen ++ [(r, s.nowPs)] }

/-- A scrub read of the next line of every bank, or unit of every interface, of a level (R152, R154, R164, R169). -/
def Die.scrub (d : Die) (lvl : Nat) : Die :=
  match lvl with
  | 0 => { d with scrubSp := (d.scrubSp + 1) % 65536 }
  | 1 => { d with scrubLoftA := (d.scrubLoftA + 1) % 786432 }
  | 2 => { d with scrubLoftB := (d.scrubLoftB + 1) % 786432 }
  | _ => { d with scrubCellar := (d.scrubCellar + 1) % 2 ^ 28 }

end Sys2Proof.Machine
end

