-- ==== Sys2Proof/Machine/MemFaults.lean ====
section
/-! DEFINITION. The commands of the memories' errors and repairs (R169 to R174). -/

namespace Sys2Proof.Machine

/-- UNCORRECTABLE_ERROR (R170): an uncorrectable word is handled by where it was found. The address is local to the die
for scratchpad and loft, and tun-local for cellar; second tells that another unit of the stripe cannot be read either. -/
def execUncorrectableError (d : DieId) (u : TunId) (site : UeSite) (addr : Nat) (second : Bool) (s : State) :
    Host.Outcome State Fault Refusal := .next (s.uncorrectable d.val u.val site addr second)

/-- CORRECTABLE_ERROR (R169): a corrected word, by its row. -/
def execCorrectableError (d : DieId) (lvl : Fin 4) (unit : Fin 64) (row : Nat) (s : State) :
    Host.Outcome State Fault Refusal := .next (s.corrected d.val { lvl := lvl.val, unit := unit.val, row := row })

/-- SCRUB_TICK (R169): the next scrub read of a level; what it finds is told by CORRECTABLE_ERROR. -/
def execScrubTick (d : DieId) (lvl : Fin 4) (s : State) : Host.Outcome State Fault Refusal :=
  .next (s.setDie d.val ((s.die d.val).scrub lvl.val))

/-- CELLAR_INTERFACE_FAILURE (R171, R173). -/
def execCellarInterfaceFailure (i : Fin 48) (s : State) : Host.Outcome State Fault Refusal :=
  .next (s.interfaceFails i.val)

/-- REBUILD_GRANULE (R172, R173): the rebuilder finishes a granule. -/
def execRebuildGranule (pg : Fin 4) (s : State) : Host.Outcome State Fault Refusal := .next (s.rebuildGranule pg.val)

end Sys2Proof.Machine
end

