-- ==== Sys2Proof/Machine/Movers.lean ====
section
/-! DEFINITION. The commands of the data movers (R37, R159, R160, R176, R177, R230). -/

namespace Sys2Proof.Machine

/-- LAUNCH (R37, R160): a slice with MOV_OP 0b01 on mover m. -/
def execLaunch (d : DieId) (m : Fin 4) (s : State) : Host.Outcome State Fault Refusal :=
  .next (s.sliceCommand d.val fun sl => movOp sl m.val == 1)

/-- LAUNCH_AFTER (R37): a slice with MOV_OP 0b10 on mover m. -/
def execLaunchAfter (d : DieId) (m : Fin 4) (s : State) : Host.Outcome State Fault Refusal :=
  .next (s.sliceCommand d.val fun sl => movOp sl m.val == 2)

/-- MOVER_COMPLETION (R160): the last byte of the launch of a tun's slot arrives. -/
def execMoverCompletion (d : DieId) (u : TunId) (slot : Fin 512) (s : State) : Host.Outcome State Fault Refusal :=
  .next (s.movComplete d.val u.val slot.val)

/-- TOKEN_COMPLETION (R40, R42): a completion, or an arrival from outside the die, sets a token. -/
def execTokenCompletion (d : DieId) (u : TunId) (tok : Fin 4096) (remote : Bool) (s : State) : Host.Outcome State Fault Refusal :=
  .next (if (s.ctx d.val u.val).resident then s.completeToken d.val u.val tok.val remote else s)

/-- GRANARY_FLUSH_READ_RETURN (R177): the zero-length read behind a granary write returns. -/
def execGranaryFlushReadReturn (d : DieId) (u : TunId) (slot : Fin 512) (s : State) : Host.Outcome State Fault Refusal :=
  .next (s.flushReturn d.val u.val slot.val)

/-- GRANARY_PAGE_READ_RETURN (R170, R176): a page of a granary read returns from the host, with its tag record. -/
def execGranaryPageReadReturn (d : DieId) (u : TunId) (slot : Fin 512) (page : Nat) (ct : Bytes) (tagRec : BitVec 256)
    (error : Bool) (s : State) : Host.Outcome State Fault Refusal :=
  .next (s.pageReturn d.val u.val slot.val page ct tagRec error).fillPages.hubSettle

/-- SEGMENT_SLOT_TAKE (R229, R230): the next segment of a contribution piece takes a hub staging slot. -/
def execSegmentSlotTake (d : DieId) (u : TunId) (slot : Fin 512) (s : State) : Host.Outcome State Fault Refusal :=
  .next (s.slotTake d.val u.val slot.val)

end Sys2Proof.Machine
end

