-- ==== Sys2Proof/Machine/StartOps.lean ====
section
/-! DEFINITION. The start of the device (R71, R72, R179, R319 to R325, R330, R355 to R366, R378, R408, R422) and its
restarts. -/

namespace Sys2Proof.Machine

/-! ### What a restart keeps -/

/-- A die with its counters alone, which only a power-on clears (R82, R180), and the transients of its columns, which count over
the device's life (R78). -/
def Die.counted (d : Die) : Die :=
  { transients := d.transients,
    arr := { d.arr with presented := 0x80, sparesFree := 4, fenced := false, lastCol := 0, lastRow := 0, lastPerm := false },
    memStat := { d.memStat with failedCi := 0x3F, rebuildShare := 2, lastUeAddr := 0 } }

/-- A link direction with its counters alone (R332). -/
def LinkDir.counted (x : LinkDir) : LinkDir :=
  { flits := x.flits, crcErr := x.crcErr, replays := x.replays, repairs := x.repairs, halfEvents := x.halfEvents,
    retiredCount := x.retiredCount, repairNs := x.repairNs, borrowed := x.borrowed }

/-- A MAC with its counters alone (R310). -/
def Mac.counted (m : Mac) : Mac := { counters := m.counters, half := m.half, rxRem := m.rxRem, txRem := m.txRem }

/-- The power and fault blocks with their counters alone, and what the sensors read (R411, R412). -/
def Pwr.counted (p : Pwr) : Pwr :=
  { sensors := p.sensors, throttleCycles := p.throttleCycles, estops := p.estops, estopNsMax := p.estopNsMax,
    deepIdleMs := p.deepIdleMs, faults := p.faults, absorbedNsMax := p.absorbedNsMax }

/-- The security block with its counters and the tamper latch alone (R383, R386). -/
def Sec.counted (x : Sec) : Sec :=
  { tamper := x.tamper, sigFail := x.sigFail, secretRefused := x.secretRefused, spdmErrors := x.spdmErrors,
    teardowns := x.teardowns, dieBindFail := x.dieBindFail }

/-- The device at reset release: the flash, the time, the tamper latch, the counters that only a power-on clears, what stands
at its pins and the interfaces and dies that have failed remain (R82, R173, R180, R310, R332, R336, R383, R386, R411, R412). -/
def State.restarted (s : State) : State :=
  { State.reset with
    pending := s.pending, nowPs := s.nowPs, draws := s.draws, flash := { s.flash with compacting := false, octal := false },
    dies := s.dies.mapVals Die.counted, cellar := { State.reset.cellar with failed := s.cellar.failed },
    net := { State.reset.net with macs := s.net.macs.mapVals Mac.counted },
    links := { State.reset.links with dirs := s.links.dirs.mapVals LinkDir.counted, lost := s.links.lost },
    pwr := s.pwr.counted, sec := s.sec.counted,
    pins := { State.reset.pins with estop := s.pins.estop, inBand := s.pins.inBand },
    host := { State.reset.host with startedPs := s.nowPs } }

/-! ### The repair map and the tests (R71, R72, R179, R330) -/

/-- The bad columns of an ARR_REPAIR record (R72): ARR_BAD_MAP. Its ARR_PRESENTED is what these leave, and is worked out again after
the tests of the start (R71). -/
def arrBad {w : Nat} (r : BitVec w) : List Nat := (List.range 132).filter fun q => flag r q

/-- ARR_DIE. -/
def arrDie {w : Nat} (r : BitVec w) : Nat := field r 140 3

/-- The bad columns of a die in the image and the log. -/
def mapColumns (c : FlashCopy) (l : List RepairEntry) (n : Nat) : List Nat :=
  let all := ((c.arrRepair.filter fun r => arrDie r == n).flatMap arrBad)
    ++ (l.filter fun e => e.type == 0x10 && arrDie e.body == n).flatMap fun e => arrBad e.body
  (List.range 132).filter fun q => all.contains q

/-- A die's columns after its tests: spares take over up to four, and each further one narrows the array. Newly bad
columns go to the log, and below 64 presented columns the die takes a compute fence. -/
def State.startColumns (s : State) (c : FlashCopy) (f : StartFinds) (n : Nat) : State :=
  let old := mapColumns c s.flash.repairs n
  let found := (Tbl.get [] f.badColumns n).filter fun q => decide (q < 132)
  let bad := (List.range 132).filter fun q => old.contains q || found.contains q
  let d := s.die n
  let w := 128 - (bad.length - 4)
  let s := s.setDie n { d with badMap := bad, arr := { d.arr with presented := w, sparesFree := 4 - bad.length } }.gateSpares
  let s := if bad.length = old.length then s else s.logArray n
  if (s.die n).lost then s
  else if w < 64 then s.fenceStart n 5 false
  else if f.dieFaults.contains n then s.fenceStart n 6 false
  else s

/-- The lanes of a group marked bad by records. -/
def badLanesOf (rs : List Nat) (l dir g : Nat) : BitVec 74 :=
  rs.foldl (fun x r => if r % 16 = l ∧ r / 16 % 2 = dir ∧ r / 32 % 16 = g then x ||| BitVec.ofNat 74 (2 ^ (r / 512 % 128)) else x) 0

/-- A link direction at its lane tests: its counters, and what its control lanes have shown and what is off so far (R317, R324, R332). -/
def LinkDir.tested (x : LinkDir) : LinkDir :=
  { x.counted with off := x.off, ctlDegraded := x.ctlDegraded, ctlRerouted := x.ctlRerouted, ctlLost := x.ctlLost, ctlIn := x.ctlIn }

/-- A link direction after its lane tests: each group by its good lanes and trained, newly bad lanes in the log, roles dealt (R313, R319,
R330). -/
def State.startLink (s : State) (c : FlashCopy) (f : StartFinds) (role : BitVec 64) (l dir : Nat) : State :=
  let known := c.lnkRepair.map (·.toNat) ++ (s.flash.repairs.filter fun e => e.type == 0x12).map fun e => e.body.toNat
  let r := (List.range (linkGroups l)).foldl (fun (r : State × LinkDir) g =>
    let old := badLanesOf known l dir g
    let new := (f.badLanes.filter fun x => x.1 == 2 * l + dir && x.2.1 == g && decide (x.2.2 < 74) && !(flag old x.2.2)).map fun x => x.2.2
    let y := ((r.2.group g).setLanes old).setLanes (new.foldl (fun b i => b ||| BitVec.ofNat 74 (2 ^ i)) 0)
    let s := (r.1.logLanes l dir g old new).draw
    (s, r.2.setGroup g { y with trained := s.draws })) (s, (s.linkDir l dir).tested)
  let n := roleCounts role l
  r.1.setLinkDir l dir (r.2.deal l n.1 n.2.1 n.2.2)

/-- What too few working groups mean at the start (R319): a dark die, or a ring link that is off. -/
def State.startShape (s : State) (l dir : Nat) : State :=
  let n := ((s.linkDir l dir).working l).length
  if l < 8 ∧ n < 3 then (if (s.found l).state = .dark then s else s.fenceStart l 7 true)
  else if 8 ≤ l ∧ n < 2 then s.linkOff l
  else if l < 8 ∧ (((s.linkDir l dir).working l).filter fun g => (s.linkDir l dir).role g == 2).length < 7 then s.deviceEvent 0x32 [l, dir]
  else s

/-- An interface found failed at the start: its group is exposed, and two in a group leave it unusable (R173, R179). -/
def State.startInterface (s : State) (i : Nat) : State :=
  let n := i / 6
  let pos := i % 6 + 6 * (n % 2)
  let g := s.group (n / 2)
  if g.failed = some pos then s
  else
    let two := g.failed.isSome || g.state == .exposed
    let s := s.setGroup (n / 2) { g with state := if two then .fenced else .exposed, failed := some pos, rebuilt := 21846 }
    let d := s.die n
    s.setDie n { d with memStat := { d.memStat with failedCi := i } }

/-- A row-repair record applied (R174, R179): an interface; a spare row in use, where the row is in place; or a fenced row of
cellar, which the memory device's post-package repair mends at this start and the log then holds as done; with the resources of
its interface, whose number is a free value, used up, an event is posted and the row stays fenced. A row with no spare is fenced
by the layout (fencedRows). -/
def State.startRow (s : State) (known : List Nat) (r : Nat) : State :=
  let lvl := r % 4
  let n := r / 4 % 8
  let unit := r / 32 % 64
  let done := r / 2 ^ 34 % 2 = 1
  if r / 2 ^ 35 % 2 = 1 then s.startInterface (6 * n + unit % 6)
  else if lvl = 3 then
    let used := (known.filter fun x => x % 4 == 3 && x / 4 % 8 == n && x / 32 % 64 == unit && x / 2 ^ 34 % 2 == 1).length
    if done ∨ known.contains (r + 2 ^ 34) then s
    else if Config.openNat 24 (6 * n + unit) ≤ used then
      let d := s.die n
      let row := r / 2 ^ 11 % 2 ^ 23
      (s.setDie n { d with rowFences := if d.rowFences.contains (unit, row) then d.rowFences else d.rowFences ++ [(unit, row)] }).deviceEvent
        (Config.openNat 13 0) [n, lvl, unit, row]
    else s.logRepair 0x11 (rowRecord n { lvl := 3, unit := unit, row := r / 2 ^ 11 % 2 ^ 23 } true)
  else if done then
    let d := s.die n
    s.setDie n { d with sparesUsed := Tbl.modify 0 d.sparesUsed (64 * lvl + unit) (· + 1) }
  else s

/-- The row-repair records of a copy and the log. -/
def State.rowRecords (s : State) (c : FlashCopy) : List Nat :=
  (c.rowRepair.map (·.toNat) ++ (s.flash.repairs.filter fun e => e.type == 0x11).map fun e => e.body.toNat).eraseDups

/-- The local rows with no spare: die, level and row (R174). -/
def fencedRows (known : List Nat) : List (Nat × Nat × Nat) :=
  (known.filter fun r => decide (r % 4 < 3) && r / 2 ^ 34 % 4 == 0).map fun r => (r / 4 % 8, r % 4, r / 2 ^ 11 % 2 ^ 23)

/-- A range of lines with the 128 lines of a fenced row left out: of the two parts that remain, the longer one, and the lower
of equals (DESIGN CHOICE, log entry 112). -/
def cutRange (line0 lines row : Nat) : Nat × Nat :=
  if rangesMeet line0 lines (128 * row) 128 then
    let below := 128 * row - line0
    let above := line0 + lines - 128 * (row + 1)
    if above ≤ below then (line0, below) else (128 * (row + 1), above)
  else (line0, lines)

/-- A tun entry whose share has shrunk by the rows that are fenced on its dies (R174). -/
def shrinkEntry (rows : List (Nat × Nat × Nat)) (l : BitVec 1024) : BitVec 1024 :=
  rows.foldl (fun l r =>
    if !((tlDies l).contains r.1) then l
    else if r.2.1 = 0 then
      let c := cutRange (field l 32 16) (field l 48 16) r.2.2
      setField (setField l 32 16 c.1) 48 16 c.2
    else
      let c := cutRange (field l 64 20) (field l 84 20) r.2.2
      setField (setField l 64 20 c.1) 84 20 c.2) l

/-- The record of a failed interface. -/
def ifaceRecord (i : Nat) : BitVec 192 := BitVec.ofNat 192 (3 + i / 6 * 4 + i % 6 * 2 ^ 5 + 2 ^ 34 + 2 ^ 35)

/-- Rows and interfaces from the image, the log and the tests. -/
def State.startRows (s : State) (c : FlashCopy) (f : StartFinds) : State :=
  let known := s.rowRecords c
  let s := known.foldl (fun s r => s.startRow known r) s
  ((s.cellar.failed ++ f.badInterfaces).eraseDups.filter fun i => decide (i < 48)).foldl (fun (s : State) i =>
    let n := i / 6
    if (s.group (n / 2)).failed = some (i % 6 + 6 * (n % 2)) then s
    else
      let s := { s with cellar := { s.cellar with failed := (i :: s.cellar.failed).eraseDups } }
      (s.logRepair 0x11 (ifaceRecord i)).startInterface i) s

/-! ### Discovery and the package level (R320 to R322) -/

/-- What discovery and identity find of a die that has not reported before the start ends: index n, both tokens, the
hub's own feature level (log entry 47). -/
def plainFound (n feature : Nat) : Found :=
  { index := some n, cw := true, acw := true, reported := true,
    record := BitVec.ofNat 512 (1 + n * 2 ^ 4 + feature % 256 * 2 ^ 8 + 2 ^ 96 + 2 ^ 97) }

/-- What discovery and identity have found of a die by the start's end: what has reached it stands, and what has not is as a die without
fault has it (log entry 47). -/
def Found.filled (x : Found) (n feature : Nat) : Found :=
  if x.reported then x
  else
    let y := plainFound n feature
    { y with index := some (x.index.getD n), seeded := x.seeded, record := setField y.record 98 1 (bit x.seeded) }

/-- Dies found, or dark for no answer or for their feature level, or fenced as they were when they were lost in service (R320 to R322,
R325, R405). -/
def State.startDies (s : State) (c : FlashCopy) (f : StartFinds) : State :=
  let s := { s with links := { s.links with hubFeature := c.hubFeature, hubMinDie := c.hubMinDie } }
  (List.range 8).foldl (fun (s : State) n =>
    let x := s.found n
    if x.state = .dark then s
    else if f.silent.contains n then s.fenceStart n 2 true
    else
      let x := x.filled n c.hubFeature
      let s := s.setFound n x
      if field x.record 8 8 < c.hubMinDie ∨ c.hubFeature < field x.record 16 8 then s.fenceStart n 1 true
      else
        match s.links.lost.find n with
        | some v => s.fenceStart n (v % 16) (decide (16 ≤ v))
        | none => s) s

/-- LNK_PKG_FEATURE: the least of the hub's level and the levels of the dies that are not dark, once the start knows which are (R322). -/
def State.startLevel (s : State) : State :=
  let level := (List.range 8).foldl (fun m n =>
    let x := s.found n
    if x.state = .dark then m else min m (field x.record 8 8)) s.links.hubFeature
  { s with links := { s.links with pkgFeature := level } }

/-! ### Measurements (R366) -/

/-- A value the spec does not state, as 64 bytes: the ROM's version and root keys, the form of the repair state. -/
def openDigest (place arg : Nat) : Bytes := (List.range 64).map fun i => Config.openByte place (64 * arg + i)

/-- A register extended with bytes as they are. -/
def State.extendMr (s : State) (i : Nat) (d : Bytes) : State :=
  { s with sec := { s.sec with mrs := s.sec.mrs.put i (extend (s.mr i) d) } }

/-- The registers of a start but the last. -/
def State.measureStart (s : State) (c : FlashCopy) : State :=
  let s := s.extendMr 0 (openDigest 9 0)
  let s := (s.measure 1 c.header).extendMr 1 (BitVec.ofNat 8 c.rootSlot :: sha3_512 c.ownerKey)
  let s := (s.measure 2 c.hubFw).measure 3 c.cdsFw
  let s := c.others.foldl (fun s r => s.measure 4 r) s
  let s := (List.range 8).foldl (fun (s : State) n => s.measure 5 (bytesOfNat 64 (s.found n).record.toNat)) s
  s.measure 5 (BitVec.ofNat 8 s.links.pkgFeature :: bytesOfNat 2 s.dieStates)

/-! ### The start (R361) -/

/-- The network of an image: ports, wake records and the default gauge; ports that have trained are up. -/
def State.startNet (s : State) (c : FlashCopy) (f : StartFinds) : State :=
  let s := { s with net := { s.net with ports := c.ports.getD [], wakes := c.wakes, ptpDomain := c.ptpDomain, ptpOwn := c.ptpOwn.getD [255, 255] } }
  let s := s.macList.foldl (fun (s : State) m =>
    let up := f.portsUp.contains m
    s.setMac m { s.mac m with link := if up then .up else .training, lanes := if up then portLanes (s.port m) else 0 }) s
  match c.gauge with
  | none => s
  | some g =>
    match planRefusal g none 0 true with
    | some r => s.planRefused g r.1 r.2
    | none => { s with net := { s.net with gauge := some g } }

/-- Steps 5 to 8 of a start on a copy: the dies found, the links, the columns and the rows (R320, R361). -/
def State.startFind (s : State) (x : FlashCopy) (f : StartFinds) : State :=
  let role := match x.linkRole with
    | some r => if roleOk r then r else s.links.role
    | none => s.links.role
  let s := { s with links := { s.links with role := role } }
  let s := s.startDies x f
  let dirs := (List.range 32).map fun i => (i / 2, i % 2)
  let s := dirs.foldl (fun s p => s.startLink x f role p.1 p.2) s
  let s := (dirs.foldl (fun s p => s.startShape p.1 p.2) s).checkControls.startLevel
  let s := (List.range 8).foldl (fun s n => s.startColumns x f n) s
  s.startRows x f

/-- The image's layout, power settings and identities in force, the block running and locked (R362, R378). -/
def State.startLoad (s : State) (c : Bool) (x : FlashCopy) : State :=
  { s with
    layout := { tuns := x.layTuns.mapVals (shrinkEntry (fencedRows (s.rowRecords x))), runs := x.layRuns, plans := x.layPlans },
    host := { s.host with copy := c, imageVer := x.version, winState := .running },
    pwr := { s.pwr with state := .run, config := x.power.getD s.pwr.config },
    sec := { s.sec with state := .locked, locked := true, rootSlot := x.rootSlot, certDigest := x.certDigest, certChain := x.certChain,
                        hubFwVersion := x.hubFwVersion, cdsFwVersion := x.cdsFwVersion } }

/-- The last measurement, the time the start took, and its record. -/
def State.startEnd (s : State) (c : Bool) : State :=
  let s := s.measure 6 s.flash.logHalf
  let s := s.extendMr 6 (openDigest 10 s.draws)
  let s := { s.draw with nowPs := s.nowPs + Config.openNat 11 s.draws % 1069 * 10 ^ 9 }
  s.boot 2 c 0

/-- Each tun of the layout that names a lost die is told of it (R345). -/
def State.startTell (s : State) : State :=
  (List.range 32).foldl (fun (s : State) u =>
    match if tlEn (s.lay u) then (s.diesOf u).find? fun n => (s.die n).lost else none with
    | some n => s.event u 0x23 [n, (s.found n).cause]
    | none => s) s

/-- A start on a copy: tests, training, discovery, measurements, the layout and the running state; none where every
compute die is fenced. -/
def State.startOn (s : State) (c : Bool) (f : StartFinds) : Option State :=
  let x := s.flash.copy c
  let s := s.startFind x f
  if (List.range 8).all fun n => (s.die n).lost then none
  else some ((((s.startNet x f).measureStart x).startLoad c x).startEnd c).startTell

/-- A keeper whose domain has no power. -/
def Keeper.unpowered (k : Keeper) : Keeper := { k with power := .powerGated, waking := false, gateReq := none }

/-- Steep mode entered (R357 to R359): its record, and the hub island alone; the compute dies and the Ethernet ports are off. -/
def State.steep (s : State) (cause : Nat) : State :=
  let s := s.boot 4 false cause
  let off (t : Tbl Keeper) (ks : List Nat) : Tbl Keeper := ks.foldl (fun t k => Tbl.modify {} t k Keeper.unpowered) t
  let s := (List.range 8).foldl (fun (s : State) n => s.setDie n { s.die n with keepers := off (s.die n).keepers (List.range 40) }) s
  let s := { s with hubKeepers := off s.hubKeepers ((List.range 16).map (· + 320)) }
  { s with host := { s.host with winState := .steep, cause := cause }, sec := { s.sec with state := .steep },
           pwr := { s.pwr with state := .steep } }

/-- A failed start: its record, and the restart that follows. -/
def State.startFailed (s : State) (c : Bool) (cause : Nat) : State :=
  let s := (s.boot 3 c cause).restarted
  { s with host := { s.host with cause := s.flash.failedCause } }

/-- Whether a copy's helper data can be read, and whether one yields S (R358). -/
def Flash.helper (f : Flash) : Bool := [f.copyA, f.copyB].any fun c => c.readable && c.secKeys
/-- Whether either copy yields S. -/
def Flash.yieldsS (f : Flash) : Bool := [f.copyA, f.copyB].any fun c => c.readable && c.secKeys && c.pufOk

/-- Whether no copy can be read beyond its first record (R356; that this is cause 8 is DESIGN CHOICE, log entry 148). -/
def Flash.unread (f : Flash) : Bool := [f.copyA, f.copyB].all fun c => !(c.readable && c.whole)

/-- S reconstructed, the failed starts counted, and the cause of the last one shown (R350, R357, R358). -/
def State.withS (s : State) : State :=
  { s with sec := { s.sec with seed := some Config.seedS, pufOk := true },
           host := { s.host with fails := s.flash.failCount, cause := s.flash.failedCause } }

/-- A start whose start-begun record names copy c, with the other copies that it may try (R355 to R358). -/
def State.startCopy (s : State) (c : Bool) (rest : List Bool) (f : StartFinds) : State × Bool :=
  if !f.selfTestOk then (s.startFailed c 5, false)
  else
    match (c :: rest).find? fun x => copyCheck (s.flash.copy x) f.serial == 0 with
    | none => (s.startFailed c (copyCheck (s.flash.copy c) f.serial), false)
    | some x =>
      if f.fwFault then (s.startFailed x 3, false)
      else
        match s.startOn x f with
        | none => (s.startFailed x 7, false)
        | some s => (s, true)

/-- One start from reset release: the state it leaves, and whether it is over. -/
def State.startOnce (s : State) (f : StartFinds) : State × Bool :=
  let s : State := { s with flash := { s.flash with octal := true } }
  let bad := ([s.flash.copyA, s.flash.copyB].filter fun c => c.readable && c.whole && !(c.signatureOk && c.endorseOk && c.hubFwOk && c.cdsFwOk)).length
  let s : State := { s with host := { s.host with serial := f.serial }, sec := { s.sec with sigFail := s.sec.sigFail + bad } }
  if f.testMode then ({ s with pins := { s.pins with testMode := true } }, true)
  else if s.sec.tamper || !s.flash.yieldsS then (s.steep (if s.sec.tamper || s.flash.helper then 6 else 1), true)
  else
    let s := s.withS
    if 3 ≤ s.flash.failCount then (s.steep s.flash.lastCause, true)
    else
      match s.tries f.serial, f.lost with
      | [], _ => ((s.boot 1 false 0).startFailed false (if s.flash.unread then 8 else 1), false)
      | c :: _, some after => ((if after then s.boot 1 c 0 else s.bootCut 1 c 0).powerOff, true)
      | c :: rest, none => (s.boot 1 c 0).startCopy c rest f

/-- Starts until one is over: the count bounds them (R357). -/
def startLoop : Nat → StartFinds → State → State
  | 0, _, s => s
  | k + 1, f, s =>
    match s.startOnce f with
    | (s, true) => s
    | (s, false) => startLoop k f s

/-- A start from reset release. -/
def State.start (s : State) (f : StartFinds) : State := startLoop 5 f s

/-- A full restart. -/
def State.restart (s : State) (f : StartFinds) : State := s.restarted.start f

/-- Whether the islands are powered. -/
def State.powered (s : State) : Bool := s.pwr.state != .off

/-- The watchdog of a start (R357): a start-begun and a start-failed record of cause 4, and a restart. A start in test mode
writes none (R422). -/
def State.startLate (s : State) : State :=
  if s.pwr.state ≠ .starting || s.pins.testMode || s.sec.tamper || !s.flash.yieldsS || decide (3 ≤ s.flash.failCount) then s
  else
    let s := { s with nowPs := max s.nowPs (s.host.startedPs + 10 ^ 13), sec := { s.sec with seed := some Config.seedS, pufOk := true } }
    let c := (s.tries s.host.serial).headD false
    (s.boot 1 c 0).startFailed c 4

/-- A copy written by the board management controller (R362): never the copy in use; one that checks is recorded as staged,
one that does not is answered with a refusal. -/
def State.flashWrite (s : State) (c : Bool) (x : FlashCopy) : State :=
  if !s.powered then s
  else if s.host.winState == .running && s.host.copy == c then { s with pins := { s.pins with i3cReply := [1] } }
  else
    let s := { s with flash := if c then { s.flash with copyB := x } else { s.flash with copyA := x } }
    if s.copyValid x s.host.serial then ({ s with pins := { s.pins with i3cReply := [0] } }).boot 6 c 0
    else
      { s with pins := { s.pins with i3cReply := [1] },
               sec := { s.sec with sigFail := if x.readable && !x.signatureOk then s.sec.sigFail + 1 else s.sec.sigFail } }

/-- A carrier fitted (R390, R408): with 40 V or more the device starts; it had no power before. -/
def State.carrierFit (s : State) (mv : Nat) (f : StartFinds) : State :=
  if s.pwr.state ≠ .off && s.pwr.state != .pullSafe then s
  else
    let s := s.powerOff
    if 40000 ≤ mv then
      let s := { s with sec := { s.sec with tamper := false } }.restarted
      { s with pwr := { s.pwr with sensors := { s.pwr.sensors with inV := mv / 10 } } }.start f
    else s

end Sys2Proof.Machine
end

