-- ==== Sys2Proof/Machine/Pins.lean ====
section
/-! DEFINITION. The commands of the clock pins, the I3C port and the JTAG port (R419, R420, R422). -/

namespace Sys2Proof.Machine

/-- PPS_IN_EDGE (R419): the edge's timestamp, in ns of the PTP time base; the servo does not use it. -/
def execPpsInEdge (ns : Nat) (s : State) : Host.Outcome State Fault Refusal :=
  .next (if s.powered then { s with pins := { s.pins with ppsIn := ns } } else s)

/-- PPS_OUT_PULSE (R419): PPS_OUT rises at a whole second of PTP time; it stays low while the clock is FREE. -/
def execPpsOutPulse (ns : Nat) (s : State) : Host.Outcome State Fault Refusal :=
  .next (if s.powered && s.net.ptp.state != .free then
    { s with net := { s.net with ptp := { s.net.ptp with lastPps := ns / 10 ^ 9, ppsPulses := s.net.ptp.ppsPulses + 1 } } }
  else s)

/-- I3C_ENTDAA (R420): a target without a dynamic address takes one. -/
def execI3cEntdaa (addr : BitVec 7) (s : State) : Host.Outcome State Fault Refusal :=
  .next (if s.powered && s.pins.i3cAddr.isNone then { s with pins := { s.pins with i3cAddr := some addr } } else s)

/-- The identification code, least bit first: part number 0x8A48; the manufacturer and the stepping index are free. -/
def idcodeBits : List Bool :=
  let w := 1 + Config.openNat 15 0 % 2 ^ 11 * 2 + 0x8A48 * 2 ^ 12 + Config.openNat 16 0 % 16 * 2 ^ 28
  (List.range 32).map fun i => w.testBit i

/-- IDCODE (R422): answered in either start. -/
def execIdcode (s : State) : Host.Outcome State Fault Refusal :=
  .next (if s.powered then { s with pins := { s.pins with jtagOut := idcodeBits, bypass := false } } else s)

/-- BYPASS (R422): the one-bit register, answered in either start. -/
def execBypass (tdi : Bool) (s : State) : Host.Outcome State Fault Refusal :=
  .next (if s.powered then { s with pins := { s.pins with jtagOut := [s.pins.bypass], bypass := tdi } } else s)

/-- EXTEST (R422): in a test start the signal lands are driven, and what stood in the boundary register is shifted out. -/
def execExtest (outs : List Bool) (s : State) : Host.Outcome State Fault Refusal :=
  .next (if s.powered && s.pins.testMode then { s with pins := { s.pins with jtagOut := s.pins.boundary, driven := outs } } else s)

/-- SAMPLE_PRELOAD (R422): in a test start the boundary register takes what stands at the signal lands. -/
def execSamplePreload (ins : List Bool) (s : State) : Host.Outcome State Fault Refusal :=
  .next (if s.powered && s.pins.testMode then { s with pins := { s.pins with jtagOut := s.pins.boundary, boundary := ins } } else s)

/-- EXTEST_PULSE (R422): in a test start, one pulse on SerDes and CXL lanes. -/
def execExtestPulse (lanes : List Bool) (s : State) : Host.Outcome State Fault Refusal :=
  .next (if s.powered && s.pins.testMode then { s with pins := { s.pins with acTest := some (false, lanes) } } else s)

/-- EXTEST_TRAIN (R422): in a test start, a train of pulses on SerDes and CXL lanes. -/
def execExtestTrain (lanes : List Bool) (s : State) : Host.Outcome State Fault Refusal :=
  .next (if s.powered && s.pins.testMode then { s with pins := { s.pins with acTest := some (true, lanes) } } else s)

end Sys2Proof.Machine
end

