-- ==== Sys2Proof/Machine/Power.lean ====
section
/-! DEFINITION. The commands of power and of whole-unit faults (R383, R387 to R409, R417). -/

namespace Sys2Proof.Machine

/-- The input voltage read, in mV. -/
def State.sawInput (s : State) (mv : Nat) : State :=
  { s with pwr := { s.pwr with sensors := { s.pwr.sensors with inV := mv / 10 } } }

/-- The emergency stop for a cause, with the pecks under way cut off (R402). -/
def State.estop (s : State) (cause : Nat) : State :=
  if s.pwr.state = .run then (s.emergencyStop cause).haltPecks else s.emergencyStop cause

/-- POWER_LOSS (R276): every volatile value is lost, the bung words among them. -/
def execPowerLoss (s : State) : Host.Outcome State Fault Refusal := .next s.powerOff

/-- TAMPER (R383). -/
def execTamper (s : State) : Host.Outcome State Fault Refusal := .next s.tampered

/-- INPUT_BELOW_40V (R387): from 38 V to 40 V nothing new is issued. -/
def execInputBelow40V (mv : Nat) (s : State) : Host.Outcome State Fault Refusal :=
  let s := s.sawInput mv
  .next (if 38000 ≤ mv ∧ mv < 40000 then { s with pwr := { s.pwr with noNewWork := true } } else s)

/-- INPUT_ABOVE_40V (R387). -/
def execInputAbove40V (mv : Nat) (s : State) : Host.Outcome State Fault Refusal :=
  let s := s.sawInput mv
  .next (if 40000 ≤ mv then { s with pwr := { s.pwr with noNewWork := false } } else s)

/-- INPUT_BELOW_36V (R391): the power-off in order, with the outcomes of a loss of power. -/
def execInputBelow36V (mv : Nat) (s : State) : Host.Outcome State Fault Refusal :=
  .next (if mv < 36000 then s.powerOff else s.sawInput mv)

/-- INPUT_OVER_CURRENT (R400): above PWR_OC_TRIP for 0.5 µs, the emergency stop with cause 1. -/
def execInputOverCurrent (ma : Nat) (s : State) : Host.Outcome State Fault Refusal :=
  let s := { s with pwr := { s.pwr with sensors := { s.pwr.sensors with inI := ma / 10 } } }
  .next (if 1000 * s.pwr.ocTrip < ma then s.estop 1 else s)

/-- SUPPLY_COLLAPSE (R387, R400): below 38 V for 0.5 µs, the emergency stop with cause 2. -/
def execSupplyCollapse (mv : Nat) (s : State) : Host.Outcome State Fault Refusal :=
  let s := s.sawInput mv
  .next (if mv < 38000 then s.estop 2 else s)

/-- RAIL_OVER_CURRENT (R400): the emergency stop with cause 3. -/
def execRailOverCurrent (s : State) : Host.Outcome State Fault Refusal := .next (s.estop 3)

/-- PS_ALERT (R417): a first-stage fault makes the emergency stop with cause 3. -/
def execPsAlert (s : State) : Host.Outcome State Fault Refusal := .next (s.estop 3)

/-- ESTOP_PIN (R417): ESTOP# low for 0.5 µs makes the emergency stop with cause 6. -/
def execEstopPin (s : State) : Host.Outcome State Fault Refusal :=
  .next ({ s with pins := { s.pins with estop := true } }.estop 6)

/-- BMC_ORDER_ESTOP (R400): an ordered emergency stop, cause 6. -/
def execBmcOrderEstop (s : State) : Host.Outcome State Fault Refusal := .next (s.estop 6)

/-- ESTOP_RELEASE (R403): ns after the stop's detection its cause has cleared, ESTOP# among them, and issue resumes. -/
def execEstopRelease (ns : Nat) (byBmc : Bool) (s : State) : Host.Outcome State Fault Refusal :=
  let s := { s with pins := { s.pins with estop := false } }
  .next (if s.mayRelease byBmc then (s.releaseStop ns byBmc).checkControls else s)

/-- THERMAL_SAMPLE (R394): the sensors are read; one past its trip makes the emergency stop with cause 4. -/
def execThermalSample (x : Sensors) (tripped : Bool) (s : State) : Host.Outcome State Fault Refusal :=
  let s := { s with pwr := { s.pwr with sensors := x } }
  .next (if tripped || s.pwr.trips then s.estop 4 else s)

/-- THROTTLE_RAISE (R393): the level rises by 1 while a limit is exceeded. -/
def execThrottleRaise (s : State) : Host.Outcome State Fault Refusal :=
  .next (if s.pwr.isOver then { s with pwr := { s.pwr with throttle := min 15 (s.pwr.throttle + 1) } } else s)

/-- THROTTLE_LOWER (R393): the level falls by 1 while no limit is exceeded and every mean is below 95 % of its own. -/
def execThrottleLower (s : State) : Host.Outcome State Fault Refusal :=
  .next (if s.pwr.under then { s with pwr := { s.pwr with throttle := s.pwr.throttle - 1 } } else s)

/-- CLOCK_LOSS (R399): of the reference, a stop with cause 5 that stops every tun; of a die's core PLL, the die; of
HD's, every tun. -/
def execClockLoss (c : ClockLost) (s : State) : Host.Outcome State Fault Refusal :=
  .next (match c with
    | .reference => (({ s with pwr := { s.pwr with mgmtBackup := true } }).commitStops 16).estop 5
    | .coreHd => s.commitLost 16
    | .coreDie d => s.dieGone d.val 9 false)

/-- DIE_LOSS (R405, R317): dark where the management island is lost or no control path is left. -/
def execDieLoss (d : DieId) (cause : Fin 16) (mgmtLost : Bool) (s : State) : Host.Outcome State Fault Refusal :=
  .next (s.dieGone d.val cause.val (mgmtLost || cause.val == 8))

/-- REDUCTION_ENGINE_FAULT (R404): engine 0 shares the commit unit's domain, and its loss is of class 12; the work of
engines 1 to 3 moves to the others, a fault of class 7. -/
def execReductionEngineFault (e : Fin 4) (s : State) : Host.Outcome State Fault Refusal :=
  let fence (x : Keeper) : Keeper := { x with fenced := true, waking := false }
  .next (if e.val = 0 then s.commitLost 16
    else if s.pwr.redFailed.contains e.val then s
    else { s with hubKeepers := Tbl.modify {} s.hubKeepers (336 + e.val) fence,
                  pwr := { s.pwr with redFailed := s.pwr.redFailed ++ [e.val] } }.absorbed 7 8 (16 + e.val))

/-- HUB_MANAGER_WATCHDOG (R404): a fault of class 12. -/
def execHubManagerWatchdog (s : State) : Host.Outcome State Fault Refusal := .next (s.commitLost 16)

/-- BMC_ORDER_DEEP_IDLE (R397). -/
def execBmcOrderDeepIdle (s : State) : Host.Outcome State Fault Refusal := .next s.enterDeepIdle

/-- AUTO_IDLE_TIMER (R397): PWR_IDLE_DELAY_S has passed; nothing unless PWR_AUTO_IDLE is set. -/
def execAutoIdleTimer (s : State) : Host.Outcome State Fault Refusal :=
  .next (if s.pwr.autoIdle then
    { s with nowPs := max s.nowPs (s.pwr.idleSince + s.pwr.idleDelay * 10 ^ 12) }.enterDeepIdle else s)

/-- BMC_ORDER_WAKE (R397). -/
def execBmcOrderWake (s : State) : Host.Outcome State Fault Refusal := .next s.leaveDeepIdle

/-- PULL_PREPARATION (R407). -/
def execPullPreparation (s : State) : Host.Outcome State Fault Refusal := .next s.pullPrepare

end Sys2Proof.Machine
end

