-- ==== Sys2Proof/Machine/Slices.lean ====
section
/-! DEFINITION. The commands of the loop and control, synchronisation, update and hint groups of a slice (R32 to R34, R38,
R39). Each considers the slice at the place of the running tun's program for one cycle; a slice issues whole, with
every operation it holds, by the first command that finds it ready (R41). -/

namespace Sys2Proof.Machine

/-- NEXT_SLICE (R32): the slice at the place of the die's program, with CTL_OP 0x0, or with a reserved CTL_OP, which no
other command names: an illegal slice (R51). -/
def execNextSlice (d : DieId) (s : State) : Host.Outcome State Fault Refusal :=
  .next (s.sliceCommand d.val fun sl => ctlOp sl == 0 || decide (7 ≤ ctlOp sl))

/-- LOOP_START (R33). -/
def execLoopStart (d : DieId) (s : State) : Host.Outcome State Fault Refusal :=
  .next (s.sliceCommand d.val fun sl => ctlOp sl == 1)

/-- LOOP_END (R33). -/
def execLoopEnd (d : DieId) (s : State) : Host.Outcome State Fault Refusal :=
  .next (s.sliceCommand d.val fun sl => ctlOp sl == 2)

/-- REPEAT (R33): one issue of the repeated slice. -/
def execRepeatSlice (d : DieId) (s : State) : Host.Outcome State Fault Refusal :=
  .next (s.sliceCommand d.val fun sl => ctlOp sl == 3)

/-- JUMP (R33). -/
def execJump (d : DieId) (s : State) : Host.Outcome State Fault Refusal :=
  .next (s.sliceCommand d.val fun sl => ctlOp sl == 4)

/-- STEP_END (R33, R187). -/
def execStepEnd (d : DieId) (s : State) : Host.Outcome State Fault Refusal :=
  .next (s.sliceCommand d.val fun sl => ctlOp sl == 5)

/-- HALT (R33). -/
def execHalt (d : DieId) (s : State) : Host.Outcome State Fault Refusal :=
  .next (s.sliceCommand d.val fun sl => ctlOp sl == 6)

/-- DIE_BARRIER_ARRIVE (R34). -/
def execDieBarrierArrive (d : DieId) (s : State) : Host.Outcome State Fault Refusal :=
  .next (s.sliceCommand d.val fun sl => syncOp sl == 1)

/-- DIE_BARRIER_WAIT (R34). -/
def execDieBarrierWait (d : DieId) (s : State) : Host.Outcome State Fault Refusal :=
  .next (s.sliceCommand d.val fun sl => syncOp sl == 2)

/-- GENERATOR_ADVANCE (R97). -/
def execGeneratorAdvance (d : DieId) (s : State) : Host.Outcome State Fault Refusal :=
  .next (s.sliceCommand d.val fun sl => syncOp sl == 3)

/-- STEP_CLOSE (R34, R135, R139). -/
def execStepClose (d : DieId) (s : State) : Host.Outcome State Fault Refusal :=
  .next (s.sliceCommand d.val fun sl => syncOp sl == 0x10)

/-- SEAL_POINT (R45 to R47, R54). -/
def execSealPoint (d : DieId) (s : State) : Host.Outcome State Fault Refusal :=
  .next (s.sliceCommand d.val fun sl => ctlSeal sl)

/-- ARM_BUCKET (R193). -/
def execArmBucket (d : DieId) (s : State) : Host.Outcome State Fault Refusal :=
  .next (s.sliceCommand d.val fun sl => updOp sl == 1)

/-- CLOSE_BUCKET (R193, R236). -/
def execCloseBucket (d : DieId) (s : State) : Host.Outcome State Fault Refusal :=
  .next (s.sliceCommand d.val fun sl => updOp sl == 2)

/-- FLUSH_SKETCH_SUMS (R200). -/
def execFlushSketchSums (d : DieId) (s : State) : Host.Outcome State Fault Refusal :=
  .next (s.sliceCommand d.val fun sl => updOp sl == 3)

/-- HINT_WAKE_CLOCK (R48): a hint with ACTION 0b01. -/
def execHintWakeClock (d : DieId) (h : Fin 2) (s : State) : Host.Outcome State Fault Refusal :=
  .next (s.sliceCommand d.val fun sl => hintAction sl h.val == 1)

/-- HINT_WAKE_POWER (R48): a hint with ACTION 0b10. -/
def execHintWakePower (d : DieId) (h : Fin 2) (s : State) : Host.Outcome State Fault Refusal :=
  .next (s.sliceCommand d.val fun sl => hintAction sl h.val == 2)

/-- HINT_RELEASE (R27, R48): a hint with ACTION 0b11. -/
def execHintRelease (d : DieId) (h : Fin 2) (s : State) : Host.Outcome State Fault Refusal :=
  .next (s.sliceCommand d.val fun sl => hintAction sl h.val == 3)

end Sys2Proof.Machine
end

