-- ==== Sys2Proof/Machine/SpdmOps.lean ====
section
/-! DEFINITION. The SPDM responder (R369 to R374): what it answers, its sessions and the tun secret. Messages are carried as
their contents; their headers are DSP0274's and no part of the state. -/

namespace Sys2Proof.Machine

/-- An answer of the responder, which CHUNK_GET may fetch again in parts. -/
def State.answer (s : State) (bs : Bytes) : State := { s with sec := { s.sec with reply := bs, large := bs } }

/-- An error answer, counted (R386). Its code is DSP0274's. -/
def State.spdmError (s : State) : State := { s with sec := { s.sec with reply := [0x7F], spdmErrors := s.sec.spdmErrors + 1 } }

/-- Whether the responder may answer a request that needs the alias key: S is held, and the connection's versions,
capabilities and algorithms are agreed (R358, R372). -/
def State.connected (s : State) : Bool := s.sec.seed.isSome && s.sec.version && s.sec.capabilities && s.sec.algorithms

/-- A request answered, or turned away with an error; without power nothing answers. -/
def State.respond (s : State) (ok : Bool) (f : State → State) : State :=
  if !s.powered then s else if ok then f s else s.spdmError

/-- Whether a session is established. -/
def State.session (s : State) (i : Nat) : Bool :=
  let x := Tbl.get ({} : Session) s.sec.sessions i
  s.connected && x.isOpen && x.finished

/-- A session replaced. -/
def State.setSession (s : State) (i : Nat) (x : Session) : State := { s with sec := { s.sec with sessions := s.sec.sessions.put i x } }

/-- The alias certificate of this start: SEC_MR0 to SEC_MR3 and the identity key's signature (R369). -/
def State.aliasCert (s : State) : Bytes :=
  let body := s.aliasSeed ++ s.mr 0 ++ s.mr 1 ++ s.mr 2 ++ s.mr 3
  sha3_512 body ++ Config.mlDsaSign 0 body

/-- Slot 0's chain: the three certificates of the image and the alias certificate. -/
def State.chain (s : State) : Bytes := s.sec.certChain ++ s.aliasCert

/-- A signature by the alias key. -/
def State.signAlias (s : State) (msg : Bytes) : Bytes := Config.mlDsaSign 1 (s.aliasSeed ++ msg)

/-- A measurement block (R373). -/
def State.measurement (s : State) (i : Nat) : Option Bytes :=
  if 1 ≤ i ∧ i ≤ 7 then some (s.mr (i - 1))
  else if i = 8 then
    some (bytesOfNat 4 s.sec.stateWord ++ bytesOfNat 8 s.host.imageVer ++ bytesOfNat 8 s.sec.hubFwVersion ++ bytesOfNat 8 s.sec.cdsFwVersion)
  else if 0x10 ≤ i ∧ i < 0x30 then
    let u := i - 0x10
    let t := s.tun u
    let l := s.lay u
    some ((t.tmr ++ List.replicate 64 0).take 64 ++ bytesOfNat 2 (tlTap l) ++ bytesOfNat 2 (tlTaps l)
      ++ [BitVec.ofNat 8 (bit (tlSealed l)), BitVec.ofNat 8 (bit t.ts.isSome)])
  else none

/-- The lowest session not open. -/
def State.freeSession (s : State) : Option Nat :=
  (List.range 8).find? fun i => !((Tbl.get ({} : Session) s.sec.sessions i).isOpen)

/-- A session opened with a key from ML-KEM-1024 (R372). -/
def State.openSession (s : State) (i : Nat) (nonce : Bytes) : State :=
  let k := Config.mlKem s.draws
  let r := s.draw.random
  let s := r.2.setSession i { isOpen := true, key := k }
  s.answer (BitVec.ofNat 8 i :: r.1 ++ s.signAlias (nonce ++ r.1))

/-- SET_TUN_SECRET within a session (R374, R385): once a load, under the job key's signature. -/
def State.takeSecret (s : State) (u : Nat) (ts : Bytes) (imports : List Bytes) (sigOk : Bool) : State :=
  let t := s.tun u
  if t.loaded && !t.secretTaken && sigOk && !s.sec.tamper && ts.length == 32 && decide (imports.length ≤ 4) then
    (s.setTun u { t with ts := some ts, secretTaken := true, imports := imports }).answer []
  else
    { s with sec := { s.sec with secretRefused := s.sec.secretRefused + 1,
                                 sigFail := if sigOk then s.sec.sigFail else s.sec.sigFail + 1 } }.answer []

end Sys2Proof.Machine
end

