-- ==== Sys2Proof/Machine/Spdm.lean ====
section
/-! DEFINITION. The SPDM requests (R369, R371 to R374, R377). -/

namespace Sys2Proof.Machine

/-- GET_VERSION: 1.2 and 1.3. It begins a connection afresh. -/
def execGetVersion (s : State) : Host.Outcome State Fault Refusal :=
  .next (s.respond true fun s =>
    ({ s with sec := { s.sec with version := true, capabilities := false, algorithms := false } }).answer [0x12, 0x13])

/-- GET_CAPABILITIES. -/
def execGetCapabilities (s : State) : Host.Outcome State Fault Refusal :=
  .next (s.respond s.sec.version fun s => ({ s with sec := { s.sec with capabilities := true } }).answer [])

/-- NEGOTIATE_ALGORITHMS: ok where the requester offers what R372 lists. -/
def execNegotiateAlgorithms (ok : Bool) (s : State) : Host.Outcome State Fault Refusal :=
  .next (s.respond (ok && s.sec.seed.isSome && s.sec.version && s.sec.capabilities) fun s =>
    ({ s with sec := { s.sec with algorithms := true } }).answer [])

/-- GET_DIGESTS: of slot 0, the only one. -/
def execGetDigests (s : State) : Host.Outcome State Fault Refusal :=
  .next (s.respond s.connected fun s => s.answer (1 :: sha3_512 s.chain))

/-- GET_CERTIFICATE (R369): of slot 0's chain. -/
def execGetCertificate (slot : Fin 8) (off len : Nat) (s : State) : Host.Outcome State Fault Refusal :=
  .next (s.respond (s.connected && slot.val == 0) fun s => s.answer ((s.chain.drop off).take len))

/-- CHALLENGE (R372): a nonce of the device's own, signed with the requester's by the alias key. -/
def execChallenge (slot : Fin 8) (nonce : Bytes) (s : State) : Host.Outcome State Fault Refusal :=
  .next (s.respond (s.connected && slot.val == 0) fun s =>
    let r := s.random
    r.2.answer (r.1 ++ r.2.signAlias (nonce ++ r.1)))

/-- GET_MEASUREMENTS (R373): other indices are not answered. -/
def execGetMeasurements (index : Fin 256) (sign : Bool) (nonce : Bytes) (s : State) : Host.Outcome State Fault Refusal :=
  .next (s.respond s.connected fun s =>
    match s.measurement index.val with
    | some b => s.answer (if sign then b ++ s.signAlias (nonce ++ b) else b)
    | none => s)

/-- KEY_EXCHANGE (R372): one of eight sessions is opened. -/
def execKeyExchange (nonce : Bytes) (s : State) : Host.Outcome State Fault Refusal :=
  .next (s.respond (s.connected && s.freeSession.isSome) fun s => s.openSession (s.freeSession.getD 0) nonce)

/-- FINISH (R372): a session is established; one that fails is closed. -/
def execFinish (session : Fin 8) (ok : Bool) (s : State) : Host.Outcome State Fault Refusal :=
  let x := Tbl.get ({} : Session) s.sec.sessions session.val
  .next (if s.connected && x.isOpen && !x.finished && !ok then (s.setSession session.val {}).respond false id
    else s.respond (s.connected && x.isOpen && !x.finished) fun s => (s.setSession session.val { x with finished := true }).answer [])

/-- HEARTBEAT (R372). -/
def execHeartbeat (session : Fin 8) (s : State) : Host.Outcome State Fault Refusal :=
  .next (s.respond (s.session session.val) fun s => s.answer [])

/-- KEY_UPDATE (R372): the session's keys are renewed. -/
def execKeyUpdate (session : Fin 8) (s : State) : Host.Outcome State Fault Refusal :=
  .next (s.respond (s.session session.val) fun s =>
    let x := Tbl.get ({} : Session) s.sec.sessions session.val
    (s.draw.setSession session.val { x with key := Config.mlKem s.draws, updates := x.updates + 1 }).answer [])

/-- END_SESSION (R372). -/
def execEndSession (session : Fin 8) (s : State) : Host.Outcome State Fault Refusal :=
  .next (s.respond (s.session session.val) fun s => (s.setSession session.val {}).answer [])

/-- CHUNK_SEND (R372): a part of a large request; with the last the request is whole. -/
def execChunkSend (handle : Fin 256) (chunk : Bytes) (last : Bool) (s : State) : Host.Outcome State Fault Refusal :=
  .next (s.respond s.connected fun s =>
    let x := s.sec
    let cs := if last then x.chunks.erase handle.val else Tbl.modify [] x.chunks handle.val (· ++ chunk)
    { s with sec := { x with chunks := cs, reply := [BitVec.ofNat 8 handle.val] } })

/-- CHUNK_GET (R372): a part of the newest answer; the size of a part is a free value. -/
def execChunkGet (handle : Fin 256) (seq : Nat) (s : State) : Host.Outcome State Fault Refusal :=
  let size := Config.openNat 12 handle.val + 1
  .next (s.respond (s.connected && decide (seq * size < s.sec.large.length)) fun s =>
    { s with sec := { s.sec with reply := (s.sec.large.drop (seq * size)).take size } })

/-- SET_TUN_SECRET (R374), a vendor-defined request of a session. -/
def execSetTunSecret (session : Fin 8) (u : TunId) (ts : Bytes) (imports : List Bytes) (sigOk : Bool) (s : State) : Host.Outcome State Fault Refusal :=
  .next (s.respond (s.session session.val) fun s => s.takeSecret u.val ts imports sigOk)

/-- IDE_KM (R377): the link's keys are set within a session. -/
def execIdeKm (session : Fin 8) (keyProgram : Bool) (s : State) : Host.Outcome State Fault Refusal :=
  .next (s.respond (s.session session.val) fun s =>
    ({ s with sec := { s.sec with ideKeyed := s.sec.ideKeyed || keyProgram } }).answer [])

/-- DRBG_RESEED (R371): every 2^20 requests. -/
def execDrbgReseed (s : State) : Host.Outcome State Fault Refusal :=
  .next (if 2 ^ 20 ≤ s.sec.requests then { s with sec := { s.sec with requests := 0, reseeds := s.sec.reseeds + 1 } } else s)

/-- SPDM_UNSUPPORTED_REQUEST (R372): answered with an error. -/
def execSpdmUnsupportedRequest (_code : BitVec 8) (s : State) : Host.Outcome State Fault Refusal := .next (s.respond false id)

end Sys2Proof.Machine
end

