-- ==== Sys2Proof/Machine/Start.lean ====
section
/-! DEFINITION. The commands of the start, the flash and the board management controller (R180, R336, R357, R359, R361,
R362, R408). -/

namespace Sys2Proof.Machine

/-- START (R361): at reset release. -/
def execStart (finds : StartFinds) (s : State) : Host.Outcome State Fault Refusal :=
  .next (if s.pwr.state = .starting ∧ !s.pins.testMode then ({ s with host := { s.host with startedPs := s.nowPs } }).start finds else s)

/-- START_WATCHDOG (R357). -/
def execStartWatchdog (s : State) : Host.Outcome State Fault Refusal := .next s.startLate

/-- BMC_FLASH_WRITE (R362). -/
def execBmcFlashWrite (copy : Bool) (image : FlashCopy) (s : State) : Host.Outcome State Fault Refusal := .next (s.flashWrite copy image)

/-- BMC_COUNT_CLEAR_RESTART (R359): in steep mode a count-cleared record, then a restart. -/
def execBmcCountClearRestart (finds : StartFinds) (s : State) : Host.Outcome State Fault Refusal :=
  .next (if s.pwr.state = .steep then (s.boot 5 false 0).restart finds else s)

/-- BMC_READ_BOOT_RECORDS (R359). -/
def execBmcReadBootRecords (s : State) : Host.Outcome State Fault Refusal :=
  .next (if s.powered then { s with pins := { s.pins with i3cReply := s.flash.boots.flatMap BootRecord.bytes } } else s)

/-- BMC_WRITE_REBUILD_SHARE (R180). -/
def execBmcWriteRebuildShare (d : DieId) (share : BitVec 2) (s : State) : Host.Outcome State Fault Refusal :=
  let x := s.die d.val
  .next (if s.serviced then s.setDie d.val { x with memStat := { x.memStat with rebuildShare := share.toNat } } else s)

/-- CARRIER_FIT (R408). -/
def execCarrierFit (mv : Nat) (finds : StartFinds) (s : State) : Host.Outcome State Fault Refusal := .next (s.carrierFit mv finds)

/-- BMC_ORDER_RESTART (R336). -/
def execBmcOrderRestart (finds : StartFinds) (s : State) : Host.Outcome State Fault Refusal :=
  .next (if s.powered then s.restart finds else s)

end Sys2Proof.Machine
end

