-- ==== Sys2Proof/Machine/Transport.lean ====
section
/-! DEFINITION. The commands of the transport (R300 to R306) and of delivery into windows (R232, R236). -/

namespace Sys2Proof.Machine

/-- DATA (R300, R303). -/
def execData (m : MacId) (header : BitVec 256) (payload : Bytes) (s : State) : Host.Outcome State Fault Refusal :=
  .next (if s.macUp m.val then s.dataFrame m.val header payload else s)

/-- DELIVERY (R232). -/
def execDelivery (u : TunId) (rec' : Fin 4096) (s : State) : Host.Outcome State Fault Refusal :=
  .next (if s.pwr.state = .stopped then s else (s.deliver u.val rec'.val).hubSettle)

/-- The rank of a peer; a receiver has none. -/
def peerRank : Peer → Option Nat
  | .rank r => some r.val
  | .receiver _ => none

/-- The destination that a peer is: its rank, or 64 + the endpoint of a receiver. -/
def peerDest : Peer → Nat
  | .rank r => r.val
  | .receiver ep => 64 + ep.val

/-- The rank that a message of a kind must be one of the cluster's: kind 1 comes from receivers, and from devices of other jobs'
clusters (R274). -/
def kindRank (kind : Nat) (src : Peer) : Option Nat := if kind = 1 then none else peerRank src

/-- ACKNOWLEDGEMENT (R301, R302): an entry from a rank or from a receiver. -/
def execAcknowledgement (m : MacId) (u : TunId) (src : Peer) (entry : BitVec 64) (s : State) :
    Host.Outcome State Fault Refusal :=
  if !(s.macUp m.val) then .next s
  else
    let r := s.rxMessage m.val u.val 8 (kindRank (field entry 60 4) src)
    .next (if r.2 then
      (r.1.takeAck m.val u.val src (field entry 60 4) (field entry 56 4) (field entry 24 32) (field entry 12 12)).hubSettle
      else r.1)

/-- The destination whose credits a peer returns: those of kind 1 from a rank are for the evaluation segments, whose destination is the
endpoint of their tap. -/
def Tun.creditFrom (t : Tun) (kind : Nat) (src : Peer) : Nat :=
  match src, tapOn t.evalTap with
  | .rank _, some e => if kind = 1 then 64 + field e 11 8 else peerDest src
  | _, _ => peerDest src

/-- SEGMENT_CREDIT (R301, R302): credits returned by a rank, or by a receiver. -/
def execSegmentCredit (m : MacId) (u : TunId) (src : Peer) (entry : BitVec 32) (s : State) :
    Host.Outcome State Fault Refusal :=
  if !(s.macUp m.val) then .next s
  else
    let x := s.rxMessage m.val u.val 4 (kindRank (field entry 28 4) src)
    let s := x.1
    let t := s.tun u.val
    let r := t.creditFrom (field entry 28 4) src
    .next (if x.2 then
      s.setTun u.val { t with segCredits := t.segCredits.put r (s.credits u.val r + field entry 0 16) }
      else s)

/-- WINDOW_CREDIT (R232, R301): a window of another device may be written again. -/
def execWindowCredit (m : MacId) (u : TunId) (src : Fin 64) (entry : BitVec 32) (s : State) :
    Host.Outcome State Fault Refusal :=
  if !(s.macUp m.val) then .next s
  else
    let x := s.rxMessage m.val u.val 4 (some src.val)
    let s := x.1
    let t := s.tun u.val
    let key := src.val * 8192 + field entry 29 3 * 1024 + field entry 19 10
    .next (if x.2 then s.setTun u.val { t with farSpent := t.farSpent.filter (· != key) } else s)

/-- CLOSE_MARKER (R236): a member's marker of a bucket at this reducing member. -/
def execCloseMarker (m : MacId) (u : TunId) (src : Fin 64) (bucket : BitVec 16) (nf : Bool) (segments : BitVec 32)
    (s : State) : Host.Outcome State Fault Refusal :=
  if !(s.macUp m.val) then .next s
  else
    let x := s.rxMessage m.val u.val 8 (some src.val)
    let s := x.1
    let t := s.tun u.val
    let b := bucket.toNat
    .next (if x.2 then
      (s.setTun u.val { t with buckets := Tbl.modify {} t.buckets b fun y =>
        { y with markers := y.markers.put src.val (nf, segments.toNat) } }).releaseBucket u.val b
      else s)

/-- HELLO (R305, R307): the peer's key number, and an H8 at the far end. -/
def execHello (m : MacId) (u : TunId) (src : Fin 64) (key : BitVec 64) (s : State) : Host.Outcome State Fault Refusal :=
  if !(s.macUp m.val) then .next s
  else
    let x := s.rxMessage m.val u.val 16 (some src.val)
    let s := x.1
    let t := s.tun u.val
    .next (if x.2 then
      ((s.setMac m.val { s.mac m.val with helloOk := true }).setTun u.val { t with helloKey := t.helloKey.put m.val key.toNat }).rekey
      else s)

/-- HELLO_SEND (R305): on an open port whose clock is not LOCKED, once per second and at each key change. -/
def execHelloSend (m : MacId) (u : TunId) (s : State) : Host.Outcome State Fault Refusal :=
  .next (if s.macUp m.val && s.openPort m.val && s.net.ptp.state != .locked && (s.tun u.val).loaded then
    let n := s.keyNumber m.val u.val
    (s.setMac m.val { s.mac m.val with helloSent := (s.mac m.val).helloSent.put u.val n }).txControl m.val u.val (.hello n)
    else s)

/-- PORT_DOWN (R306): a message names a failed MAC and its delta's effective time, in ps. -/
def execPortDown (m : MacId) (rank : Fin 64) (failed : MacId) (at' : Nat) (s : State) : Host.Outcome State Fault Refusal :=
  .next (if s.macUp m.val then
    let s := s.rxFrame m.val 64 false [23]
    let k := 64 * rank.val + failed.val
    if s.net.failed.contains k || s.net.deltasDue.any (fun p => p.1 == k) then s
    else { s with net := { s.net with deltasDue := s.net.deltasDue ++ [(k, at')] } }
    else s)

/-- RESTORE_COMPLETE (R278, R301): another rank has restored; once every rank has, the first slice may issue. -/
def execRestoreComplete (m : MacId) (u : TunId) (src : Fin 64) (s : State) : Host.Outcome State Fault Refusal :=
  .next (s.received m.val u.val 1 src.val fun s =>
    let t := s.tun u.val
    if t.restored.contains src.val then s else s.setTun u.val ({ t with restored := src.val :: t.restored } : Tun).exchangeDone)

/-- PADDING (R295, R301): a sealed tun's padding is counted and ignored. -/
def execPadding (m : MacId) (u : TunId) (s : State) : Host.Outcome State Fault Refusal :=
  .next (if s.macUp m.val then
    (s.rxFrame m.val 640 false []).countMac m.val (if (s.tun u.val).loaded then 23 else 24) 1 else s)

/-- SEGMENT_RESEND_TIMEOUT (R302). -/
def execSegmentResendTimeout (m : MacId) (u : TunId) (dest : Nat) (kind : Fin 4) (seq : Nat) (s : State) :
    Host.Outcome State Fault Refusal :=
  .next (s.resendDue m.val u.val dest kind.val seq)

/-- SEGMENT_PARTIAL_DROP (R303). -/
def execSegmentPartialDrop (m : MacId) (u : TunId) (src : Fin 64) (kind : Fin 4) (seq : Nat) (s : State) :
    Host.Outcome State Fault Refusal :=
  .next (s.dropPartial m.val u.val src.val kind.val seq)

end Sys2Proof.Machine
end

