-- ==== Sys2Proof/Machine/Vector.lean ====
section
/-! DEFINITION. The commands of the vector units (R113) and the ends of their operations. Each considers the slice at the
place of the running tun's program for one cycle, as the commands of Slices.lean do; what the lanes compute is in
VecArith.lean and VecOps.lean. -/

namespace Sys2Proof.Machine

/-- Whether a slice gives vector unit v the operation of a code. -/
def givesVec (v code : Nat) (sl : Slice) : Bool := vecOp (vecGroup sl v) == code

/-- ADD (R113). -/
def execAdd (d : DieId) (v : Fin 2) (s : State) : Host.Outcome State Fault Refusal :=
  .next (s.sliceCommand d.val (givesVec v.val 0x1))

/-- SUB (R113). -/
def execSub (d : DieId) (v : Fin 2) (s : State) : Host.Outcome State Fault Refusal :=
  .next (s.sliceCommand d.val (givesVec v.val 0x2))

/-- MUL (R113). -/
def execMul (d : DieId) (v : Fin 2) (s : State) : Host.Outcome State Fault Refusal :=
  .next (s.sliceCommand d.val (givesVec v.val 0x3))

/-- MAX (R113). -/
def execMax (d : DieId) (v : Fin 2) (s : State) : Host.Outcome State Fault Refusal :=
  .next (s.sliceCommand d.val (givesVec v.val 0x4))

/-- MIN (R113). -/
def execMin (d : DieId) (v : Fin 2) (s : State) : Host.Outcome State Fault Refusal :=
  .next (s.sliceCommand d.val (givesVec v.val 0x5))

/-- ABS (R113). -/
def execAbs (d : DieId) (v : Fin 2) (s : State) : Host.Outcome State Fault Refusal :=
  .next (s.sliceCommand d.val (givesVec v.val 0x6))

/-- NEG (R113). -/
def execNeg (d : DieId) (v : Fin 2) (s : State) : Host.Outcome State Fault Refusal :=
  .next (s.sliceCommand d.val (givesVec v.val 0x7))

/-- COPY (R113). -/
def execCopy (d : DieId) (v : Fin 2) (s : State) : Host.Outcome State Fault Refusal :=
  .next (s.sliceCommand d.val (givesVec v.val 0x8))

/-- EXP (R113, R122). -/
def execExp (d : DieId) (v : Fin 2) (s : State) : Host.Outcome State Fault Refusal :=
  .next (s.sliceCommand d.val (givesVec v.val 0x10))

/-- LOG (R113, R122). -/
def execLog (d : DieId) (v : Fin 2) (s : State) : Host.Outcome State Fault Refusal :=
  .next (s.sliceCommand d.val (givesVec v.val 0x11))

/-- RECIP (R113, R122). -/
def execRecip (d : DieId) (v : Fin 2) (s : State) : Host.Outcome State Fault Refusal :=
  .next (s.sliceCommand d.val (givesVec v.val 0x12))

/-- RSQRT (R113, R122). -/
def execRsqrt (d : DieId) (v : Fin 2) (s : State) : Host.Outcome State Fault Refusal :=
  .next (s.sliceCommand d.val (givesVec v.val 0x13))

/-- TANH (R113, R122). -/
def execTanh (d : DieId) (v : Fin 2) (s : State) : Host.Outcome State Fault Refusal :=
  .next (s.sliceCommand d.val (givesVec v.val 0x14))

/-- RELU (R113). -/
def execRelu (d : DieId) (v : Fin 2) (s : State) : Host.Outcome State Fault Refusal :=
  .next (s.sliceCommand d.val (givesVec v.val 0x18))

/-- GELU (R113). -/
def execGelu (d : DieId) (v : Fin 2) (s : State) : Host.Outcome State Fault Refusal :=
  .next (s.sliceCommand d.val (givesVec v.val 0x19))

/-- SILU (R113). -/
def execSilu (d : DieId) (v : Fin 2) (s : State) : Host.Outcome State Fault Refusal :=
  .next (s.sliceCommand d.val (givesVec v.val 0x1a))

/-- CMP_LT (R113). -/
def execCmpLt (d : DieId) (v : Fin 2) (s : State) : Host.Outcome State Fault Refusal :=
  .next (s.sliceCommand d.val (givesVec v.val 0x20))

/-- CMP_LE (R113). -/
def execCmpLe (d : DieId) (v : Fin 2) (s : State) : Host.Outcome State Fault Refusal :=
  .next (s.sliceCommand d.val (givesVec v.val 0x21))

/-- CMP_EQ (R113). -/
def execCmpEq (d : DieId) (v : Fin 2) (s : State) : Host.Outcome State Fault Refusal :=
  .next (s.sliceCommand d.val (givesVec v.val 0x22))

/-- CMP_NE (R113). -/
def execCmpNe (d : DieId) (v : Fin 2) (s : State) : Host.Outcome State Fault Refusal :=
  .next (s.sliceCommand d.val (givesVec v.val 0x23))

/-- MAND (R113). -/
def execMand (d : DieId) (v : Fin 2) (s : State) : Host.Outcome State Fault Refusal :=
  .next (s.sliceCommand d.val (givesVec v.val 0x24))

/-- MOR (R113). -/
def execMor (d : DieId) (v : Fin 2) (s : State) : Host.Outcome State Fault Refusal :=
  .next (s.sliceCommand d.val (givesVec v.val 0x25))

/-- MNOT (R113). -/
def execMnot (d : DieId) (v : Fin 2) (s : State) : Host.Outcome State Fault Refusal :=
  .next (s.sliceCommand d.val (givesVec v.val 0x26))

/-- IADD (R113). -/
def execIadd (d : DieId) (v : Fin 2) (s : State) : Host.Outcome State Fault Refusal :=
  .next (s.sliceCommand d.val (givesVec v.val 0x28))

/-- ISUB (R113). -/
def execIsub (d : DieId) (v : Fin 2) (s : State) : Host.Outcome State Fault Refusal :=
  .next (s.sliceCommand d.val (givesVec v.val 0x29))

/-- IMUL (R113). -/
def execImul (d : DieId) (v : Fin 2) (s : State) : Host.Outcome State Fault Refusal :=
  .next (s.sliceCommand d.val (givesVec v.val 0x2a))

/-- IOTA_COL (R113). -/
def execIotaCol (d : DieId) (v : Fin 2) (s : State) : Host.Outcome State Fault Refusal :=
  .next (s.sliceCommand d.val (givesVec v.val 0x2b))

/-- IOTA_ROW (R113). -/
def execIotaRow (d : DieId) (v : Fin 2) (s : State) : Host.Outcome State Fault Refusal :=
  .next (s.sliceCommand d.val (givesVec v.val 0x2c))

/-- RSUM (R121). -/
def execRsum (d : DieId) (v : Fin 2) (s : State) : Host.Outcome State Fault Refusal :=
  .next (s.sliceCommand d.val (givesVec v.val 0x30))

/-- RMAX (R121). -/
def execRmax (d : DieId) (v : Fin 2) (s : State) : Host.Outcome State Fault Refusal :=
  .next (s.sliceCommand d.val (givesVec v.val 0x31))

/-- RAMAX (R121). -/
def execRamax (d : DieId) (v : Fin 2) (s : State) : Host.Outcome State Fault Refusal :=
  .next (s.sliceCommand d.val (givesVec v.val 0x32))

/-- CVT (R106). -/
def execCvt (d : DieId) (v : Fin 2) (s : State) : Host.Outcome State Fault Refusal :=
  .next (s.sliceCommand d.val (givesVec v.val 0x40))

/-- CVT_BLK (R106). -/
def execCvtBlk (d : DieId) (v : Fin 2) (s : State) : Host.Outcome State Fault Refusal :=
  .next (s.sliceCommand d.val (givesVec v.val 0x41))

/-- CVT_BLK_S (R106). -/
def execCvtBlkS (d : DieId) (v : Fin 2) (s : State) : Host.Outcome State Fault Refusal :=
  .next (s.sliceCommand d.val (givesVec v.val 0x42))

/-- CVT_UNBLK (R106). -/
def execCvtUnblk (d : DieId) (v : Fin 2) (s : State) : Host.Outcome State Fault Refusal :=
  .next (s.sliceCommand d.val (givesVec v.val 0x43))

/-- EPI (R123). -/
def execEpi (d : DieId) (v : Fin 2) (s : State) : Host.Outcome State Fault Refusal :=
  .next (s.sliceCommand d.val (givesVec v.val 0x50))

/-- EPI_RELU (R123). -/
def execEpiRelu (d : DieId) (v : Fin 2) (s : State) : Host.Outcome State Fault Refusal :=
  .next (s.sliceCommand d.val (givesVec v.val 0x51))

/-- EPI_GELU (R123). -/
def execEpiGelu (d : DieId) (v : Fin 2) (s : State) : Host.Outcome State Fault Refusal :=
  .next (s.sliceCommand d.val (givesVec v.val 0x52))

/-- EPI_SILU (R123). -/
def execEpiSilu (d : DieId) (v : Fin 2) (s : State) : Host.Outcome State Fault Refusal :=
  .next (s.sliceCommand d.val (givesVec v.val 0x53))

/-- EPIA (R123). -/
def execEpia (d : DieId) (v : Fin 2) (s : State) : Host.Outcome State Fault Refusal :=
  .next (s.sliceCommand d.val (givesVec v.val 0x58))

/-- EPIA_RELU (R123). -/
def execEpiaRelu (d : DieId) (v : Fin 2) (s : State) : Host.Outcome State Fault Refusal :=
  .next (s.sliceCommand d.val (givesVec v.val 0x59))

/-- EPIA_GELU (R123). -/
def execEpiaGelu (d : DieId) (v : Fin 2) (s : State) : Host.Outcome State Fault Refusal :=
  .next (s.sliceCommand d.val (givesVec v.val 0x5a))

/-- EPIA_SILU (R123). -/
def execEpiaSilu (d : DieId) (v : Fin 2) (s : State) : Host.Outcome State Fault Refusal :=
  .next (s.sliceCommand d.val (givesVec v.val 0x5b))

/-- SM_INIT (R124). -/
def execSmInit (d : DieId) (v : Fin 2) (s : State) : Host.Outcome State Fault Refusal :=
  .next (s.sliceCommand d.val (givesVec v.val 0x60))

/-- SM_STEP (R125). -/
def execSmStep (d : DieId) (v : Fin 2) (s : State) : Host.Outcome State Fault Refusal :=
  .next (s.sliceCommand d.val (givesVec v.val 0x61))

/-- SM_RESCALE (R126). -/
def execSmRescale (d : DieId) (v : Fin 2) (s : State) : Host.Outcome State Fault Refusal :=
  .next (s.sliceCommand d.val (givesVec v.val 0x62))

/-- SM_NORM (R126). -/
def execSmNorm (d : DieId) (v : Fin 2) (s : State) : Host.Outcome State Fault Refusal :=
  .next (s.sliceCommand d.val (givesVec v.val 0x63))

/-- The oldest operation of a unit writes its last row; the cycles its rows waited for bytes at the port, which the
banks' arbitration decides, are a free value (R114, R153). -/
def State.vecDone (s : State) (n v : Nat) : State :=
  let d := s.die n
  match d.vec v with
  | [] => s
  | j :: rest =>
    if j.void then s.putOut n (d.vecDone v)
    else
      let w := Config.openNat 18 s.draws
      let d := d.setVec v ({ j with doneAt := j.doneAt + w } :: rest)
      let c := d.ctx j.tun
      let d := d.setCtx j.tun { c with vec := { c.vec with portWait := c.vec.portWait + w } }
      s.draw.putOut n (d.vecDone v)

/-- VECTOR_OP_DONE (R115, R116, R135): the oldest operation of a unit writes its last row. -/
def execVectorOpDone (d : DieId) (v : Fin 2) (s : State) : Host.Outcome State Fault Refusal :=
  .next (if s.pwr.state = .stopped then s else s.vecDone d.val v.val)

/-- DELAYED_DRAIN_END (R138, R140 to R142): the overflow test of a delayed drain. -/
def execDelayedDrainEnd (d : DieId) (b : Fin 2) (s : State) : Host.Outcome State Fault Refusal :=
  .next (s.delayedEnds d.val b.val)

end Sys2Proof.Machine
end

