-- ==== Sys2Proof/Machine/Dispatch.lean ====
section
/-! DEFINITION. The dispatch: one arm for each command of the table. -/

namespace Sys2Proof.Machine

def exec (i : Instr) (s : State) : Host.Outcome State Fault Refusal :=
  match i with
  | .nextSlice d => Sys2Proof.Machine.execNextSlice d s
  | .loopStart d => Sys2Proof.Machine.execLoopStart d s
  | .loopEnd d => Sys2Proof.Machine.execLoopEnd d s
  | .repeatSlice d => Sys2Proof.Machine.execRepeatSlice d s
  | .jump d => Sys2Proof.Machine.execJump d s
  | .stepEnd d => Sys2Proof.Machine.execStepEnd d s
  | .halt d => Sys2Proof.Machine.execHalt d s
  | .dieBarrierArrive d => Sys2Proof.Machine.execDieBarrierArrive d s
  | .dieBarrierWait d => Sys2Proof.Machine.execDieBarrierWait d s
  | .generatorAdvance d => Sys2Proof.Machine.execGeneratorAdvance d s
  | .stepClose d => Sys2Proof.Machine.execStepClose d s
  | .sealPoint d => Sys2Proof.Machine.execSealPoint d s
  | .pass d => Sys2Proof.Machine.execPass d s
  | .preload d => Sys2Proof.Machine.execPreload d s
  | .drain d => Sys2Proof.Machine.execDrain d s
  | .passEnd d b => Sys2Proof.Machine.execPassEnd d b s
  | .drainLastRowRead d b => Sys2Proof.Machine.execDrainLastRowRead d b s
  | .add d v => Sys2Proof.Machine.execAdd d v s
  | .sub d v => Sys2Proof.Machine.execSub d v s
  | .mul d v => Sys2Proof.Machine.execMul d v s
  | .max d v => Sys2Proof.Machine.execMax d v s
  | .min d v => Sys2Proof.Machine.execMin d v s
  | .abs d v => Sys2Proof.Machine.execAbs d v s
  | .neg d v => Sys2Proof.Machine.execNeg d v s
  | .copy d v => Sys2Proof.Machine.execCopy d v s
  | .exp d v => Sys2Proof.Machine.execExp d v s
  | .log d v => Sys2Proof.Machine.execLog d v s
  | .recip d v => Sys2Proof.Machine.execRecip d v s
  | .rsqrt d v => Sys2Proof.Machine.execRsqrt d v s
  | .tanh d v => Sys2Proof.Machine.execTanh d v s
  | .relu d v => Sys2Proof.Machine.execRelu d v s
  | .gelu d v => Sys2Proof.Machine.execGelu d v s
  | .silu d v => Sys2Proof.Machine.execSilu d v s
  | .cmpLt d v => Sys2Proof.Machine.execCmpLt d v s
  | .cmpLe d v => Sys2Proof.Machine.execCmpLe d v s
  | .cmpEq d v => Sys2Proof.Machine.execCmpEq d v s
  | .cmpNe d v => Sys2Proof.Machine.execCmpNe d v s
  | .mand d v => Sys2Proof.Machine.execMand d v s
  | .mor d v => Sys2Proof.Machine.execMor d v s
  | .mnot d v => Sys2Proof.Machine.execMnot d v s
  | .iadd d v => Sys2Proof.Machine.execIadd d v s
  | .isub d v => Sys2Proof.Machine.execIsub d v s
  | .imul d v => Sys2Proof.Machine.execImul d v s
  | .iotaCol d v => Sys2Proof.Machine.execIotaCol d v s
  | .iotaRow d v => Sys2Proof.Machine.execIotaRow d v s
  | .rsum d v => Sys2Proof.Machine.execRsum d v s
  | .rmax d v => Sys2Proof.Machine.execRmax d v s
  | .ramax d v => Sys2Proof.Machine.execRamax d v s
  | .cvt d v => Sys2Proof.Machine.execCvt d v s
  | .cvtBlk d v => Sys2Proof.Machine.execCvtBlk d v s
  | .cvtBlkS d v => Sys2Proof.Machine.execCvtBlkS d v s
  | .cvtUnblk d v => Sys2Proof.Machine.execCvtUnblk d v s
  | .epi d v => Sys2Proof.Machine.execEpi d v s
  | .epiRelu d v => Sys2Proof.Machine.execEpiRelu d v s
  | .epiGelu d v => Sys2Proof.Machine.execEpiGelu d v s
  | .epiSilu d v => Sys2Proof.Machine.execEpiSilu d v s
  | .epia d v => Sys2Proof.Machine.execEpia d v s
  | .epiaRelu d v => Sys2Proof.Machine.execEpiaRelu d v s
  | .epiaGelu d v => Sys2Proof.Machine.execEpiaGelu d v s
  | .epiaSilu d v => Sys2Proof.Machine.execEpiaSilu d v s
  | .smInit d v => Sys2Proof.Machine.execSmInit d v s
  | .smStep d v => Sys2Proof.Machine.execSmStep d v s
  | .smRescale d v => Sys2Proof.Machine.execSmRescale d v s
  | .smNorm d v => Sys2Proof.Machine.execSmNorm d v s
  | .vectorOpDone d v => Sys2Proof.Machine.execVectorOpDone d v s
  | .delayedDrainEnd d b => Sys2Proof.Machine.execDelayedDrainEnd d b s
  | .launch d m => Sys2Proof.Machine.execLaunch d m s
  | .launchAfter d m => Sys2Proof.Machine.execLaunchAfter d m s
  | .moverCompletion d u slot => Sys2Proof.Machine.execMoverCompletion d u slot s
  | .tokenCompletion d u tok remote => Sys2Proof.Machine.execTokenCompletion d u tok remote s
  | .granaryFlushReadReturn d u slot => Sys2Proof.Machine.execGranaryFlushReadReturn d u slot s
  | .granaryPageReadReturn d u slot page ct tagRec error => Sys2Proof.Machine.execGranaryPageReadReturn d u slot page ct tagRec error s
  | .armBucket d => Sys2Proof.Machine.execArmBucket d s
  | .closeBucket d => Sys2Proof.Machine.execCloseBucket d s
  | .flushSketchSums d => Sys2Proof.Machine.execFlushSketchSums d s
  | .hintWakeClock d h => Sys2Proof.Machine.execHintWakeClock d h s
  | .hintWakePower d h => Sys2Proof.Machine.execHintWakePower d h s
  | .hintRelease d h => Sys2Proof.Machine.execHintRelease d h s
  | .domainWakeDone k => Sys2Proof.Machine.execDomainWakeDone k s
  | .domainGateRequest k power => Sys2Proof.Machine.execDomainGateRequest k power s
  | .faultReport owner unit cls u => Sys2Proof.Machine.execFaultReport owner unit cls u s
  | .columnFault d col row => Sys2Proof.Machine.execColumnFault d col row s
  | .bBusParityError d col => Sys2Proof.Machine.execBBusParityError d col s
  | .aBusParityError d => Sys2Proof.Machine.execABusParityError d s
  | .columnTestDone d col ok => Sys2Proof.Machine.execColumnTestDone d col ok s
  | .bushelStart n => Sys2Proof.Machine.execBushelStart n s
  | .sliceTargetReached d => Sys2Proof.Machine.execSliceTargetReached d s
  | .switchDone d => Sys2Proof.Machine.execSwitchDone d s
  | .sealedNominalEnd d => Sys2Proof.Machine.execSealedNominalEnd d s
  | .idleGate d => Sys2Proof.Machine.execIdleGate d s
  | .idlePowerGate d => Sys2Proof.Machine.execIdlePowerGate d s
  | .dataFlit l dir g framing payload => Sys2Proof.Machine.execDataFlit l dir g framing payload s
  | .dataLastFlit l dir g framing payload => Sys2Proof.Machine.execDataLastFlit l dir g framing payload s
  | .idleFlit l dir g framing => Sys2Proof.Machine.execIdleFlit l dir g framing s
  | .tokenSetFlit l dir g framing => Sys2Proof.Machine.execTokenSetFlit l dir g framing s
  | .windowCreditReturn l dir g framing wins => Sys2Proof.Machine.execWindowCreditReturn l dir g framing wins s
  | .linkCreditReturn l dir g framing => Sys2Proof.Machine.execLinkCreditReturn l dir g framing s
  | .memoryReadRequest l dir g framing addr len => Sys2Proof.Machine.execMemoryReadRequest l dir g framing addr len s
  | .memoryReadData l dir g framing data => Sys2Proof.Machine.execMemoryReadData l dir g framing data s
  | .memoryWrite l dir g framing addr data => Sys2Proof.Machine.execMemoryWrite l dir g framing addr data s
  | .stepOutcome d u g framing => Sys2Proof.Machine.execStepOutcome d u g framing s
  | .issueCount l dir g framing count => Sys2Proof.Machine.execIssueCount l dir g framing count s
  | .replayRequest l dir g framing => Sys2Proof.Machine.execReplayRequest l dir g framing s
  | .flitCrcError l dir g seq => Sys2Proof.Machine.execFlitCrcError l dir g seq s
  | .controlFlit l dir copyA copyB => Sys2Proof.Machine.execControlFlit l dir copyA copyB s
  | .laneGroupFault l dir g => Sys2Proof.Machine.execLaneGroupFault l dir g s
  | .laneTestDone l dir g bad pausedNs => Sys2Proof.Machine.execLaneTestDone l dir g bad pausedNs s
  | .discoverySeed d c => Sys2Proof.Machine.execDiscoverySeed d c s
  | .ringToken d side h => Sys2Proof.Machine.execRingToken d side h s
  | .directSeedTimer => Sys2Proof.Machine.execDirectSeedTimer s
  | .identityReport d recX nonce => Sys2Proof.Machine.execIdentityReport d recX nonce s
  | .segmentArrival d u seg => Sys2Proof.Machine.execSegmentArrival d u seg s
  | .stagedSegmentResume d u => Sys2Proof.Machine.execStagedSegmentResume d u s
  | .blockWriteAck d u entry block => Sys2Proof.Machine.execBlockWriteAck d u entry block s
  | .sketchSegmentReturn d u entry others => Sys2Proof.Machine.execSketchSegmentReturn d u entry others s
  | .voteGive u => Sys2Proof.Machine.execVoteGive u s
  | .vote m u src v => Sys2Proof.Machine.execVote m u src v s
  | .voteResult m u v => Sys2Proof.Machine.execVoteResult m u v s
  | .voteTimeout u => Sys2Proof.Machine.execVoteTimeout u s
  | .bungDrive u => Sys2Proof.Machine.execBungDrive u s
  | .digestExchange m u src step digest => Sys2Proof.Machine.execDigestExchange m u src step digest s
  | .hostCommitWord u word => Sys2Proof.Machine.execHostCommitWord u word s
  | .granaryTimeout u => Sys2Proof.Machine.execGranaryTimeout u s
  | .segmentSlotTake d u slot => Sys2Proof.Machine.execSegmentSlotTake d u slot s
  | .data m header payload => Sys2Proof.Machine.execData m header payload s
  | .delivery u recX => Sys2Proof.Machine.execDelivery u recX s
  | .acknowledgement m u src entry => Sys2Proof.Machine.execAcknowledgement m u src entry s
  | .segmentCredit m u src entry => Sys2Proof.Machine.execSegmentCredit m u src entry s
  | .windowCredit m u src entry => Sys2Proof.Machine.execWindowCredit m u src entry s
  | .closeMarker m u src bucket nf segments => Sys2Proof.Machine.execCloseMarker m u src bucket nf segments s
  | .hello m u src key => Sys2Proof.Machine.execHello m u src key s
  | .helloSend m u => Sys2Proof.Machine.execHelloSend m u s
  | .portDown m rank failed atX => Sys2Proof.Machine.execPortDown m rank failed atX s
  | .widthChange m lanes => Sys2Proof.Machine.execWidthChange m lanes s
  | .restoreComplete m u src => Sys2Proof.Machine.execRestoreComplete m u src s
  | .padding m u => Sys2Proof.Machine.execPadding m u s
  | .segmentResendTimeout m u dest kind seq => Sys2Proof.Machine.execSegmentResendTimeout m u dest kind seq s
  | .segmentPartialDrop m u src kind seq => Sys2Proof.Machine.execSegmentPartialDrop m u src kind seq s
  | .reshardStep u => Sys2Proof.Machine.execReshardStep u s
  | .rackingCoderIdleClose d u => Sys2Proof.Machine.execRackingCoderIdleClose d u s
  | .rackingBufferTake d u => Sys2Proof.Machine.execRackingBufferTake d u s
  | .commitSegmentSend u => Sys2Proof.Machine.execCommitSegmentSend u s
  | .caskPieceRead d u => Sys2Proof.Machine.execCaskPieceRead d u s
  | .powerLoss => Sys2Proof.Machine.execPowerLoss s
  | .rxFrameDiscard m frame fcsOk => Sys2Proof.Machine.execRxFrameDiscard m frame fcsOk s
  | .macsecFrameDiscard m u why len => Sys2Proof.Machine.execMacsecFrameDiscard m u why len s
  | .pause m quanta => Sys2Proof.Machine.execPause m quanta s
  | .pfc m quanta => Sys2Proof.Machine.execPfc m quanta s
  | .pauseExpiry m => Sys2Proof.Machine.execPauseExpiry m s
  | .ptpSync m dom twoStep offset => Sys2Proof.Machine.execPtpSync m dom twoStep offset s
  | .ptpDelayResponse m dom delay => Sys2Proof.Machine.execPtpDelayResponse m dom delay s
  | .ptpPeerDelay m dom delay => Sys2Proof.Machine.execPtpPeerDelay m dom delay s
  | .ptpSyncLoss => Sys2Proof.Machine.execPtpSyncLoss s
  | .holdoverExpiry => Sys2Proof.Machine.execHoldoverExpiry s
  | .lldpReceive m chassis port => Sys2Proof.Machine.execLldpReceive m chassis port s
  | .lldpTransmit m => Sys2Proof.Machine.execLldpTransmit m s
  | .peckStart m iX => Sys2Proof.Machine.execPeckStart m iX s
  | .peckLastFrameEnd m => Sys2Proof.Machine.execPeckLastFrameEnd m s
  | .sealedControlFrame m u => Sys2Proof.Machine.execSealedControlFrame m u s
  | .portFailure m why => Sys2Proof.Machine.execPortFailure m why s
  | .failoverDeltaApply rank m => Sys2Proof.Machine.execFailoverDeltaApply rank m s
  | .shedStretchStart m unit => Sys2Proof.Machine.execShedStretchStart m unit s
  | .laneWake m => Sys2Proof.Machine.execLaneWake m s
  | .wakePatternMatch m frame => Sys2Proof.Machine.execWakePatternMatch m frame s
  | .macHalfClear m w => Sys2Proof.Machine.execMacHalfClear m w s
  | .hubTapBaseWrite v => Sys2Proof.Machine.execHubTapBaseWrite v s
  | .hubTapOnWrite v => Sys2Proof.Machine.execHubTapOnWrite v s
  | .hubStopAll v => Sys2Proof.Machine.execHubStopAll v s
  | .hubDoorbell t entry => Sys2Proof.Machine.execHubDoorbell t entry s
  | .cxlLinkReset => Sys2Proof.Machine.execCxlLinkReset s
  | .cxlLinkUp table width half skid => Sys2Proof.Machine.execCxlLinkUp table width half skid s
  | .tapSnoop t entry => Sys2Proof.Machine.execTapSnoop t entry s
  | .tapTornTimeout t => Sys2Proof.Machine.execTapTornTimeout t s
  | .inputRecord u recX => Sys2Proof.Machine.execInputRecord u recX s
  | .outputRecord u => Sys2Proof.Machine.execOutputRecord u s
  | .ringIndexAdvance t area idx => Sys2Proof.Machine.execRingIndexAdvance t area idx s
  | .rackingTap u entry => Sys2Proof.Machine.execRackingTap u entry s
  | .caskTap u entry => Sys2Proof.Machine.execCaskTap u entry s
  | .evaluationCaskRequest u entry => Sys2Proof.Machine.execEvaluationCaskRequest u entry s
  | .restore u entry job objs => Sys2Proof.Machine.execRestore u entry job objs s
  | .granaryMap u entry map => Sys2Proof.Machine.execGranaryMap u entry map s
  | .coefficientTap u sets => Sys2Proof.Machine.execCoefficientTap u sets s
  | .gaugeTap plan => Sys2Proof.Machine.execGaugeTap plan s
  | .layoutTap u pkg => Sys2Proof.Machine.execLayoutTap u pkg s
  | .statusTap u entry => Sys2Proof.Machine.execStatusTap u entry s
  | .closedStatusWrite u => Sys2Proof.Machine.execClosedStatusWrite u s
  | .loadJob u cmdSeq job => Sys2Proof.Machine.execLoadJob u cmdSeq job s
  | .stopTheTun u cmdSeq => Sys2Proof.Machine.execStopTheTun u cmdSeq s
  | .tearDown u cmdSeq => Sys2Proof.Machine.execTearDown u cmdSeq s
  | .writeScheduleRecord u cmdSeq recX => Sys2Proof.Machine.execWriteScheduleRecord u cmdSeq recX s
  | .writeSilentLimit u cmdSeq limit => Sys2Proof.Machine.execWriteSilentLimit u cmdSeq limit s
  | .writeGravityRecord u cmdSeq recX => Sys2Proof.Machine.execWriteGravityRecord u cmdSeq recX s
  | .writeLoopCountEntry u cmdSeq entry count => Sys2Proof.Machine.execWriteLoopCountEntry u cmdSeq entry count s
  | .writeLimitsRecord u cmdSeq recX => Sys2Proof.Machine.execWriteLimitsRecord u cmdSeq recX s
  | .unknownCommand u cmdSeq op => Sys2Proof.Machine.execUnknownCommand u cmdSeq op s
  | .statusWindowWrite off w bytes => Sys2Proof.Machine.execStatusWindowWrite off w bytes s
  | .start finds => Sys2Proof.Machine.execStart finds s
  | .startWatchdog => Sys2Proof.Machine.execStartWatchdog s
  | .bmcFlashWrite copy image => Sys2Proof.Machine.execBmcFlashWrite copy image s
  | .bmcCountClearRestart finds => Sys2Proof.Machine.execBmcCountClearRestart finds s
  | .bmcReadBootRecords => Sys2Proof.Machine.execBmcReadBootRecords s
  | .bmcWriteRebuildShare d share => Sys2Proof.Machine.execBmcWriteRebuildShare d share s
  | .bmcWriteHoldover ms => Sys2Proof.Machine.execBmcWriteHoldover ms s
  | .bmcOrderDeepIdle => Sys2Proof.Machine.execBmcOrderDeepIdle s
  | .autoIdleTimer => Sys2Proof.Machine.execAutoIdleTimer s
  | .pullPreparation => Sys2Proof.Machine.execPullPreparation s
  | .carrierFit mv finds => Sys2Proof.Machine.execCarrierFit mv finds s
  | .getVersion => Sys2Proof.Machine.execGetVersion s
  | .getCapabilities => Sys2Proof.Machine.execGetCapabilities s
  | .negotiateAlgorithms ok => Sys2Proof.Machine.execNegotiateAlgorithms ok s
  | .getDigests => Sys2Proof.Machine.execGetDigests s
  | .getCertificate slot off len => Sys2Proof.Machine.execGetCertificate slot off len s
  | .challenge slot nonce => Sys2Proof.Machine.execChallenge slot nonce s
  | .getMeasurements index sign nonce => Sys2Proof.Machine.execGetMeasurements index sign nonce s
  | .keyExchange nonce => Sys2Proof.Machine.execKeyExchange nonce s
  | .finish session ok => Sys2Proof.Machine.execFinish session ok s
  | .heartbeat session => Sys2Proof.Machine.execHeartbeat session s
  | .keyUpdate session => Sys2Proof.Machine.execKeyUpdate session s
  | .endSession session => Sys2Proof.Machine.execEndSession session s
  | .chunkSend handle chunk last => Sys2Proof.Machine.execChunkSend handle chunk last s
  | .chunkGet handle seq => Sys2Proof.Machine.execChunkGet handle seq s
  | .setTunSecret session u ts imports sigOk => Sys2Proof.Machine.execSetTunSecret session u ts imports sigOk s
  | .ideKm session keyProgram => Sys2Proof.Machine.execIdeKm session keyProgram s
  | .drbgReseed => Sys2Proof.Machine.execDrbgReseed s
  | .tamper => Sys2Proof.Machine.execTamper s
  | .inputBelow40V mv => Sys2Proof.Machine.execInputBelow40V mv s
  | .inputBelow36V mv => Sys2Proof.Machine.execInputBelow36V mv s
  | .inputOverCurrent ma => Sys2Proof.Machine.execInputOverCurrent ma s
  | .supplyCollapse mv => Sys2Proof.Machine.execSupplyCollapse mv s
  | .railOverCurrent => Sys2Proof.Machine.execRailOverCurrent s
  | .psAlert => Sys2Proof.Machine.execPsAlert s
  | .estopPin => Sys2Proof.Machine.execEstopPin s
  | .bmcOrderEstop => Sys2Proof.Machine.execBmcOrderEstop s
  | .estopRelease ns byBmc => Sys2Proof.Machine.execEstopRelease ns byBmc s
  | .thermalSample x tripped => Sys2Proof.Machine.execThermalSample x tripped s
  | .throttleRaise => Sys2Proof.Machine.execThrottleRaise s
  | .throttleLower => Sys2Proof.Machine.execThrottleLower s
  | .clockLoss c => Sys2Proof.Machine.execClockLoss c s
  | .dieLoss d cause mgmtLost => Sys2Proof.Machine.execDieLoss d cause mgmtLost s
  | .reductionEngineFault e => Sys2Proof.Machine.execReductionEngineFault e s
  | .uncorrectableError d u site addr second => Sys2Proof.Machine.execUncorrectableError d u site addr second s
  | .correctableError d lvl unit row => Sys2Proof.Machine.execCorrectableError d lvl unit row s
  | .scrubTick d lvl => Sys2Proof.Machine.execScrubTick d lvl s
  | .cellarInterfaceFailure iX => Sys2Proof.Machine.execCellarInterfaceFailure iX s
  | .rebuildGranule pg => Sys2Proof.Machine.execRebuildGranule pg s
  | .ppsInEdge ns => Sys2Proof.Machine.execPpsInEdge ns s
  | .ppsOutPulse ns => Sys2Proof.Machine.execPpsOutPulse ns s
  | .i3cEntdaa addr => Sys2Proof.Machine.execI3cEntdaa addr s
  | .idcode => Sys2Proof.Machine.execIdcode s
  | .bypass tdi => Sys2Proof.Machine.execBypass tdi s
  | .extest outs => Sys2Proof.Machine.execExtest outs s
  | .samplePreload ins => Sys2Proof.Machine.execSamplePreload ins s
  | .extestPulse lanes => Sys2Proof.Machine.execExtestPulse lanes s
  | .extestTrain lanes => Sys2Proof.Machine.execExtestTrain lanes s
  | .ptpAnnounce m dom prio1 cls accuracy variance prio2 identity steps => Sys2Proof.Machine.execPtpAnnounce m dom prio1 cls accuracy variance prio2 identity steps s
  | .ptpFollowUp m dom offset => Sys2Proof.Machine.execPtpFollowUp m dom offset s
  | .portLinkUp m lanes => Sys2Proof.Machine.execPortLinkUp m lanes s
  | .inputAbove40V mv => Sys2Proof.Machine.execInputAbove40V mv s
  | .hubManagerWatchdog => Sys2Proof.Machine.execHubManagerWatchdog s
  | .bmcOrderRestart finds => Sys2Proof.Machine.execBmcOrderRestart finds s
  | .bmcOrderWake => Sys2Proof.Machine.execBmcOrderWake s
  | .spdmUnsupportedRequest code => Sys2Proof.Machine.execSpdmUnsupportedRequest code s

end Sys2Proof.Machine
end

