-- ==== Sys2Proof/WellFormed.lean ====
section
/-! DEFINITION. The form that a command's operands have: the widths, lengths and ranges that the spec gives the flits,
pages, keys and records they carry. -/

namespace Sys2Proof

/-- Whether a framing word has a kind (R314, R315). -/
def flKindIs (k : Nat) (framing : BitVec 64) : Bool := field framing 16 4 == k

/-- Whether a command's operands have their form: flits of their kind with 128 bytes (R314, R315), pages of 4,096 bytes
(R176), digests and keys of their lengths (R219, R372, R374), frames of at most 9,216 bytes (R284), priorities below 8
(R287), tap numbers below 1,024 (R337), rows and addresses inside their memories (R162, R179), a list of one bit for each
SerDes and CXL lane (R18, R422). -/
def Instr.wf : Instr → Bool
  | .granaryPageReadReturn _ _ _ _ ct _ error => error || decide (ct.length = 4096)
  | .dataFlit _ _ _ framing payload => flKindIs 0x1 framing && decide (payload.length = 128)
  | .dataLastFlit _ _ _ framing payload => flKindIs 0x2 framing && decide (payload.length = 128)
  | .idleFlit _ _ _ framing => flKindIs 0x0 framing
  | .tokenSetFlit _ _ _ framing => flKindIs 0x3 framing
  | .windowCreditReturn _ _ _ framing wins => flKindIs 0x4 framing && field framing 50 14 == wins.length && decide (wins.length ≤ 64)
  | .linkCreditReturn _ _ _ framing => flKindIs 0x5 framing && decide (1 ≤ field framing 50 14) && decide (field framing 50 14 ≤ 64)
  | .memoryReadRequest _ _ _ framing addr len => flKindIs 0x6 framing && decide (len ≠ 0) && decide (len < 2 ^ 64) && decide (addr < 2 ^ 64)
  | .memoryReadData _ _ _ framing bs => flKindIs 0x7 framing && decide (bs.length ≤ 128)
  | .memoryWrite _ _ _ framing addr bs => flKindIs 0x8 framing && decide (bs.length ≤ 120) && decide (addr < 2 ^ 64)
  | .stepOutcome _ _ _ framing => flKindIs 0x9 framing
  | .issueCount _ _ _ framing count => flKindIs 0xA framing && decide (count < 2 ^ 64)
  | .controlFlit _ _ a b => a.length == 64 && b.length == 64
  | .replayRequest _ _ _ framing => flKindIs 0xB framing
  | .digestExchange _ _ _ step digest => decide (step < 2 ^ 48) && (digest.length == 64 || digest.length == 128)
  | .data _ _ payload => decide (payload.length ≤ 8192)
  | .pfc _ quanta => quanta.all fun q => decide (q.1 < 8)
  | .wakePatternMatch _ frame => decide (frame.length ≤ 9216)
  | .cxlLinkUp table _ _ _ => table.all fun e => decide (e.1 < 1024)
  | .statusWindowWrite _ _ bytes => decide (bytes.val ≠ 0)
  | .challenge _ nonce => decide (nonce.length = 32)
  | .getMeasurements _ sign nonce => !sign || decide (nonce.length = 32)
  | .keyExchange nonce => decide (nonce.length = 32)
  | .setTunSecret _ _ ts imports _ => decide (ts.length = 32) && decide (imports.length ≤ 4) && imports.all fun k => decide (k.length = 64)
  | .uncorrectableError _ _ site addr _ => match site with
    | .scratchpad => decide (addr < 2 ^ 28)
    | .loft | .sketchCache | .fetch => decide (2 ^ 32 ≤ addr) && decide (addr % 2 ^ 31 < 0x60000000)
    | .context | .cellar | .staging => true
  | .correctableError _ lvl unit row => match lvl.val with
    | 0 => decide (row < 512)
    | 3 => decide (unit.val < 6) && decide (row < 8388608)
    | _ => decide (unit.val < 32) && decide (row < 6144)
  | .extestPulse lanes => decide (lanes.length = 136)
  | .extestTrain lanes => decide (lanes.length = 136)
  | .ptpAnnounce _ _ prio1 cls accuracy variance prio2 _ _ => decide (prio1 < 256) && decide (cls < 256) && decide (accuracy < 256) && decide (variance < 65536) && decide (prio2 < 256)
  | .nextSlice .. | .loopStart .. | .loopEnd .. | .repeatSlice .. | .jump .. | .stepEnd .. | .halt ..
  | .dieBarrierArrive .. | .dieBarrierWait .. | .generatorAdvance .. | .stepClose .. | .sealPoint .. | .pass ..
  | .preload .. | .drain .. | .passEnd .. | .drainLastRowRead .. | .add .. | .sub .. | .mul .. | .max .. | .min ..
  | .abs .. | .neg .. | .copy .. | .exp .. | .log .. | .recip .. | .rsqrt .. | .tanh .. | .relu .. | .gelu ..
  | .silu .. | .cmpLt .. | .cmpLe .. | .cmpEq .. | .cmpNe .. | .mand .. | .mor .. | .mnot .. | .iadd .. | .isub ..
  | .imul .. | .iotaCol .. | .iotaRow .. | .rsum .. | .rmax .. | .ramax .. | .cvt .. | .cvtBlk .. | .cvtBlkS ..
  | .cvtUnblk .. | .epi .. | .epiRelu .. | .epiGelu .. | .epiSilu .. | .epia .. | .epiaRelu .. | .epiaGelu ..
  | .epiaSilu .. | .smInit .. | .smStep .. | .smRescale .. | .smNorm .. | .vectorOpDone .. | .delayedDrainEnd ..
  | .launch .. | .launchAfter .. | .moverCompletion .. | .tokenCompletion .. | .granaryFlushReadReturn ..
  | .armBucket .. | .closeBucket .. | .flushSketchSums .. | .hintWakeClock .. | .hintWakePower .. | .hintRelease ..
  | .domainWakeDone .. | .domainGateRequest .. | .faultReport .. | .columnFault .. | .bBusParityError ..
  | .aBusParityError .. | .columnTestDone .. | .bushelStart .. | .sliceTargetReached .. | .switchDone ..
  | .sealedNominalEnd .. | .idleGate .. | .idlePowerGate .. | .flitCrcError ..
  | .laneGroupFault .. | .laneTestDone .. | .discoverySeed .. | .ringToken .. | .directSeedTimer ..
  | .identityReport .. | .segmentArrival .. | .stagedSegmentResume .. | .blockWriteAck .. | .sketchSegmentReturn ..
  | .voteGive .. | .vote .. | .voteResult .. | .voteTimeout .. | .bungDrive .. | .hostCommitWord ..
  | .granaryTimeout .. | .segmentSlotTake .. | .delivery .. | .acknowledgement .. | .segmentCredit ..
  | .windowCredit .. | .closeMarker .. | .hello .. | .helloSend .. | .portDown .. | .widthChange ..
  | .restoreComplete .. | .padding .. | .segmentResendTimeout .. | .segmentPartialDrop .. | .reshardStep ..
  | .rackingCoderIdleClose .. | .rackingBufferTake .. | .commitSegmentSend .. | .caskPieceRead .. | .powerLoss ..
  | .rxFrameDiscard .. | .macsecFrameDiscard .. | .pause .. | .pauseExpiry .. | .ptpSync .. | .ptpDelayResponse ..
  | .ptpPeerDelay .. | .ptpSyncLoss .. | .holdoverExpiry .. | .lldpReceive .. | .lldpTransmit .. | .peckStart ..
  | .peckLastFrameEnd .. | .sealedControlFrame .. | .portFailure .. | .failoverDeltaApply .. | .shedStretchStart ..
  | .laneWake .. | .macHalfClear .. | .hubTapBaseWrite .. | .hubTapOnWrite .. | .hubStopAll .. | .hubDoorbell ..
  | .cxlLinkReset .. | .tapSnoop .. | .tapTornTimeout .. | .inputRecord .. | .outputRecord .. | .ringIndexAdvance ..
  | .rackingTap .. | .caskTap .. | .evaluationCaskRequest .. | .restore .. | .granaryMap .. | .coefficientTap ..
  | .gaugeTap .. | .layoutTap .. | .statusTap .. | .closedStatusWrite .. | .loadJob .. | .stopTheTun ..
  | .tearDown .. | .writeScheduleRecord .. | .writeSilentLimit .. | .writeGravityRecord .. | .writeLoopCountEntry ..
  | .writeLimitsRecord .. | .unknownCommand .. | .start .. | .startWatchdog .. | .bmcFlashWrite ..
  | .bmcCountClearRestart .. | .bmcReadBootRecords .. | .bmcWriteRebuildShare .. | .bmcWriteHoldover ..
  | .bmcOrderDeepIdle .. | .autoIdleTimer .. | .pullPreparation .. | .carrierFit .. | .getVersion ..
  | .getCapabilities .. | .negotiateAlgorithms .. | .getDigests .. | .getCertificate .. | .finish .. | .heartbeat ..
  | .keyUpdate .. | .endSession .. | .chunkSend .. | .chunkGet .. | .ideKm .. | .drbgReseed .. | .tamper ..
  | .inputBelow40V .. | .inputBelow36V .. | .inputOverCurrent .. | .supplyCollapse .. | .railOverCurrent ..
  | .psAlert .. | .estopPin .. | .bmcOrderEstop .. | .estopRelease .. | .thermalSample .. | .throttleRaise ..
  | .throttleLower .. | .clockLoss .. | .dieLoss .. | .reductionEngineFault .. | .scrubTick ..
  | .cellarInterfaceFailure .. | .rebuildGranule .. | .ppsInEdge .. | .ppsOutPulse .. | .i3cEntdaa .. | .idcode ..
  | .bypass .. | .extest .. | .samplePreload .. | .ptpFollowUp .. | .portLinkUp .. | .inputAbove40V ..
  | .hubManagerWatchdog .. | .bmcOrderRestart .. | .bmcOrderWake .. | .spdmUnsupportedRequest .. => true

end Sys2Proof
end

