-- ==== Sys2Proof/Safety.lean ====
section
/-! DEFINITION. What the claims call a good state: every byte memory keeps its canonical form. -/

namespace Sys2Proof.Machine

/-- Every byte memory of the device keeps its canonical form: the scratchpad and loft of each die, and the
cellar. -/
def State.memWf (s : State) : Bool :=
  s.cellar.mem.wf && s.dies.all fun p => p.2.mem.wf

end Sys2Proof.Machine
end

