-- ==== Sys2Proof/Certificates/Slice0/Obligations.lean ====
section
/-! DEFINITION. The statements about the model, for the provers. Each is about every state, or every state that meets the
premises it names; the rules it rests on are those of the spec. -/

namespace Sys2Proof.Claims

end Sys2Proof.Claims

open Sys2Proof Sys2Proof.Machine Sys2Proof.Claims

/-! ### What the claims speak of -/

/-- The die a slice command is for and the operation of a slice it names: CTL_OP, SYNC_OP, SEAL, ARR_OP, the vector
operation of a unit, MOV_OP of a mover, UPD_OP, or the ACTION of a hint, by the codes of R32 to R39 and R113. -/
def Sys2Proof.Claims.sliceKey : Instr → Option (DieId × (Slice → Bool))
  | .nextSlice d => some (d, fun x => ctlOp x == 0 || decide (7 ≤ ctlOp x))
  | .loopStart d => some (d, fun x => ctlOp x == 1)
  | .loopEnd d => some (d, fun x => ctlOp x == 2)
  | .repeatSlice d => some (d, fun x => ctlOp x == 3)
  | .jump d => some (d, fun x => ctlOp x == 4)
  | .stepEnd d => some (d, fun x => ctlOp x == 5)
  | .halt d => some (d, fun x => ctlOp x == 6)
  | .dieBarrierArrive d => some (d, fun x => syncOp x == 1)
  | .dieBarrierWait d => some (d, fun x => syncOp x == 2)
  | .generatorAdvance d => some (d, fun x => syncOp x == 3)
  | .stepClose d => some (d, fun x => syncOp x == 0x10)
  | .sealPoint d => some (d, fun x => ctlSeal x)
  | .pass d => some (d, fun x => arrOp (arrGroup x) == 1)
  | .preload d => some (d, fun x => arrOp (arrGroup x) == 2)
  | .drain d => some (d, fun x => arrOp (arrGroup x) == 3)
  | .add d v => some (d, fun x => vecOp (vecGroup x v) == 0x1)
  | .sub d v => some (d, fun x => vecOp (vecGroup x v) == 0x2)
  | .mul d v => some (d, fun x => vecOp (vecGroup x v) == 0x3)
  | .max d v => some (d, fun x => vecOp (vecGroup x v) == 0x4)
  | .min d v => some (d, fun x => vecOp (vecGroup x v) == 0x5)
  | .abs d v => some (d, fun x => vecOp (vecGroup x v) == 0x6)
  | .neg d v => some (d, fun x => vecOp (vecGroup x v) == 0x7)
  | .copy d v => some (d, fun x => vecOp (vecGroup x v) == 0x8)
  | .exp d v => some (d, fun x => vecOp (vecGroup x v) == 0x10)
  | .log d v => some (d, fun x => vecOp (vecGroup x v) == 0x11)
  | .recip d v => some (d, fun x => vecOp (vecGroup x v) == 0x12)
  | .rsqrt d v => some (d, fun x => vecOp (vecGroup x v) == 0x13)
  | .tanh d v => some (d, fun x => vecOp (vecGroup x v) == 0x14)
  | .relu d v => some (d, fun x => vecOp (vecGroup x v) == 0x18)
  | .gelu d v => some (d, fun x => vecOp (vecGroup x v) == 0x19)
  | .silu d v => some (d, fun x => vecOp (vecGroup x v) == 0x1A)
  | .cmpLt d v => some (d, fun x => vecOp (vecGroup x v) == 0x20)
  | .cmpLe d v => some (d, fun x => vecOp (vecGroup x v) == 0x21)
  | .cmpEq d v => some (d, fun x => vecOp (vecGroup x v) == 0x22)
  | .cmpNe d v => some (d, fun x => vecOp (vecGroup x v) == 0x23)
  | .mand d v => some (d, fun x => vecOp (vecGroup x v) == 0x24)
  | .mor d v => some (d, fun x => vecOp (vecGroup x v) == 0x25)
  | .mnot d v => some (d, fun x => vecOp (vecGroup x v) == 0x26)
  | .iadd d v => some (d, fun x => vecOp (vecGroup x v) == 0x28)
  | .isub d v => some (d, fun x => vecOp (vecGroup x v) == 0x29)
  | .imul d v => some (d, fun x => vecOp (vecGroup x v) == 0x2A)
  | .iotaCol d v => some (d, fun x => vecOp (vecGroup x v) == 0x2B)
  | .iotaRow d v => some (d, fun x => vecOp (vecGroup x v) == 0x2C)
  | .rsum d v => some (d, fun x => vecOp (vecGroup x v) == 0x30)
  | .rmax d v => some (d, fun x => vecOp (vecGroup x v) == 0x31)
  | .ramax d v => some (d, fun x => vecOp (vecGroup x v) == 0x32)
  | .cvt d v => some (d, fun x => vecOp (vecGroup x v) == 0x40)
  | .cvtBlk d v => some (d, fun x => vecOp (vecGroup x v) == 0x41)
  | .cvtBlkS d v => some (d, fun x => vecOp (vecGroup x v) == 0x42)
  | .cvtUnblk d v => some (d, fun x => vecOp (vecGroup x v) == 0x43)
  | .epi d v => some (d, fun x => vecOp (vecGroup x v) == 0x50)
  | .epiRelu d v => some (d, fun x => vecOp (vecGroup x v) == 0x51)
  | .epiGelu d v => some (d, fun x => vecOp (vecGroup x v) == 0x52)
  | .epiSilu d v => some (d, fun x => vecOp (vecGroup x v) == 0x53)
  | .epia d v => some (d, fun x => vecOp (vecGroup x v) == 0x58)
  | .epiaRelu d v => some (d, fun x => vecOp (vecGroup x v) == 0x59)
  | .epiaGelu d v => some (d, fun x => vecOp (vecGroup x v) == 0x5A)
  | .epiaSilu d v => some (d, fun x => vecOp (vecGroup x v) == 0x5B)
  | .smInit d v => some (d, fun x => vecOp (vecGroup x v) == 0x60)
  | .smStep d v => some (d, fun x => vecOp (vecGroup x v) == 0x61)
  | .smRescale d v => some (d, fun x => vecOp (vecGroup x v) == 0x62)
  | .smNorm d v => some (d, fun x => vecOp (vecGroup x v) == 0x63)
  | .launch d m => some (d, fun x => movOp x m == 1)
  | .launchAfter d m => some (d, fun x => movOp x m == 2)
  | .armBucket d => some (d, fun x => updOp x == 1)
  | .closeBucket d => some (d, fun x => updOp x == 2)
  | .flushSketchSums d => some (d, fun x => updOp x == 3)
  | .hintWakeClock d h => some (d, fun x => hintAction x h == 1)
  | .hintWakePower d h => some (d, fun x => hintAction x h == 2)
  | .hintRelease d h => some (d, fun x => hintAction x h == 3)
  | _ => none

/-- A slice command names an operation of the slice at the place of a tun's program, and the tun may issue now: its time
slice runs on the die, no step outcome is awaited and the slice has been fetched. -/
def Sys2Proof.Claims.AtGate (c : Instr) (s : State) (d : DieId) (u : Nat) (x : Slice) : Prop :=
  (∃ names, sliceKey c = some (d, names) ∧ names x = true) ∧ s.issuer d = some u
    ∧ (s.ctx d u).sliceAt (s.ctx d u).pc = some x ∧ s.stepHeld d u = false ∧ (s.ctx d u).fetchWait = 0

/-- What the issue gate answers for a slice of a tun on a die (R41). -/
def Sys2Proof.Claims.gateAnswer (s : State) (d : DieId) (u : Nat) (x : Slice) : GateOut :=
  gateSlice (s.gateIn d u x) (s.die d) (s.ctx d u) x

/-- Every byte that a die, or a tun with a cellar key, reads is the same in two states: the scratchpad and loft bytes of
every die and the cellar. -/
def Sys2Proof.Claims.SameBytes (s t : State) : Prop :=
  (∀ n a, (t.die n).mem.read a = (s.die n).mem.read a) ∧ ∀ key tweak a, t.cellar.read key tweak a = s.cellar.read key tweak a

/-- A tun goes on at a slice that it jumps to from slice x: its place is the slice, and a slice that the loop buffer does not
hold waits 8 cycles for its fetch (R33), but for a seal slice, whose time slice may end in a switch that fetches (R53). -/
def Sys2Proof.Claims.JumpedTo (d : Die) (u : Nat) (k y : Ctx) (x : Slice) (a : Nat) : Prop :=
  y.pc = a ∧ (ctlSeal x = false →
    y.fetchWait = if (loopBufAdd d.loopBuf (bufKey u k.pc)).contains (bufKey u a) then 0 else 8)

/-! ### The queue -/

/-- One step takes the command at the front of the queue and has its effect on the state with the queue's rest. -/
def Obligations.StepRunsFrontCommand : Prop :=
  ∀ (c : Instr) (rest : List Instr) (s : State),
    step { s with pending := c :: rest } = exec c { s with pending := rest }

/-- With no command waiting, a step is one idle cycle of 800 ps (the model's choice, log entry 3). -/
def Obligations.EmptyQueueIdlesOneCycle : Prop :=
  ∀ s : State, s.pending = [] → step s = .next { s with nowPs := s.nowPs + 800 }

/-- No command touches the commands behind it in the queue. -/
def Obligations.CommandsKeepTheQueue : Prop :=
  ∀ (c : Instr) (s t : State), exec c s = .next t → t.pending = s.pending

/-! ### Slices -/

/-- A slice that the gate lets go issues whole: CDS_ISSUED and the issue count advance by one, the distance from the last
seal point is counted, and no byte of memory changes (R44, R45, R50). For every slice command. -/
def Obligations.SliceIssueCounts : Prop :=
  ∀ (c : Instr) (s : State) (d : DieId) (u : Nat) (x : Slice), AtGate c s d u x → gateAnswer s d u x = .go →
    ∃ t, exec c s = .next t
      ∧ (t.ctx d u).stall.issued = (s.ctx d u).stall.issued + 1
      ∧ (t.ctx d u).issue = (s.ctx d u).issue + 1
      ∧ (t.ctx d u).sinceSeal = (if ctlSeal x then 0 else (s.ctx d u).sinceSeal + 1)
      ∧ SameBytes s t

/-- Where an issued slice goes on (R33): to the next slice; into a loop whose counter and head are set; back to TARGET
while the counter of its level is not zero, and past the level's end when it is; to itself until it has repeated; to
TARGET; to the step-start slice, held for the step outcome; or nowhere. A jump outside the loop buffer waits 8 cycles. -/
def Obligations.ControlFlowOfIssuedSlice : Prop :=
  ∀ (c : Instr) (s : State) (d : DieId) (u : Nat) (x : Slice), AtGate c s d u x → gateAnswer s d u x = .go →
    ∃ t, exec c s = .next t ∧
      let k := s.ctx d u
      let y := t.ctx d u
      let level := ctlLevel x
      let count := if ctlCountSel x = 0 then countOf (ctlCount x) else countOf (Tbl.get 1 k.loopCounts (ctlCountSel x))
      (∀ l, l ≠ level → Tbl.get {} y.loops l = Tbl.get {} k.loops l)
      ∧ (ctlOp x = 0 → y.pc = k.pc + 1 ∧ y.loops = k.loops)
      ∧ (ctlOp x = 1 → y.pc = k.pc + 1 ∧ Tbl.get {} y.loops level = { isOpen := true, count := count, head := k.pc + 1 })
      ∧ (ctlOp x = 2 → (Tbl.get {} k.loops level).count ≤ 1 →
          y.pc = k.pc + 1 ∧ (Tbl.get {} y.loops level).isOpen = false ∧ (Tbl.get {} y.loops level).count = 0)
      ∧ (ctlOp x = 2 → 1 < (Tbl.get {} k.loops level).count →
          JumpedTo (s.die d) u k y x (ctlTarget x) ∧ (Tbl.get {} y.loops level).count = (Tbl.get {} k.loops level).count - 1)
      ∧ (ctlOp x = 3 → (if k.rep = 0 then count else k.rep) = 1 → y.pc = k.pc + 1 ∧ y.rep = 0)
      ∧ (ctlOp x = 3 → 1 < (if k.rep = 0 then count else k.rep) →
          y.pc = k.pc ∧ y.rep = (if k.rep = 0 then count else k.rep) - 1)
      ∧ (ctlOp x = 4 → JumpedTo (s.die d) u k y x (ctlTarget x))
      ∧ (ctlOp x = 5 → JumpedTo (s.die d) u k y x k.stepStart ∧ y.hold = true)
      ∧ (ctlOp x = 6 → y.halted = true)

/-- What an issued slice does to its tun's barriers, step close and gradient buckets (R34, R38, R97, R193): the barrier
counts, the step close, and the buckets armed, closed or handed to the stream. -/
def Obligations.SyncAndBucketsOfIssuedSlice : Prop :=
  ∀ (c : Instr) (s : State) (d : DieId) (u : Nat) (x : Slice), AtGate c s d u x → gateAnswer s d u x = .go →
    ∃ t, exec c s = .next t ∧
      let k := s.ctx d u
      let y := t.ctx d u
      y.arrives = (if syncOp x = 1 then k.arrives + 1 else k.arrives)
      ∧ y.passed = (if syncOp x = 2 then k.passed + 1 else k.passed)
      ∧ y.closed = (k.closed || syncOp x == 0x10)
      ∧ (updOp x = 1 → (Tbl.get {} y.upd.buckets (updBucket x)).armed = true)
      ∧ (updOp x = 2 → (Tbl.get {} y.upd.buckets (updBucket x)).closed = true)
      ∧ (updOp x = 3 → ∀ p ∈ k.upd.table, utBucket p.2 = updBucket x → utKind p.2 = 0 →
          (Tbl.get {} y.upd.factors p.1).flushed = true)
      ∧ (updOp x ≠ 1 → updOp x ≠ 2 → y.upd.buckets = k.upd.buckets)
      ∧ (updOp x ≠ 3 → y.upd.factors = k.upd.factors)

/-- The tokens of an issued slice (R40): every window and completion token it writes is PENDING; a consume-on-read source,
and a token waited for with CONSUME, that it does not write is EMPTY; every other token is as it was.
The seal record of an issued seal slice (R47): the address of the next slice, the loop counters and heads, the
repetitions left and the issue count. A slice without SEAL leaves the record as it was. -/
def Obligations.TokensAndSealRecord : Prop :=
  (∀ (c : Instr) (s : State) (d : DieId) (u : Nat) (x : Slice), AtGate c s d u x → gateAnswer s d u x = .go →
      ∃ t, exec c s = .next t ∧ ∀ n,
        let k := s.ctx d u
        let writes := sliceDests k x ((s.die d).delayedBank (arrBank (arrGroup x)))
        (t.ctx d u).tok n = if n ∈ writes then .pending else if n ∈ consumes k x then .empty else k.tok n)
  ∧ (∀ (c : Instr) (s : State) (d : DieId) (u : Nat) (x : Slice), AtGate c s d u x → gateAnswer s d u x = .go →
      ∃ t, exec c s = .next t ∧
        let y := t.ctx d u
        (ctlSeal x = true → y.sealRec.next = y.pc ∧ y.sealRec.loops = y.loops ∧ y.sealRec.rep = y.rep
          ∧ y.sealRec.issue = y.issue ∧ y.sealRec.issue = (s.ctx d u).issue + 1)
        ∧ (ctlSeal x = false → y.sealRec = (s.ctx d u).sealRec))


/-- What the issue of a slice works on: a seal slice first copies the rows that wait for their copy (R174). -/
def Sys2Proof.Claims.issueState (s : State) (d : DieId) (u : Nat) (x : Slice) : State := if ctlSeal x then s.copyRows d u else s

/-- The generator position of the vector operation on unit v of a slice (R98): after the pass's, and after unit 0's. -/
def Sys2Proof.Claims.vecPos (k : Ctx) (x : Slice) (v : Nat) : Nat :=
  let a := arrGroup x
  let p := if arrOp a = 1 ∧ arrLong a then (k.genPos + arrDepth a) % 2 ^ 64 else k.genPos
  if v = 0 then p else p + vecTakes (vecGroup x 0)

/-- What the vector operation of a slice on unit v works with, when it reads no accumulators. -/
def Sys2Proof.Claims.vecWork (s : State) (d : DieId) (u : Nat) (x : Slice) (v : Fin 2) : VecEnv :=
  let y := s.die d
  { sh := s.share u, m := y.mem, c := s.ctx d u, v := vecGroup x v, pos := vecPos (s.ctx d u) x v, unit := v,
    bank := y.bank (arrBank (arrGroup x)), width := 4 * y.arr.presented,
    bandsOff := (List.range 16).filter fun k => (y.keeper k).power != .on }

/-- The array operation of an issued slice (R62 to R66): a pass leaves its bank ACCUMULATING until its pass end, a preload
leaves it PRELOADED, a drain leaves it DRAINING with its values kept; the other bank, and both without one, stay. A switch
that begins at a seal slice may clear what stopped tuns have left in the banks (R51). -/
def Obligations.ArrayOfIssuedSlice : Prop :=
  ∀ (c : Instr) (s : State) (d : DieId) (u : Nat) (x : Slice), AtGate c s d u x → gateAnswer s d u x = .go →
    ∃ t, exec c s = .next t ∧
      let a := arrGroup x
      let y := (issueState s d u x).die d
      let z := t.die d
      z.arr.passes = y.arr.passes + (if arrOp a = 1 then 1 else 0) ∧ ((ctlSeal x = false ∨ z.slice.switching = false) →
      z.bank (1 - arrBank a) = y.bank (1 - arrBank a)
      ∧ (arrOp a = 0 → z.bank (arrBank a) = y.bank (arrBank a))
      ∧ (arrOp a = 1 → (z.bank (arrBank a)).state = .accumulating ∧ (z.bank (arrBank a)).passEnd = some (y.cycle + arrDepth a))
      ∧ (arrOp a = 2 → (z.bank (arrBank a)).state = .preloaded ∧ (z.bank (arrBank a)).cls = some .fp
          ∧ (z.bank (arrBank a)).acc = [])
      ∧ (arrOp a = 3 → (z.bank (arrBank a)).state = .draining ∧ (z.bank (arrBank a)).acc = (y.bank (arrBank a)).acc
          ∧ (z.bank (arrBank a)).base = (y.bank (arrBank a)).base))

/-- The vector operations of an issued slice (R111 to R116): each goes to the end of its unit's operations with its tun and
code; one that reads no accumulators writes what its lanes give, sets its DST windows' tokens, takes the cycles of its
rows, and is done its latency after its last row. A unit the slice does not name stays as it was. -/
def Obligations.VectorOpsOfIssuedSlice : Prop :=
  ∀ (c : Instr) (s : State) (d : DieId) (u : Nat) (x : Slice) (v : Fin 2), AtGate c s d u x → gateAnswer s d u x = .go →
    ∃ t, exec c s = .next t ∧
      let g := vecGroup x v
      let e := vecWork (issueState s d u x) d u x v
      (vecOp g = 0 → (t.die d).vec v = (s.die d).vec v)
      ∧ (vecOp g ≠ 0 → ∃ j : VecJob, (t.die d).vec v = (s.die d).vec v ++ [j] ∧ j.tun = u ∧ j.op = vecOp g
          ∧ j.drain.isSome = vecAcc g ∧ j.doneAt = j.lastBegin + j.rowCycles + opLatency (vecOp g) ∧ j.void = false
          ∧ (vecAcc g = false → j.writes = e.run.writes ∧ j.delta = e.run.delta ∧ j.dst = vecDests g ∧ j.rowCycles = e.rowCycles))

/-- The launches of an issued slice (R37, R159): each becomes an outstanding launch of its mover, in mover order, with its
descriptor; one with MOV_OP 0b10 waits for the launches then outstanding on its mover; a refused one is void (R160). The
launches that were outstanding stay as they were, but for reads of host pages that go out (R161). -/
def Obligations.LaunchesOfIssuedSlice : Prop :=
  ∀ (c : Instr) (s : State) (d : DieId) (u : Nat) (x : Slice), AtGate c s d u x → gateAnswer s d u x = .go →
    ∃ t, exec c s = .next t ∧ (t.die d).movs.length = (s.die d).movs.length + (launches x).length
      ∧ (∀ (i : Nat) (j : MovJob), (s.die d).movs[i]? = some j → ∃ l, (t.die d).movs[i]? = some { j with sent := j.sent ++ l })
      ∧ ∀ i < (launches x).length, ∃ j, (t.die d).movs[(s.die d).movs.length + i]? = some j ∧
          let m := (launches x).getD i 0
          j.tun = u ∧ j.mover = m ∧ j.slot = movDesc x m ∧ j.desc = launchDesc (s.ctx d u) x m
          ∧ j.void = ((issueState s d u x).voids d u x).contains m ∧ j.taken = 0 ∧ (movOp x m = 1 → j.after = [])
          ∧ (movOp x m = 2 → ∀ k ∈ (s.die d).movs, k.mover = m → 512 * k.tun + k.slot ∈ j.after)

/-- The hints of an issued slice without SEAL that sends one hint (R48): a wake begins the wake of a domain that is not ON,
and a release of an ON domain with nothing outstanding clock-gates it, and is held while something is, behind a gating
request that is held already. Beside it only the
domains wake that were gated while the die waited long (R247). -/
def Obligations.HintOfIssuedSlice : Prop :=
  ∀ (c : Instr) (s : State) (d : DieId) (u : Nat) (x : Slice) (h : Fin 2), AtGate c s d u x → gateAnswer s d u x = .go →
    ctlSeal x = false → hintAction x (1 - h.val) = 0 →
    ∃ t, exec c s = .next t ∧
      let k := hintKeeper x h
      let before := (s.die d).keeper k
      let after := (t.die d).keeper k
      (hintAction x h = 1 ∨ hintAction x h = 2 → before.power ≠ .on → before.fenced = false → before.stopHeld = false →
        after.waking = true ∧ after.power = before.power)
      ∧ (hintAction x h = 1 ∨ hintAction x h = 2 → before.power = .on → after.power = .on ∧ after.gateReq ≠ some .release)
      ∧ (hintAction x h = 3 → before.power = .on → before.fenced = false → before.stopHeld = false → k ∉ (s.die d).idleGated →
          (before.waking = false → (s.keptOn d).contains k = false → (t.die d).busy k = false → after.power = .clockGated)
          ∧ (after.power = .clockGated ∨ after.gateReq = before.gateReq.or (some .release)))
      ∧ ∀ i, i ≠ k → i ∉ (s.die d).idleGated → (t.die d).keeper i = (s.die d).keeper i

/-- A slice that the gate holds waits a cycle (R41, R48, R50): the program stays where it is, with its tokens, and the one
counter of the condition that holds it counts the cycle; a domain that it lacks is asked to wake.
A slice that makes a program fault does not issue (R51): its tun is stopped on the die with its spoil flag set and, if
loaded, at the hub; its program stays where it was. -/
def Obligations.SliceThatDoesNotIssue : Prop :=
  (∀ (c : Instr) (s : State) (d : DieId) (u : Nat) (x : Slice) (w : Wait), AtGate c s d u x → gateAnswer s d u x = .wait w →
      ∃ t, exec c s = .next t ∧ (t.die d).cycle = (s.die d).cycle + 1
        ∧ (t.ctx d u).pc = (s.ctx d u).pc ∧ (t.ctx d u).tokens = (s.ctx d u).tokens ∧ (t.ctx d u).loops = (s.ctx d u).loops
        ∧ (t.ctx d u).issue = (s.ctx d u).issue ∧ (t.ctx d u).stall = (s.ctx d u).stall.count w
        ∧ (w = .busy → (t.ctx d u).vec.stallBusy = (s.ctx d u).vec.stallBusy + 1)
        ∧ (∀ k ∈ wakeDemand (s.gateIn d u x) (s.die d) (s.ctx d u) x, ((s.die d).keeper k).power ≠ .on →
            ((s.die d).keeper k).fenced = false → ((s.die d).keeper k).stopHeld = false → ((t.die d).keeper k).waking = true)
        ∧ SameBytes s t)
  ∧ (∀ (c : Instr) (s : State) (d : DieId) (u : Nat) (x : Slice) (f : ProgFault), AtGate c s d u x → gateAnswer s d u x = .fault f →
      (s.tun u).loaded = true → (s.diesOf u).contains d.val = true →
      ∃ t, exec c s = .next t ∧ (t.ctx d u).stopped = true ∧ (t.ctx d u).spoil = true ∧ (t.tun u).stopped = true
        ∧ (t.tun u).step.state = .stopped ∧ (t.ctx d u).pc = (s.ctx d u).pc ∧ (t.ctx d u).issue = (s.ctx d u).issue
        ∧ t.issuer d = none ∧ SameBytes s t)

/-- Whether 2^k is at most n / d. -/
def Sys2Proof.Claims.pow2Le (k : Int) (n d : Nat) : Prop := if 0 ≤ k then d * 2 ^ k.toNat ≤ n else d ≤ n * 2 ^ (-k).toNat

/-- A conversion to E8M0 (R105): the exponent of the source magnitude, ⌊log2 |x|⌋ + 127, clamped to 0x00 to 0xFE, the sign
ignored; a zero writes 0x00, an infinity 0xFE and a NaN 0xFF, whatever the modes. With RND other than 0b00, or OVF other than 0,
the slice is illegal. -/
def Obligations.ConversionToE8M0 : Prop :=
  (∀ (m : Rnd) (ieee neg : Bool) (n d : Nat) (k : Int), 0 < n → 0 < d → pow2Le k n d → ¬ pow2Le (k + 1) n d →
      ((Fmt.conv .e8m0 m ieee (.fin neg n d)).code : Int) = max 0 (min 254 (k + 127)))
  ∧ (∀ (m : Rnd) (ieee neg : Bool) (d : Nat), (Fmt.conv .e8m0 m ieee (.fin neg 0 d)).code = 0x00)
  ∧ (∀ (m : Rnd) (ieee neg : Bool), (Fmt.conv .e8m0 m ieee (.inf neg)).code = 0xFE ∧ (Fmt.conv .e8m0 m ieee .nan).code = 0xFF)
  ∧ ∀ (k : Ctx) (die : Nat) (x : Slice) (b : Bank) (delayed : Bool) (v : BitVec 64), v ∈ vecGroups x → opConvClass (vecOp v) = true →
      vecFmt v = 0x0E → vecRnd v ≠ 0 ∨ vecOvf v = true → sliceLegal k die x b delayed = false

/-- A seal slice at the gate (R46, R67): it issues only when both banks are ZERO. A drain in flight makes it wait, counted as
CDS_STALL_SEAL; a running pass, or a bank that holds what has not been drained with no drain in flight, is a seal violation. A 2,500th slice since the
last seal point that is not a seal slice is a seal-spacing fault and does not issue. An illegal slice and a domain that is not
awake come first. With both banks ZERO and no drain in flight the seal holds nothing up, whatever array operation the slice carries itself. -/
def Obligations.SealSlices : Prop :=
  ∀ (c : Instr) (s : State) (d : DieId) (u : Nat) (x : Slice), AtGate c s d u x →
    let a := gateAnswer s d u x
    let running (b : Bank) : Prop := b.state = .accumulating
    let undrained (b : Bank) : Prop := b.state = .preloaded ∨ b.state = .holding
    let one := (s.die d).bank0
    let two := (s.die d).bank1
    let inFlight := one.state = .draining ∨ two.state = .draining ∨
      (s.die d).tiles.any (fun y => y.tun == u && y.delayed && y.drained) = true
    let early := a = .fault .illegalSlice ∨ a = .wait .wake
    (ctlSeal x = true → a = .go → one.state = .zero ∧ two.state = .zero)
    ∧ (ctlSeal x = true → running one ∨ running two ∨ (undrained one ∨ undrained two) ∧ ¬ inFlight → early ∨ a = .fault .sealViolation)
    ∧ (ctlSeal x = true → ¬ running one → ¬ running two → ¬ undrained one → ¬ undrained two → inFlight → early ∨ a = .wait .sealed)
    ∧ (ctlSeal x = true → one.state = .zero → two.state = .zero → ¬ inFlight → a ≠ .fault .sealViolation)
    ∧ (a = .wait .sealed → ∃ t, exec c s = .next t
        ∧ (t.ctx d u).stall = { (s.ctx d u).stall with sealed := (s.ctx d u).stall.sealed + 1 } ∧ (t.ctx d u).issue = (s.ctx d u).issue)
    ∧ (ctlSeal x = false → 2500 ≤ (s.ctx d u).sinceSeal + 1 → a = .fault .illegalSlice ∨ a = .fault .sealSpacing)
    ∧ (∀ f, a = .fault f → (s.tun u).loaded = true → (s.diesOf u).contains d.val = true → ∃ t, exec c s = .next t ∧ (t.ctx d u).stopped = true ∧ (t.ctx d u).issue = (s.ctx d u).issue)


/-! ### Dies: the array, the vector units, the movers -/

/-- A completion in a cycle may not find the token so (R42): PRESENT, or EMPTY and not consumed by a slice in that same cycle. -/
def Sys2Proof.Claims.Unwelcome (k : Ctx) (now n : Nat) : Prop :=
  k.tok n = .present ∨ k.tok n = .empty ∧ ¬ (k.consumedAt = now ∧ k.consumed.contains n = true)

/-- A pass that reaches its pass end leaves its bank HOLDING (R63), and a drain that reads its last row leaves it ZERO
(R66, R68), the die's time moved on to that cycle; the other bank stays. A tile whose rows are all written
sets the tokens of its destinations then, unless it is delayed (R76).
A completion finds its token PENDING and leaves it PRESENT; one that finds another state is a program fault, and the tun stops
(R42, R51), but where the slice of that cycle consumed the token it leaves it PRESENT (R42).
The oldest operation of a vector unit that delivers no drain ends (R115, R116): its results stand, its destination
tokens are PRESENT, its counts are added, and the unit's other operations stay; its rows may have waited at the port for
any number of cycles (a free value, R114); an abandoned one changes no byte and counts nothing. In STOPPED none ends
(R402).
The overflow test of a delayed drain (R138, R140, R141, R142): a tile that fits, or was recomputed once already, has its
scale bytes written and its destinations PRESENT; one that overflows is recomputed once, counted in its slot; a second
overflow is counted too. With no delayed tile due, nothing happens. -/
def Obligations.DieWorkEnds : Prop :=
  (∀ (s : State) (d : DieId) (b : Fin 2),
      let k := (s.die d).bank b
      (k.state = .accumulating → exec (.passEnd d b) s =
        .next (s.setDie d (({ s.die d with cycle := max (s.die d).cycle (k.passEnd.getD 0) }).setBank b { k with state := .holding })))
      ∧ (k.state = .draining → ∃ t, exec (.drainLastRowRead d b) s = .next t ∧ (t.die d).bank b = {}
          ∧ (t.die d).bank (1 - b.val) = (s.die d).bank (1 - b.val) ∧ (t.die d).cycle = max (s.die d).cycle (k.lastRead + 1)
          ∧ ∀ x, (s.die d).tiles.find? (fun y => y.bank == b.val && y.drained && !y.lastRead) = some x → x.delayed = false →
              (∀ n ∈ x.dst, (s.ctx d x.tun).tok n = .pending → (t.ctx d x.tun).tok n = .present)
              ∧ ((∃ n ∈ x.dst, Unwelcome (s.ctx d x.tun) (k.lastRead + 1) n) → (s.tun x.tun).loaded = true → (t.tun x.tun).stopped = true)))
  ∧ (∀ (s : State) (d : DieId) (v : Fin 2) (j : VecJob) (rest : List VecJob),
      (s.pwr.state = .stopped → exec (.vectorOpDone d v) s = .next s)
      ∧ (s.pwr.state ≠ .stopped → (s.die d).vec v = j :: rest → j.drain = none →
          ∃ t, exec (.vectorOpDone d v) s = .next t ∧ (t.die d).vec v = rest
            ∧ (t.die d).cycle = max (s.die d).cycle (j.doneAt + if j.void then 0 else Config.openNat 18 s.draws)
            ∧ (t.die d).mem = (if j.void then (s.die d).mem else applyWrites (s.die d).mem j.writes)
            ∧ (∀ n ∈ j.dst, (s.ctx d j.tun).tok n = .pending → (t.ctx d j.tun).tok n = .present)
            ∧ ((∃ n ∈ j.dst, Unwelcome (s.ctx d j.tun) (j.doneAt + (if j.void then 0 else Config.openNat 18 s.draws) + 1) n) → (s.tun j.tun).loaded = true → (t.tun j.tun).stopped = true)
            ∧ (∀ n, n ∉ j.dst → (t.ctx d j.tun).tok n = (s.ctx d j.tun).tok n)
            ∧ (t.ctx d j.tun).num = (if j.void then (s.ctx d j.tun).num else (s.ctx d j.tun).num.addDelta j.delta)
            ∧ (t.ctx d j.tun).vec = (if j.void then (s.ctx d j.tun).vec else
                { (s.ctx d j.tun).vec with portWait := (s.ctx d j.tun).vec.portWait + Config.openNat 18 s.draws }.addDelta j.delta)
            ∧ t.cellar = s.cellar))
  ∧ (∀ (s : State) (d : DieId) (b : Fin 2),
      ((s.die d).dueTile b = none → exec (.delayedDrainEnd d b) s = .next s)
      ∧ ∀ x, (s.die d).dueTile b = some x → x.log ≠ [] → ∃ t, exec (.delayedDrainEnd d b) s = .next t ∧
          let overflow := (Val.of32 x.amax).nonfinite = false
            ∧ (overflowed x.amax x.expD ((Fmt.ofCode x.fmt).getD .e4m3) = true ∨ x.scaleHigh ≠ none ∧ x.recomputed = false)
          ((¬ overflow ∨ x.recomputed = true) → (t.die d).mem = applyWrites (s.die d).mem x.scaleWrites
              ∧ ∀ n ∈ x.dst, (s.ctx d x.tun).tok n = .pending → (t.ctx d x.tun).tok n = .present)
          ∧ (overflow → x.recomputed = false → (t.die d).mem = (s.die d).mem
              ∧ ∃ y ∈ (t.die d).tiles, y.id = x.id ∧ y.recomputed = true)
          ∧ (∀ n, x.slot = some n → overflow → x.recomputed = true →
              (Tbl.get {} (t.ctx d x.tun).stats n).over2 = (Tbl.get {} (s.ctx d x.tun).stats n).over2 + 1))

/-- A residue mismatch or a B-bus parity error in a presented column in use clears both banks, counts a fault, adds the
column to those under test and stops issue on the die (R75, R78); on a die with a sealed tun the slice plan is suspended
(R81). A B-bus error names a column alone: the cube row that ARR_LAST_ROW then holds is a free value (the model's choice, log
entry 101).
An A-bus parity error on a die that is not lost fences its array domains, clears its banks and stops its loaded tuns (R75, R80). -/
def Obligations.ArrayFaults : Prop :=
  (∀ (s : State) (d : DieId) (col : Fin 132) (row : Fin 128) (c : Instr) (r : Nat),
      (c = .columnFault d col row ∧ r = row ∨ c = .bBusParityError d col ∧ r = Config.openNat 20 s.draws % 128) →
      (s.die d).lost = false → (s.die d).arr.fenced = false → col.val ∉ (s.die d).badMap →
      ∃ t, exec c s = .next t ∧ (t.die d).bank0 = {} ∧ (t.die d).bank1 = {}
        ∧ (t.die d).colFaults.map ColFault.col = (s.die d).colFaults.map ColFault.col ++ [col.val]
        ∧ (t.die d).arr = { (s.die d).arr with residueFaults := (s.die d).arr.residueFaults + 1, lastCol := col, lastRow := r, lastPerm := false }
        ∧ (t.die d).tiles = (s.die d).tiles ∧ t.issuer d = none ∧ (s.sealedDie d = true → (t.die d).slice.suspended = true)
        ∧ SameBytes s t)
  ∧ (∀ (s : State) (d : DieId), (s.die d).lost = false →
      ∃ t, exec (.aBusParityError d) s = .next t ∧ (t.die d).arr.fenced = true ∧ (t.die d).bank0 = {} ∧ (t.die d).bank1 = {}
        ∧ (∀ k < 17, ((t.die d).keeper k).fenced = true)
        ∧ (∀ k, 17 ≤ k → (t.die d).keeper k = (s.die d).keeper k)
        ∧ ∀ u < 32, (s.diesOf u).contains d.val → (s.tun u).loaded → (t.tun u).stopped = true)

/-- The end of a column's test (R78, R79, R80): the first or second transient fault is counted, its column goes on and the
fault is over; a permanent one retires the column and tests the column that takes its place, while a spare is left; with
none left the array is fenced and every loaded tun of the die stops. -/
def Obligations.ColumnTestEnds : Prop :=
  ∀ (s : State) (d : DieId) (col : Fin 132) (ok : Bool) (f : ColFault) (rest : List ColFault),
    (s.die d).colFaults = f :: rest → f.col = col → f.spare = none →
    ∃ t, exec (.columnTestDone d col ok) s = .next t ∧
      let permanent := ok = false ∨ 2 ≤ Tbl.get 0 (s.die d).transients col
      (¬ permanent → (t.die d).colFaults.map (fun y => (y.col, y.spare, y.tun)) = rest.map (fun y => (y.col, y.spare, y.tun)) ∧ Tbl.get 0 (t.die d).transients col = Tbl.get 0 (s.die d).transients col + 1
        ∧ (t.die d).badMap = (s.die d).badMap)
      ∧ (permanent → (t.die d).badMap = (s.die d).badMap ++ [col.val])
      ∧ (permanent → (s.die d).badMap.length < 4 →
          (t.die d).colFaults = { f with spare := some (lastPresented ((s.die d).badMap ++ [col.val])) } :: rest)
      ∧ (permanent → 4 ≤ (s.die d).badMap.length → (t.die d).arr.fenced = true ∧ (t.die d).colFaults = []
          ∧ ∀ u < 32, (s.diesOf u).contains d.val → (s.tun u).loaded → (t.tun u).stopped = true)

/-- After 2,048 waiting cycles the idle domains of the array and the vector units are clock-gated, and after 80,000
power-gated (R247): those of K0 to K20 with nothing outstanding; a domain that is fenced, held or waking stays as it is,
and so does every domain before that time or on a die with a sealed tun. -/
def Obligations.WaitingDieGatesDomains : Prop :=
  ∀ (s : State) (d : DieId) (c : Instr) (cycles : Nat) (power : Bool),
    (c = .idleGate d ∧ cycles = 2048 ∧ power = false ∨ c = .idlePowerGate d ∧ cycles = 80000 ∧ power = true) →
    ∃ t, exec c s = .next t ∧
      ((s.die d).waiting < cycles ∨ s.sealedDie d = true → t = s)
      ∧ (cycles ≤ (s.die d).waiting → s.sealedDie d = false →
          (∀ k < 21, (s.die d).busy k = false → ((s.die d).keeper k).fenced = false → ((s.die d).keeper k).stopHeld = false →
            ((s.die d).keeper k).waking = false → ((s.die d).keeper k).power = .on →
            ((t.die d).keeper k).power = (if power then .powerGated else .clockGated))
          ∧ (∀ k, 21 ≤ k ∨ (s.die d).busy k = true → (t.die d).keeper k = (s.die d).keeper k)
          ∧ (t.die d).mem = (s.die d).mem)

/-- A completion, or an arrival from outside the die, finds a token PENDING and sets it PRESENT; an arrival may find it EMPTY
(R40, R42), and so may a completion in the cycle in which a slice consumed the token. A token already PRESENT, or another
completion of an EMPTY one, is a program fault: the tun is stopped. -/
def Obligations.TokenCompletion : Prop :=
  ∀ (s : State) (d : DieId) (u : TunId) (n : Fin 4096) (remote : Bool), (s.ctx d u).resident = true →
    ((s.ctx d u).tok n = .pending ∨ (s.ctx d u).tok n = .empty ∧ (remote = true ∨ ¬ Unwelcome (s.ctx d u) (s.die d).cycle n) →
      ∃ t, exec (.tokenCompletion d u n remote) s = .next t ∧ (t.ctx d u).tok n = .present ∧ (∀ k, k ≠ n.val → (t.ctx d u).tok k = (s.ctx d u).tok k)
        ∧ t = s.setCtx d u { s.ctx d u with tokens := (t.ctx d u).tokens, consumed := (t.ctx d u).consumed })
    ∧ ((s.ctx d u).tok n = .present ∨ (s.ctx d u).tok n = .empty ∧ remote = false ∧ Unwelcome (s.ctx d u) (s.die d).cycle n → (s.tun u).loaded = true →
        (s.diesOf u).contains d.val = true →
        ∃ t, exec (.tokenCompletion d u n remote) s = .next t ∧ (t.ctx d u).stopped = true ∧ (t.ctx d u).spoil = true
          ∧ (t.tun u).stopped = true ∧ (t.ctx d u).tokens = (s.ctx d u).tokens)

/-- The last byte of a launch arrives (R160). Not before the launch may complete; then a copy into a window of the die has
its lines written there and a void launch has none; a granary write goes on outstanding with its pages out (R177); every
other launch is over.
What the host returns to a launch: the zero-length read behind a granary write ends it (R177), and one for which no such write
is out is behind the oldest segment that the update engine has forwarded (R214), which fails while the link is down (R336); a page that is read and checks is held for the
launch that asked for it, decrypted; one that does not, or whose read fails, as every read does while the link is down, spoils
the step and counts a tag failure (R170, R176, R336). -/
def Obligations.LaunchesAndPagesReturn : Prop :=
  (∀ (s : State) (d : DieId) (u : TunId) (slot : Fin 512) (j : MovJob), (s.die d).mov u slot = some j →
      (s.movReady d j = false → exec (.moverCompletion d u slot) s = .next s)
      ∧ (s.movReady d j = true → s.heldLines j = [] ∨ j.void = true → ∃ t, exec (.moverCompletion d u slot) s = .next t ∧
          (j.void = true → (t.die d).mov u slot = none ∧ (t.die d).mem = (s.die d).mem ∧ t.cellar.mem = s.cellar.mem)
          ∧ (j.void = false → mdDstLvl j.desc = 2 → (t.die d).mem = (s.die d).mem
              ∧ ∃ ps, (t.die d).mov u slot = some { j with pagesOut := true, posted := ps } ∧ ps.length = (movPagesOut j.desc).length)
          ∧ (j.void = false → mdDstLvl j.desc ≠ 2 → (t.die d).mov u slot = none)
          ∧ (j.void = false → mdDstLvl j.desc = 0 → mdXform j.desc = 0 → j.delivered = false →
              (t.die d).mem = applyWrites (s.die d).mem ((List.range (mdLines j.desc)).flatMap fun i =>
                winWrites (s.share j.tun) ((s.ctx d j.tun).win (mdDstWin j.desc)) (lineAt (mdDstAddr j.desc) (mdDstPitch j.desc) i)
                  (s.srcLine d j i)))))
  ∧ (∀ (s : State) (d : DieId) (u : TunId) (slot : Fin 512) (page : Nat) (ct : Bytes) (tagRec : BitVec 256) (err : Bool) (j : MovJob),
      (s.die d).mov u slot = some j →
      (j.pagesOut = true → ∃ t, exec (.granaryFlushReadReturn d u slot) s = .next t ∧ (t.die d).mov u slot = none)
      ∧ (j.pagesOut = false → (s.upd d u).forwards = [] → exec (.granaryFlushReadReturn d u slot) s = .next s)
      ∧ (j.pagesOut = false → ∀ (f : Forward) (rest : List Forward), (s.upd d u).forwards = f :: rest →
          ∃ t, exec (.granaryFlushReadReturn d u slot) s = .next t ∧ (t.upd d u).forwards = rest
            ∧ (∀ k ∈ f.keys, (t.upd d u).done.contains k = true)
            ∧ (s.host.linkUp = true → (t.upd d u).stat.granaryBytes = (s.upd d u).stat.granaryBytes + f.bytes
              ∧ (t.tun u).step.forwarded = some s.nowPs)
            ∧ (s.host.linkUp = false → (t.upd d u).stat.granaryBytes = (s.upd d u).stat.granaryBytes
              ∧ (t.tun u).commit.granaryTagFail = (s.tun u).commit.granaryTagFail + 1))
      ∧ (page ∈ j.sent → j.pages.find page = none →
          (err = false → s.host.linkUp = true → s.pageOk u page ct tagRec = true →
            ∃ t k, exec (.granaryPageReadReturn d u slot page ct tagRec err) s = .next t ∧ (t.die d).mov u slot = some k
              ∧ k.desc = j.desc ∧ k.pages = j.pages.put page (s.pagePlain u page ct) ∧ (t.die d).mem = (s.die d).mem
              ∧ (t.tun u).commit = (s.tun u).commit)
          ∧ (err = true ∨ s.host.linkUp = false ∨ s.pageOk u page ct tagRec = false →
            ∃ t, exec (.granaryPageReadReturn d u slot page ct tagRec err) s = .next t
              ∧ (t.tun u).commit.granaryTagFail = (s.tun u).commit.granaryTagFail + 1
              ∧ ((s.ctx d u).resident = true → (t.ctx d u).spoil = true) ∧ (t.die d).mem = (s.die d).mem)))

/-! ### Domains, fault reports and time slices -/

/-- A wake that ends leaves its domain ON, unless a fence or a stop took it (R48, R395); a gating request is carried out at
once where nothing is outstanding, held where something is or a wake is under way, and ignored by a domain that is fenced
or held (R27). -/
def Obligations.DomainRequests : Prop :=
  ∀ (s : State) (k : KeeperId) (power : Bool),
    let x := s.keeperAt k
    (x.fenced = true ∨ x.stopHeld = true ∨ x.waking = false → exec (.domainWakeDone k) s = .next s)
    ∧ (x.fenced = false → x.stopHeld = false → x.waking = true → k.val < 320 → ∃ t, exec (.domainWakeDone k) s = .next t
        ∧ t.keeperAt k = { x with waking := false, power := .on } ∧ ∀ i < 320, i ≠ k → t.keeperAt i = s.keeperAt i)
    ∧ (x.fenced = true ∨ x.stopHeld = true → exec (.domainGateRequest k power) s = .next s)
    ∧ (x.fenced = false → x.stopHeld = false → x.waking = true ∨ s.domainBusy k = true → exec (.domainGateRequest k power) s =
        .next (s.setKeeper k { x with gateReq := some (if s.gateTo k power then .power else .clock) }))
    ∧ (x.fenced = false → x.stopHeld = false → x.waking = false → s.domainBusy k = false →
        ∃ t, exec (.domainGateRequest k power) s = .next t ∧ ((t.keeperAt k).power = .powerGated ∨ (t.keeperAt k).power = .clockGated)
          ∧ (s.gateTo k power = true → (t.keeperAt k).power = .powerGated) ∧ ∀ i, i ≠ k → t.keeperAt i = s.keeperAt i)

/-- A fault report (R28, R404): a report of class 3, 6 or 8 sets the spoil flag of its tun on the die that reports; class 9
stops the loaded tuns of the die, class 10 its tun; class 0 does nothing more; while the device is STOPPED a report is
held, but for class 0 and a tamper. -/
def Obligations.FaultReportActs : Prop :=
  ∀ (s : State) (owner : Fin 9) (unit : Fin 256) (cls : Fin 14) (u : TunId),
    ∃ t, exec (.faultReport owner unit cls (some u)) s = .next t
      ∧ (owner.val < 8 → cls.val = 3 ∨ cls.val = 6 ∨ cls.val = 8 → (s.ctx owner u).resident = true → (t.ctx owner u).spoil = true)
      ∧ (cls.val = 0 → t = s)
      ∧ (s.pwr.state ≠ .stopped → cls.val = 9 → ∀ v < 32, (s.diesOf v).contains owner.val → (s.tun v).loaded → (t.tun v).stopped = true)
      ∧ (s.pwr.state ≠ .stopped → cls.val = 10 → (s.tun u).loaded → (t.tun u).stopped = true)
      ∧ (s.pwr.state ≠ .stopped → cls.val = 12 → ∀ v < 32, (s.tun v).loaded → (t.tun v).stopped = true)
      ∧ (s.pwr.state = .stopped → cls.val ≠ 0 → cls.val ≠ 13 → t.pwr.reports = s.pwr.reports ++
          [{ cls := cls, die := owner, unit := unit, time := s.timeNs }])

/-- The time of a die (R52 to R55): a bushel after the present one begins on the clock and on every die, and another leaves the device as it was but for
the hub's held gating requests, carried out where nothing is outstanding (R27); the end of a
switch lets the incoming tun issue, its 125 cycles counted; a target that is reached is noted; a sealed tun that runs past
its nominal end without throttling is stopped as an overrun. -/
def Obligations.SliceTimes : Prop :=
  ∀ (s : State) (d : DieId) (n : Nat),
    ((s.net.ptp.bushel ≠ 0 ∧ n ≤ s.net.ptp.bushel) → exec (.bushelStart n) s = .next s.hubSettle)
    ∧ (s.net.ptp.bushel < n → ∃ t, exec (.bushelStart n) s = .next t ∧ t.net.ptp.bushel = n
        ∧ ((s.die d).lost = false → (s.die d).slice.bushel < n → (t.die d).slice.bushel = n))
    ∧ (∀ u, (s.die d).slice.cur = some u → (s.die d).slice.switching = true → ∃ t, exec (.switchDone d) s = .next t
        ∧ (t.die d).slice = { (s.die d).slice with switching := false }
        ∧ (t.ctx d u).stall = { (s.ctx d u).stall with switchCycles := (s.ctx d u).stall.switchCycles + 125 }
        ∧ (t.die d).cycle = max (s.die d).cycle ((s.die d).slice.start + 125))
    ∧ (∀ u, (s.die d).slice.cur = some u → (s.die d).slice.switching = false → (s.die d).slice.idle = false →
        (s.die d).slice.suspended = false → s.canRun d u = true → exec (.sliceTargetReached d) s =
          .next (s.setDie d { s.die d with cycle := max (s.die d).cycle (s.die d).slice.target, slice := { (s.die d).slice with reached := true } }))
    ∧ (∀ u, (s.die d).slice.cur = some u → (s.die d).slice.idle = false → (s.die d).slice.suspended = false →
        s.sealedDie d = true → s.canRun d u = true → s.pwr.throttle = 0 → (s.diesOf u).contains d.val = true →
        ∃ t, exec (.sealedNominalEnd d) s = .next t ∧ (t.die d).bank0 = {} ∧ (t.die d).bank1 = {} ∧ (t.tun u).stopped = true
          ∧ (t.ctx d u).spoil = true)


/-! ### Die-to-die links -/

/-- The flit a command brings: its link, direction, group, kind (R315), framing word and payload. -/
def Sys2Proof.Claims.flitOf : Instr → Option (LinkId × Fin 2 × Fin 16 × Nat × BitVec 64 × Bytes)
  | .idleFlit l dir g f => some (l, dir, g, 0, f, [])
  | .dataFlit l dir g f p => some (l, dir, g, 1, f, p)
  | .dataLastFlit l dir g f p => some (l, dir, g, 2, f, p)
  | .tokenSetFlit l dir g f => some (l, dir, g, 3, f, bytesOfNat 1 (flDst f) ++ bytesOfNat 2 (flTag f % 4096))
  | .windowCreditReturn l dir g f wins => some (l, dir, g, 4, f, wins.flatMap fun w => bytesOfNat 2 w.val)
  | .linkCreditReturn l dir g f => some (l, dir, g, 5, f, [])
  | .memoryReadRequest l dir g f a n => some (l, dir, g, 6, f, bytesOfNat 8 a ++ bytesOfNat 8 n)
  | .memoryReadData l dir g f p => some (l, dir, g, 7, f, p)
  | .memoryWrite l dir g f a p => some (l, dir, g, 8, f, bytesOfNat 8 a ++ p)
  | .issueCount l dir g f n => some (l, dir, g, 10, f, bytesOfNat 1 (flSrc f) ++ bytesOfNat 8 n)
  | .replayRequest l dir g f => some (l, dir, g, 11, f, [])
  | _ => none

/-- A lane group that works: its link is on with both its ports ON, and it is neither retired nor stopped, nor waiting for the release of
an emergency stop. -/
def Sys2Proof.Claims.GroupWorks (s : State) (l : LinkId) (dir : Fin 2) (g : Fin 16) : Prop :=
  g.val < linkGroups l ∧ (s.linkDir l dir).off = false ∧ s.linkAwake l = true ∧ ((s.linkDir l dir).group g).retired = false
    ∧ ((s.linkDir l dir).group g).stopped = false ∧ ((s.linkDir l dir).group g).waits = false

/-- Whether a group's sender sends a flit for the first time: its retry buffer does not hold the number. -/
def Sys2Proof.Claims.Fresh (s : State) (l : LinkId) (dir : Fin 2) (g : Fin 16) (f : BitVec 64) : Bool :=
  !(((s.linkDir l dir).group g).retry.any fun p => p.1 == flSeq f)

/-- A flit that a group's sender may send on it (R316, R318, R329): its role may use the group, the group is not being given to another
role, and its retry buffer has room; one that it sends again has been sent so before. -/
def Sys2Proof.Claims.MaySend (s : State) (l : LinkId) (dir : Fin 2) (g : Fin 16) (kind : Nat) (f : BitVec 64) : Prop :=
  Fresh s l dir g f = true → s.groupFor (s.linkDir l dir) l g kind f = true ∧ (s.linkDir l dir).giving l g = false
    ∧ ((s.linkDir l dir).group g).retry.length < 64

/-- A flit that a working group may carry next: its CRC checks, its kind is the command's, its sender may send it there, and it is the next
in sequence; a transfer's last flit is due. -/
def Sys2Proof.Claims.Offered (s : State) (l : LinkId) (dir : Fin 2) (g : Fin 16) (kind : Nat) (f : BitVec 64) (p : Bytes) : Prop :=
  GroupWorks s l dir g ∧ flitCrcOk f (pad128 p) = true ∧ flKind f = kind ∧ MaySend s l dir g kind f
    ∧ flSeq f = ((s.linkDir l dir).group g).nextSeq ∧ (kind = 2 → (s.linkDir l dir).lastDue f p = true)

/-- Such a flit has a receive buffer where it takes one: a credit is held, and its tun is within its share (R318). -/
def Sys2Proof.Claims.Buffered (s : State) (l : LinkId) (dir : Fin 2) (g : Fin 16) (kind : Nat) (f : BitVec 64) : Prop :=
  takesBuffer kind = true → 0 < ((s.linkDir l dir).group g).credits
    ∧ s.bufferFor ((s.linkDir l dir).group g) ((s.linkDir l dir).role g) (flTun f) = true

/-- A flit that a working group accepts. -/
def Sys2Proof.Claims.Accepted (s : State) (l : LinkId) (dir : Fin 2) (g : Fin 16) (kind : Nat) (f : BitVec 64) (p : Bytes) : Prop :=
  Offered s l dir g kind f p ∧ Buffered s l dir g kind f

/-- An accepted flit (R315, R316): the group's sequence moves on modulo 256, a replay is over, the flit is counted when it is sent for the
first time and stands in the sender's retry buffer until it is acknowledged, and a credit, and a buffer of its tun's share, is spent by a
kind that takes a buffer. For every kind of flit, a step outcome's among them, which comes from the hub on the die's own link. -/
def Obligations.FlitAccepted : Prop :=
  ∀ (c : Instr) (s : State) (l : LinkId) (dir : Fin 2) (g : Fin 16) (kind : Nat) (f : BitVec 64) (p : Bytes),
    (flitOf c = some (l, dir, g, kind, f, p) ∨ kind = 9 ∧ dir = 1 ∧ ∃ (d : DieId) (u : TunId), c = .stepOutcome d u g f ∧ d.val = l.val
      ∧ p = outcomePayload (s.tun u)) →
    Accepted s l dir g kind f p →
    ∃ t, exec c s = .next t ∧
      let y := (s.linkDir l dir).group g
      let z := (t.linkDir l dir).group g
      z.nextSeq = (y.nextSeq + 1) % 256 ∧ z.replaying = false ∧ z.asked = none
      ∧ z.credits = (if takesBuffer kind then y.credits - 1 else y.credits)
      ∧ z.held = (if takesBuffer kind then Tbl.modify 0 y.held (flTun f) (· + 1) else y.held)
      ∧ (Fresh s l dir g f = true → z.retry = y.retry ++ [(flSeq f, some { framing := f, payload := pad128 p })])
      ∧ (t.linkDir l dir).flits = (if Fresh s l dir g f then (s.linkDir l dir).flits + 1 else (s.linkDir l dir).flits)
      ∧ (t.linkDir l dir).crcErr = (s.linkDir l dir).crcErr

/-- What an accepted flit does beyond the link (R43, R315, R316): a data flit counts into its transfer; a transfer's last
flit ends it; a token set flit that has come to its die sets the token of a resident tun there; credits returned come back to
the other direction's sender, up to 64; a read request that has come to its die stands until its data has come; a write that has come to
its die stores its bytes in cellar, or waits while a unit that it writes is degraded (R172), and one on its way there stores nothing
(R20); a replay request is counted at the sender, which sends again from its number on. An idle flit does nothing more. -/
def Obligations.FlitEffects : Prop :=
  ∀ (s : State) (l : LinkId) (dir : Fin 2) (g : Fin 16) (f : BitVec 64) (p : Bytes) (a n : Nat),
    let x := s.linkDir l dir
    let back (t : State) : LinkDir := t.linkDir l (1 - dir.val)
    (Accepted s l dir g 0 f [] → ∃ t, exec (.idleFlit l dir g f) s = .next t ∧ t.dies = s.dies ∧ t.cellar = s.cellar ∧ t.tuns = s.tuns)
    ∧ (Accepted s l dir g 1 f p → ∃ t, exec (.dataFlit l dir g f p) s = .next t ∧ t.dies = s.dies
        ∧ Tbl.get 0 (t.linkDir l dir).transfers (flTag f) = Tbl.get 0 x.transfers (flTag f) + 1)
    ∧ (Accepted s l dir g 2 f p → ∃ t, exec (.dataLastFlit l dir g f p) s = .next t
        ∧ (t.linkDir l dir).transfers = x.transfers.erase (flTag f))
    ∧ (Accepted s l dir g 3 f (bytesOfNat 1 (flDst f) ++ bytesOfNat 2 (flTag f % 4096)) → flDst f < 8 → s.arrived l dir f = true →
        (s.ctx (flDst f) (flTun f)).resident = true → (s.ctx (flDst f) (flTun f)).tok (flTag f % 4096) ≠ .present →
        ∃ t, exec (.tokenSetFlit l dir g f) s = .next t ∧ (t.ctx (flDst f) (flTun f)).tok (flTag f % 4096) = .present)
    ∧ (Accepted s l dir g 5 f [] → flAckValid f = false → ∃ t, exec (.linkCreditReturn l dir g f) s = .next t
        ∧ ((back t).group g).credits = min 64 (((back s).group g).credits + flTag f))
    ∧ (Accepted s l dir g 6 f (bytesOfNat 8 a ++ bytesOfNat 8 n) → a + n ≤ s.cellarSize (flTun f) (flDst f) → s.arrived l dir f = true →
        ∃ t, exec (.memoryReadRequest l dir g f a n) s = .next t ∧ (t.linkDir l dir).transfers = x.transfers.put (16384 + flTag f) n)
    ∧ (∀ left, Accepted s l dir g 7 f p → flAckValid f = false → (back s).transfers.find (16384 + flTag f) = some left →
        ∃ t, exec (.memoryReadData l dir g f p) s = .next t ∧ (back t).transfers =
          (if left ≤ p.length then (back s).transfers.erase (16384 + flTag f) else (back s).transfers.put (16384 + flTag f) (left - p.length)))
    ∧ (Accepted s l dir g 8 f (bytesOfNat 8 a ++ p) → flDst f < 8 → ∃ t, exec (.memoryWrite l dir g f a p) s = .next t
        ∧ (s.arrived l dir f = true → s.heldWrite (flTun f) (flDst f) a p.length = [] →
            t.cellar = (s.cellarWrite (flTun f) (flDst f) a p).cellar)
        ∧ (s.arrived l dir f = true → s.heldWrite (flTun f) (flDst f) a p.length ≠ [] →
            t.cellar = { s.cellar with waiting := s.cellar.waiting ++ [(flTun f, flDst f, a, p)] })
        ∧ (s.arrived l dir f = false → t.cellar = s.cellar) ∧ ∀ d, (t.die d).mem = (s.die d).mem)
    ∧ (Accepted s l dir g 11 f [] → flAckValid f = false → ∃ t, exec (.replayRequest l dir g f) s = .next t
        ∧ ((back t).group g).replaying = true ∧ (back t).replays = (back s).replays + 1
        ∧ ((back t).group g).again = ((((back s).group g).retry.dropWhile fun q => q.1 != flTag f % 256).map Prod.fst))

/-- The credits of consumed windows go back to their writer (R43): what the source die had on its way is no longer there, and
the destination die may launch into those windows again.
Issue counts between dies (R44, R315): a resident tun takes a count that another of its dies has sent, a multiple of 64 that this
die has reached, and never one older than it holds; any other number changes nothing. -/
def Obligations.WindowCreditsAndIssueCounts : Prop :=
  (∀ (s : State) (l : LinkId) (dir : Fin 2) (g : Fin 16) (f : BitVec 64) (wins : List (Fin 1024)),
      Accepted s l dir g 4 f (wins.flatMap fun w => bytesOfNat 2 w.val) → flSrc f < 8 → flDst f < 8 → flDst f ≠ flSrc f →
      s.arrived l dir f = true → (s.ctx (flSrc f) (flTun f)).resident = true →
      ∃ t, exec (.windowCreditReturn l dir g f wins) s = .next t ∧
        let u := flTun f
        let a := s.ctx (flSrc f) u
        (∀ w ∈ wins, w.val ∈ a.returning → w.val ∉ (t.ctx (flSrc f) u).returning
            ∧ remoteKey (flSrc f) w ∉ (t.ctx (flDst f) u).spent)
        ∧ (∀ w ∈ a.returning, (∀ v ∈ wins, v.val ≠ w) → w ∈ (t.ctx (flSrc f) u).returning)
        ∧ (∀ k ∈ (s.ctx (flDst f) u).spent, (∀ w ∈ wins, k ≠ remoteKey (flSrc f) w) → k ∈ (t.ctx (flDst f) u).spent))
  ∧ (∀ (s : State) (l : LinkId) (dir : Fin 2) (g : Fin 16) (f : BitVec 64) (count : Nat),
      Accepted s l dir g 10 f (bytesOfNat 1 (flSrc f) ++ bytesOfNat 8 count) → flSrc f < 8 → flDst f < 8 → flDst f ≠ flSrc f →
      s.arrived l dir f = true → (s.ctx (flDst f) (flTun f)).resident = true →
      ∃ t, exec (.issueCount l dir g f count) s = .next t ∧ t.ctx (flDst f) (flTun f) =
        let k := s.ctx (flDst f) (flTun f)
        if count % 64 = 0 ∧ count ≤ (s.ctx (flSrc f) (flTun f)).issue then
          { k with peers := k.peers.put (flSrc f) (max count (Tbl.get 0 k.peers (flSrc f))) } else k)

/-- Flits that are not accepted (R49, R314, R316, R326): a bad CRC is counted, and the receiver asks for a replay from the number that it
takes next; a replayed flit that fails again, or the 16th error within 1 ms, stops its group; a flit whose CRC does not check over its
payload, and one of a reserved kind, is such an error (R315); a gap in the sequence begins a replay alone; a flit without a receive buffer
waits, counted by its die (R49); on a group that is off, asleep, retired or stopped nothing happens. -/
def Obligations.FlitRefused : Prop :=
  ∀ (s : State) (l : LinkId) (dir : Fin 2) (g : Fin 16) (seq : BitVec 8) (f : BitVec 64),
    let x := s.linkDir l dir
    let y := x.group g
    (GroupWorks s l dir g → ∃ t, exec (.flitCrcError l dir g seq) s = .next t
        ∧ (t.linkDir l dir).crcErr = x.crcErr + 1 ∧ ((t.linkDir l dir).group g).replaying = true
        ∧ ((t.linkDir l dir).group g).asked = some y.nextSeq
        ∧ (y.replaying = true → seq.toNat = y.nextSeq → ((t.linkDir l dir).group g).stopped = true)
        ∧ (15 ≤ (y.crcTimes.filter fun a => decide (s.nowPs < a + 10 ^ 9)).length → ((t.linkDir l dir).group g).stopped = true)
        ∧ ((t.linkDir l dir).group g).nextSeq = y.nextSeq ∧ t.dies = s.dies)
    ∧ (GroupWorks s l dir g → flitCrcOk f (pad128 []) = true → flKind f = 0 → MaySend s l dir g 0 f → flSeq f ≠ y.nextSeq →
        ∃ t, exec (.idleFlit l dir g f) s = .next t ∧ ((t.linkDir l dir).group g).replaying = true
          ∧ ((t.linkDir l dir).group g).asked = some y.nextSeq ∧ ((t.linkDir l dir).group g).nextSeq = y.nextSeq
          ∧ (t.linkDir l dir).crcErr = x.crcErr ∧ t.dies = s.dies ∧ t.tuns = s.tuns ∧ t.cellar = s.cellar)
    ∧ (GroupWorks s l dir g → flitCrcOk f (pad128 []) = true → 12 ≤ flKind f → seq.toNat = flSeq f →
        exec (.idleFlit l dir g f) s = exec (.flitCrcError l dir g seq) s)
    ∧ (∀ (c : Instr) (kind : Nat) (p : Bytes), flitOf c = some (l, dir, g, kind, f, p) → flitCrcOk f (pad128 p) = false →
        seq.toNat = flSeq f → exec c s = exec (.flitCrcError l dir g seq) s)
    ∧ (∀ (c : Instr) (kind : Nat) (p : Bytes), flitOf c = some (l, dir, g, kind, f, p) → Offered s l dir g kind f p →
        ¬ Buffered s l dir g kind f →
        flSrc f < 8 → (s.ctx (flSrc f) (flTun f)).resident = true → ∃ t, exec c s = .next t ∧ t.links = s.links ∧ t.cellar = s.cellar
          ∧ let st := (s.ctx (flSrc f) (flTun f)).stall
            (t.ctx (flSrc f) (flTun f)).stall =
              (if l.val < 8 then { st with hubCr := st.hubCr + 1 } else { st with ringCr := st.ringCr + 1 }))
    ∧ (x.off = true ∨ y.retired = true ∨ y.stopped = true ∨ s.linkAwake l = false → exec (.idleFlit l dir g f) s = .next s
        ∧ exec (.flitCrcError l dir g seq) s = .next s)

/-- Control lanes and lane repair (R317, R326 to R328): of two good copies the first is taken and nothing else happens; one good copy is
taken and the loss of the other noted; a lane group fault stops its group; a lane test that finds at least 68 good signal lanes and a
clock lane leaves a stopped group at full width, 34 to 67 at half width, counted, and fewer, or no clock lane, retire it, counted; its
pause is counted up to 12.21 µs, and 0.26 µs more where the group is retired.
Discovery (R320, R321, R370): in a start a die learns its index from the first seed or token that reaches it, and sends its neighbours
their tokens; one whose index is not its hub port, or whose later token disagrees, is dark with cause 3; the hub seeds port 0 first, and
after 10 µs the dies without an index; an identity record whose type or tag does not check makes its die dark with cause 4, counted.
Nothing of it happens later. -/
def Obligations.LaneRepairAndDiscovery : Prop :=
  (∀ (s : State) (l : LinkId) (dir : Fin 2) (g : Fin 16) (bad : BitVec 74) (ns : Nat) (one two : Bytes),
      let x := s.linkDir l dir
      let y := x.group g
      (ctlGood one = true → ctlGood two = true →
          exec (.controlFlit l dir one two) s = .next (s.setLinkDir l dir { x with ctlIn := one.take 62 }))
      ∧ (ctlGood one ≠ ctlGood two → ∃ t, exec (.controlFlit l dir one two) s = .next t ∧ (t.linkDir l dir).ctlDegraded = true
          ∧ (t.linkDir l dir).ctlIn = (if ctlGood one then one else two).take 62 ∧ t.dies = s.dies)
      ∧ (ctlGood one = false → ctlGood two = false → ∃ t, exec (.controlFlit l dir one two) s = .next t
          ∧ (t.linkDir l dir).ctlLost = true ∧ (t.linkDir l dir).ctlIn = x.ctlIn)
      ∧ (g.val < linkGroups l → y.retired = false → x.off = false →
          exec (.laneGroupFault l dir g) s = .next (s.setLinkDir l dir (x.setGroup g { y with stopped := true })))
      ∧ (g.val < linkGroups l → y.stopped = true → y.retired = false → ∃ t, exec (.laneTestDone l dir g bad ns) s = .next t ∧
          let good := goodLanes (y.bad ||| bad)
          let z := (t.linkDir l dir).group g
          z.bad = y.bad ||| bad ∧ (z.retired = true ↔ good.1 < 34 ∨ good.2 = false)
          ∧ (z.half = true ↔ good.1 < 68) ∧ (z.stopped = true ↔ z.retired = true)
          ∧ (t.linkDir l dir).repairs = x.repairs + 1
          ∧ (t.linkDir l dir).repairNs = x.repairNs + min ns (if z.retired then 12470 else 12210)
          ∧ (t.linkDir l dir).retiredCount = (if z.retired then x.retiredCount + 1 else x.retiredCount)
          ∧ (y.half = false → z.half = true → z.retired = false → (t.linkDir l dir).halfEvents = x.halfEvents + 1)))
  ∧ (∀ (s : State) (d : DieId) (c : Fin 8) (side : Fin 2) (rec' : BitVec 512) (nonce : Bytes),
      (s.pwr.state ≠ .starting → exec (.discoverySeed d c) s = .next s ∧ exec (.ringToken d side c) s = .next s
          ∧ exec .directSeedTimer s = .next s ∧ exec (.identityReport d rec' nonce) s = .next s)
      ∧ (d.val ≠ 0 → d.val ∉ s.links.seedsSent → exec (.discoverySeed d c) s = .next s)
      ∧ (s.pwr.state = .starting →
          (d.val = 0 ∨ d.val ∈ s.links.seedsSent → ∃ t, exec (.discoverySeed d c) s = .next t ∧ d.val ∈ t.links.seedsSent
            ∧ ((s.found d).index = none → (t.found d).index = some c.val ∧ (d.val ≠ 0 → (t.found d).seeded = true)
                ∧ t.links.tokensSent = s.links.tokensSent ++ [(d.val, 0, (c.val + 1) % 8), (d.val, 1, (c.val + 7) % 8)])
            ∧ ((s.found d).index = none → c.val = d.val → (t.found d).state = (s.found d).state)
            ∧ ((s.found d).index = none ∧ c.val ≠ d.val ∨ (∃ i, (s.found d).index = some i ∧ i ≠ c.val) →
                (t.found d).state = .dark ∧ (t.found d).cause = 3 ∧ (t.die d).lost = true))
          ∧ (∃ t, exec (.ringToken d side c) s = .next t
            ∧ ((s.found d).index = none → (t.found d).index = some c.val)
            ∧ (side.val = 1 → (t.found d).cw = true)
            ∧ ((∃ i, (s.found d).index = some i ∧ i ≠ c.val) → (t.found d).state = .dark ∧ (t.found d).cause = 3))
          ∧ (∃ t, exec .directSeedTimer s = .next t ∧ ∀ n < 8, (s.found n).index = none → n ∈ t.links.seedsSent)
          ∧ (∃ t, exec (.identityReport d rec' nonce) s = .next t ∧
            let x := s.found d
            let r := setField rec' 96 3 (bit x.cw + 2 * bit x.acw + 4 * bit x.seeded)
            (t.found d).record = r ∧ (t.found d).reported = true
            ∧ (field r 0 4 ≠ 1 ∨ field r 128 384 ≠ Bytes.toNat (dieTag d ((s.links.nonces.find d).getD nonce) r) →
                (t.found d).state = .dark ∧ (t.found d).cause = 4 ∧ t.sec.dieBindFail = s.sec.dieBindFail + 1))))


/-! ### The update engine and the commit -/

/-- What block b of entry k becomes when it takes the gradients gs (R190, R195 to R197, R204). -/
def Sys2Proof.Claims.blockTaken (s : State) (d : DieId) (u k b : Nat) (gs : List Word32) : BlockOut :=
  let e := Tbl.get 0 (s.upd d u).table k
  let ob := Block.ofBytes (s.readBlock d u e (s.readKeg d u e b) b)
  let f := Tbl.get ({} : Factors) (s.upd d u).factors k
  let c := s.entryConst d u e
  if utKind e = 0 then updateM c f (s.tun u).stepNow (utFirst e + 64 * b) (max (utCols e) 1) ob gs
  else if utKind e = 2 then
    let o := updateV c (ob.rowStep + 1) f ob gs
    { o with block := { o.block with rowStep := ob.rowStep + 1, written := (s.tun u).stepNow } }
  else updateV c c.k f ob gs

/-- A segment that reaches a running die's engine with no result of its range in hub staging, and of which nothing is taken
yet: what the engine takes is the segment itself. -/
def Sys2Proof.Claims.Arrives (s : State) (d : DieId) (u : TunId) (g : GradSegment) : Prop :=
  s.pwr.state = .run ∧ (s.tun u).loaded = true ∧ (s.ctx d u).resident = true
    ∧ (s.tun u).segs.find? ((s.tun u).isUpdate d g) = none ∧ g ∉ (s.upd d u).staged ∧ (s.upd d u).givenOf g = []

/-- A segment that holds a block, not yet taken from it, that is updated, being updated, or on its way to the granary in the
step. -/
def Sys2Proof.Claims.Doubles (s : State) (d : DieId) (u : TunId) (g : GradSegment) : Prop :=
  let x := s.upd d u
  ∃ p ∈ x.touched g, ∃ b ∈ x.left g p, blockKey p.1 b ∈ x.done ∨ (x.inFlight.find (blockKey p.1 b)).isSome = true
    ∨ ∃ f ∈ x.forwards, blockKey p.1 b ∈ f.keys

/-- The counters of a segment's wait: for order, for the block bound and for the coder, each by a free number of cycles (log
entry 116). -/
def Sys2Proof.Claims.waited (x : UpdStat) (why k : Nat) : UpdStat :=
  { x with orderWait := x.orderWait + (if why = 1 then k else 0), stallBlocks := x.stallBlocks + (if why = 2 then k else 0),
           rackHold := x.rackHold + (if why = 3 then k else 0) }

/-- A reduced gradient segment at the update engine (R148, R190 to R192, R205, R214). One that arrives twice stops the tun; one
whose turn has not come is staged and its wait counted; a non-finite one is discarded and counted, its blocks marked; a frozen
entry's is discarded and its elements counted; a granary entry's is forwarded with its pages; a block of any other entry goes in
flight as R190 forms it, from the keg the step reads; and the last result of an embedding entry's rows marks them once as many
have come as are due. The watch sees every segment but a frozen entry's. No byte of memory changes before the write is
acknowledged. A segment of one block that is taken leaves staging as it was. -/
def Obligations.SegmentReachesEngine : Prop :=
  ∀ (s : State) (d : DieId) (u : TunId) (g : GradSegment), Arrives s d u g →
    ∃ t, exec (.segmentArrival d u g) s = .next t ∧ SameBytes s t ∧
      let x := s.upd d u
      let y := t.upd d u
      let why := (x.touched g).findSome? fun p => s.segWaits d u g p
      (Doubles s d u g → (t.tun u).stopped = true ∧ (t.ctx d u).spoil = true ∧ y.done = x.done ∧ y.inFlight = x.inFlight)
      ∧ (∀ w, ¬ Doubles s d u g → why = some w → y.staged = x.staged ++ [g] ∧ y.done = x.done ∧ y.inFlight = x.inFlight
          ∧ y.begun = x.begun ∧ y.stat = waited x.stat w (Config.openNat 21 s.draws))
      ∧ (∀ k, ¬ Doubles s d u g → why = none → x.touched g = [(k, Tbl.get 0 x.table k)] →
          let e := Tbl.get 0 x.table k
          let bs := x.left g (k, e)
          let keys := bs.map (blockKey k)
          (g.nonfinite = true ∨ utFrozen e = true ∨ utKind e = 4 ∨ bs.length ≤ 1 → y.staged = x.staged)
          ∧ (utFrozen e = false → (Tbl.get {} y.watch (utBucket e)).seen = true)
          ∧ (utFrozen e = true → y.watch = x.watch)
          ∧ (g.nonfinite = false → utFrozen e = false → g.elems.any fnonfinite = true → (t.ctx d u).spoil = true)
          ∧ ((utKind e = 2 → g.last = false) →
            (g.nonfinite = true → y.done = x.done ++ keys ∧ y.inFlight = x.inFlight
              ∧ y.stat.nfSegments = x.stat.nfSegments + 1 ∧ (t.tun u).step.nfSeen = true)
            ∧ (g.nonfinite = false → utFrozen e = true → y.done = x.done ++ keys ∧ y.inFlight = x.inFlight
              ∧ y.stat.frozenElems = x.stat.frozenElems + (bs.map fun b => (segGrads e g b).length).sum)
            ∧ (g.nonfinite = false → utFrozen e = false → utKind e = 4 → y.inFlight = x.inFlight ∧ y.done = x.done ∧
              let count := min (g.first + g.elems.length) (utFirst e + utCount e) - max g.first (utFirst e)
              ∃ f, y.forwards = x.forwards ++ [f] ∧ f.keys = keys
                ∧ (∀ len, ((g.elems.drop (max g.first (utFirst e) - g.first)).take count).length = len →
                    f.bytes = len * (((s.tun u).gradFmt g.tensor).bits / 8) ∧ f.posted.length = ceilDiv (64 + f.bytes) 4096)
                ∧ (t.tun u).gradPages = (s.tun u).gradPages + f.posted.length)
            ∧ (∀ b, g.nonfinite = false → utFrozen e = false → utKind e ≠ 4 → bs = [b] →
              let o := blockTaken s d u k b (segGrads e g b)
              y.inFlight = x.inFlight.put (blockKey k b) (o.block.toBytes (utKind e != 0)) ∧ y.done = x.done
              ∧ y.stat.clipped = x.stat.clipped + o.clipped
              ∧ (utKind e = 0 → y.factors = x.factors.put k o.factors) ∧ (utKind e ≠ 0 → y.factors = x.factors)
              ∧ (o.nonfinite = true → (t.ctx d u).spoil = true)))
          ∧ (utKind e = 2 → g.last = true → g.nonfinite = false → utFrozen e = false → bs = [] →
            let came := Tbl.get 0 x.lasts k + 1
            Tbl.get 0 y.lasts k = came
            ∧ y.done = x.done ++ (if (s.tun u).lastsDue d g.tensor ≤ came then [rowsKey k] else [])))

/-- A staged segment is offered again (R191, R192): with none staged, or while the device is stopped, nothing happens but what
the hub's held gating requests ask (R27); the first
that need not wait leaves staging, or stays with the blocks that have been taken of it where the block bound or the coder holds
the rest; where every one must wait they all stay. No byte of memory changes.
A block's cellar write is acknowledged (R190 step 9, R172): its bytes stand in the keg the step writes, it is marked
updated and counted, and the step applies updates; a write to a granule not yet rebuilt waits for a free number of cycles (log entry
131). While the device is stopped, for a block not in flight, and while the links of the die's parity group are asleep, nothing
happens. -/
def Obligations.StagedSegmentsAndBlocks : Prop :=
  (∀ (s : State) (d : DieId) (u : TunId),
      let x := s.upd d u
      let free (g : GradSegment) : Bool := (x.touched g).all fun p => (s.segWaits d u g p).isNone
      (s.pwr.state ≠ .run ∨ x.staged = [] → exec (.stagedSegmentResume d u) s = .next s.hubSettle)
      ∧ (s.pwr.state = .run → ∃ t, exec (.stagedSegmentResume d u) s = .next t ∧ SameBytes s t ∧
          let y := t.upd d u
          (∀ g, x.staged.find? free = some g →
            y.staged = x.staged.erase g ∨ y.staged = x.staged ∧ ∃ ks, (g, x.givenOf g ++ ks) ∈ y.begun)
          ∧ (x.staged.find? free = none → (∀ g ∈ x.staged, ¬ Doubles s d u g) → y.staged = x.staged ∧ y.inFlight = x.inFlight)))
  ∧ (∀ (s : State) (d : DieId) (u : TunId) (entry : Fin 16384) (b : Nat),
      let x := s.upd d u
      let e := Tbl.get 0 x.table entry
      let key := blockKey entry b
      let a := s.blockAddr e (s.readKeg d u e b + 1) b
      (s.pwr.state ≠ .run ∨ x.inFlight.find key = none → exec (.blockWriteAck d u entry b) s = .next s)
      ∧ (∀ new, s.pwr.state = .run → x.inFlight.find key = some new → ∃ t, exec (.blockWriteAck d u entry b) s = .next t ∧
          let y := t.upd d u
          (∀ n, (t.die n).mem = (s.die n).mem)
          ∧ (s.heldWrite u d a new.length = [] → s.groupLinked (d.val / 2) = false → t = s)
          ∧ (s.heldWrite u d a new.length = [] → s.groupLinked (d.val / 2) = true → t.cellar = (s.cellarWrite u d a new).cellar
              ∧ y.inFlight = x.inFlight.erase key ∧ y.done = x.done ++ [key] ∧ (t.tun u).step.applied = true
              ∧ y.stat = { x.stat with blocks := x.stat.blocks + 1, records := x.stat.records + utLive e b }
              ∧ y.factors = x.factors ∧ y.table = x.table)
          ∧ (s.heldWrite u d a new.length ≠ [] → y = x ∧ t.cellar.mem = s.cellar.mem ∧ t.cellar.keys = s.cellar.keys
              ∧ (t.ctx d u).stall.cellar = (s.ctx d u).stall.cellar + Config.openNat 23 s.draws)))

/-- A returned sketch segment (R172, R198 to R200, R238): for an entry without a factored second moment or not flushed, once folded, and while
a sum of its tensor is missing, nothing happens; a held coder is counted, and so is a slot whose granule is not yet rebuilt; else
the sums returned for the columns and the total, and the piece's own row sums, are folded into the slot of the next step, which
counts one fold more. For a tensor of one piece the sums are the piece's own. -/
def Obligations.SketchFolds : Prop :=
  ∀ (s : State) (d : DieId) (u : TunId) (entry : Fin 16384) (others : List SketchPart),
    let x := s.upd d u
    let e := Tbl.get 0 x.table entry
    let f := Tbl.get ({} : Factors) x.factors entry
    let ready := s.pwr.state = .run ∧ (x.table.find entry).isSome = true ∧ utFactored (s.tun u).coefs e = true ∧ f.flushed = true ∧ f.folded = false
    let sums := s.returnedSums d u e others
    let step := (s.tun u).stepNow
    let old := f.slot step
    let cols := max (utCols e) 1
    let r0 := utFirst e / cols
    let rows := (utFirst e + utCount e - 1) / cols + 1 - r0
    (¬ ready ∨ sums = none → exec (.sketchSegmentReturn d u entry others) s = .next s)
    ∧ (∀ z, ready → sums = some z → s.coderFree d u 65472 = false → ∃ t, exec (.sketchSegmentReturn d u entry others) s = .next t
        ∧ t.upd d u = { x with stat := waited x.stat 3 (Config.openNat 21 s.draws) } ∧ t.cellar = s.cellar)
    ∧ (∀ z, ready → sums = some z → s.coderFree d u 65472 = true → s.heldWrite u d (s.slotAddr u e) (slotLen e) ≠ [] →
        ∃ t, exec (.sketchSegmentReturn d u entry others) s = .next t ∧ t.upd d u = x ∧ t.cellar.mem = s.cellar.mem
          ∧ (t.ctx d u).stall.cellar = (s.ctx d u).stall.cellar + Config.openNat 23 s.draws)
    ∧ (∀ z, ready → sums = some z → s.coderFree d u 65472 = true → s.heldWrite u d (s.slotAddr u e) (slotLen e) = [] →
        ∃ t, exec (.sketchSegmentReturn d u entry others) s = .next t ∧
        let y := Tbl.get ({} : Factors) (t.upd d u).factors entry
        let c := s.entryConst d u e
        let new := old.fold c.b2 c.omb2 (tensorRows (Tbl.get 0 (s.tun u).job.tensors (utTensor e)) cols) cols
          ((List.range rows).map fun i => (r0 + i, Tbl.get 0 f.rowSum (r0 + i))) ((List.range cols).map fun j => (j, z.1.getD j 0)) z.2
        y.folded = true ∧ y.slot (step + 1) = new ∧ new.folds = min (old.folds + 1) 0xFFFFFFFF ∧ y.slot step = old
        ∧ (∀ n, (t.die n).mem = (s.die n).mem) ∧ t.cellar = (s.cellarWrite u d (s.slotAddr u e) new.toBytes).cellar)
    ∧ (∀ z, ready → sums = some z → (s.tun u).sketchSums d (utTensor e) (utBucket e) = none → others = [] →
        s.sketchPieces u (utTensor e) = [((d : Nat), (entry : Nat), e)] → (∀ h ∈ (s.tun u).job.shards, shReplica h = 0) →
        z = ((List.range cols).map (fun j => flush32 (Tbl.get 0 f.colSum j)), flush32 f.total))

/-- A message of a tun comes from another of its devices on a MAC that receives, and counts there as one received (R301, R303). -/
def Sys2Proof.Claims.Heard (s : State) (m : MacId) (u : TunId) (src : Fin 64) : Prop :=
  s.macUp m = true ∧ (s.tun u).loaded = true ∧ src.val < (s.tun u).job.cluster.length ∧ src.val ≠ (s.tun u).rank

/-- What such a message that says nothing new changes: the counters of its MAC alone. -/
def Sys2Proof.Claims.OnlyCounted (s t : State) : Prop := t.tuns = s.tuns ∧ t.dies = s.dies ∧ t.cellar = s.cellar ∧ t.host = s.host

/-- The step's vote (R207, R208, R239). A device gives its bit once conditions 1 to 5 of R186 hold: the OR of its spoil flags,
its non-finite flags and a spoiled host word; the dies' flags are taken into it. Member 0 takes each member's vote of the
step once, and with the last it forms the result: the ORs of the bits.
The result a device has of its vote: at member 0 the one it has formed, elsewhere the one that comes for the step over a MAC. -/
def Sys2Proof.Claims.ResultIs (s : State) (m : Option MacId) (u : TunId) (v r : VoteData) : Prop :=
  (s.tun u).loaded = true ∧ (s.tun u).stopped = false ∧ (s.tun u).step.given.isSome = true ∧ (s.tun u).step.outcome ≠ some .clean
    ∧ (m = none ∧ (s.tun u).rank = 0 ∧ (s.tun u).step.result = some r ∨ (∃ k, m = some k ∧ Heard s k u 0) ∧ v = r ∧ r.step = (s.tun u).stepNow)

/-- A vote delivered, or not in time (R2, R208 to R213). Clean: the outcome and its cause are kept, and where the racking of the step
before does not stand the wait of the bung begins, one lag event counted. Spoiled: no bung, no byte of memory, the attempt, the
spoils in a row and the cause counted, the loss scale halved after a non-finite spoil where it is enabled, every die to be told,
the staged records taken for the attempt that starts (log entry 93), and at the limit the tun stops. No result in time: the tun
stops with its bung as it was, counted; a device alone in its cluster has its result, and one that waits for a device that leaves the
cluster goes on without it, or waits on (R252). A vote that is not due, and a message on a MAC that is down, changes nothing else. -/
def Obligations.Votes : Prop :=
  (∀ (s : State) (m : MacId) (u : TunId) (src : Fin 64) (v : VoteData),
      let t0 := s.tun u
      let may := t0.loaded = true ∧ t0.stopped = false ∧ s.pwr.state = .run ∧ t0.step.given = none ∧ s.voteReady u = true
      let takes := Heard s m u src ∧ t0.rank = 0 ∧ v.step = t0.stepNow ∧ t0.step.result = none
      (¬ may → exec (.voteGive u) s = .next s)
      ∧ (may → ∃ t w, exec (.voteGive u) s = .next t ∧ (t.tun u).step.given = some w ∧ (t.tun u).step.givenAt = s.nowPs
          ∧ (t.tun u).step.outcome = none ∧ (t.tun u).step.state = .voteOpen ∧ w.nf = t0.step.nfSeen ∧ w.step = t0.stepNow
          ∧ (w.spoiled = true ↔ (∃ n ∈ s.diesOf u, (s.ctx n u).spoil = true) ∨ t0.step.spoil = true ∨ t0.step.nfSeen = true
              ∨ t0.step.hostWord = some true)
          ∧ (∀ n ∈ s.diesOf u, (t.ctx n u).spoil = false)
          ∧ (t0.rank = 0 → t0.job.cluster.length = 1 → ∃ r, (t.tun u).step.result = some r ∧ r.spoiled = w.spoiled ∧ r.nf = w.nf))
      ∧ (s.macUp m = false → exec (.vote m u src v) s = .next s)
      ∧ (¬ takes → ∃ t, exec (.vote m u src v) s = .next t ∧ OnlyCounted s t)
      ∧ (takes → ∃ t, exec (.vote m u src v) s = .next t ∧
          let votes := t0.step.votes.put src v
          (t.tun u).step.votes = votes
          ∧ ((∃ r < t0.job.cluster.length, votes.find r = none) → (t.tun u).step.result = none)
          ∧ ((∀ r < t0.job.cluster.length, (votes.find r).isSome = true) → ∃ w, (t.tun u).step.result = some w ∧ w.step = t0.stepNow
              ∧ (w.spoiled = true ↔ ∃ r < t0.job.cluster.length, ∃ y, votes.find r = some y ∧ y.spoiled = true)
              ∧ (w.nf = true ↔ ∃ r < t0.job.cluster.length, ∃ y, votes.find r = some y ∧ y.nf = true))))
  ∧ (∀ (s : State) (m : Option MacId) (u : TunId) (v r : VoteData),
      let a := s.tun u
      (ResultIs s m u v r → r.spoiled = false → ∃ t, exec (.voteResult m u v) s = .next t ∧
          let lags := a.stands (a.stepNow - 1) = false ∧ a.step.lagSince = none
          (¬ lags → (t.tun u).step = { a.step with outcome := some .clean } ∧ (t.tun u).rackStat = a.rackStat)
          ∧ (lags → (t.tun u).step = { a.step with outcome := some .clean, lagSince := some s.nowPs, state := .awaitingRacking }
              ∧ (t.tun u).rackStat.lagEvents = a.rackStat.lagEvents + 1)
          ∧ (t.tun u).bung = a.bung ∧ (t.tun u).gravAcc = []
          ∧ (t.tun u).commit = { a.commit with lastSpoiled := false, lastNf := r.nf } ∧ t.dies = s.dies ∧ t.cellar = s.cellar)
      ∧ (ResultIs s m u v r → r.spoiled = true → ∃ t, exec (.voteResult m u v) s = .next t ∧
          let b := t.tun u
          let halve := a.job.lossScaling = true ∧ r.nf = true
          b.bung = a.bung ∧ SameBytes s t ∧ b.step.attempt = a.step.attempt + 1 ∧ b.step.spoils = a.step.spoils + 1
          ∧ b.step.prevNf = r.nf ∧ b.step.k = a.step.k ∧ b.step.given = none ∧ b.step.outcome = some (.spoiled r.nf)
          ∧ b.step.toTell = s.diesOf u
          ∧ b.commit = { a.commit with lastSpoiled := true, lastNf := r.nf, spoiled := a.commit.spoiled + 1 }
          ∧ b.step.lsScale = (if halve then fmax fone (fmul a.step.lsScale 0x3F000000) else a.step.lsScale)
          ∧ b.step.lsClean = (if halve then 0 else a.step.lsClean)
          ∧ b.limits = a.limitsNext.getD a.limits ∧ b.coefs = a.coefsNext.getD a.coefs
          ∧ b.schedule = a.scheduleNext.getD a.schedule ∧ b.gravity = a.gravityNext.getD a.gravity
          ∧ b.permDue = [] ∧ b.perms = [] ∧ b.stopped = decide (a.spoilLimit ≤ a.step.spoils + 1))
      ∧ (a.loaded = true → a.stopped = false → a.step.given.isSome = true → a.step.outcome ≠ some .clean →
          (a.alone = true → exec (.voteTimeout u) s = .next s)
          ∧ (a.alone = false → a.votesLeft = true → ∃ t, exec (.voteTimeout u) s = .next t ∧ (t.tun u).step.result.isSome = true
              ∧ (t.tun u).stopped = false ∧ (t.tun u).bung = a.bung ∧ t.dies = s.dies ∧ t.cellar = s.cellar)
          ∧ (a.alone = false → a.votesLeft = false → a.voteWaits = true → exec (.voteTimeout u) s = .next s)
          ∧ (a.alone = false → a.votesLeft = false → a.voteWaits = false → ∃ t, exec (.voteTimeout u) s = .next t ∧ (t.tun u).stopped = true ∧ (t.tun u).bung = a.bung
              ∧ (t.tun u).commit.voteTimeouts = a.commit.voteTimeouts + 1 ∧ SameBytes s t
              ∧ t.nowPs = max s.nowPs (a.step.givenAt + a.voteTimeoutMs * 10 ^ 9))))

/-- The bung (R2, R185, R186, R213): after a clean vote it is driven once racking of the step before stands: the word names
the step, the keg of the step after it and whether a host word took part, the step is counted, K counts it where it applied
updates, the loss scale and its count move on, and the dies are to be told; else it waits, one lag event counted.
The step outcome on a die (R97, R139, R187, R188, R210): a die that holds for it goes on with the step record of the step
it runs next, the entries whose freezing copy waits for a granule still to be copied; after a spoiled step only once nothing the
tun launched is outstanding, with its statistics history undone, its generator at the step's start, its tokens as the job image
has them, none of its tiles open and its credits whole. A die that does not hold is not told. The outcome comes in a flit that the
die's hub link accepts. -/
def Obligations.BungsAndStepOutcomes : Prop :=
  (∀ (s : State) (u : TunId),
      let a := s.tun u
      let due := a.loaded = true ∧ a.stopped = false ∧ s.pwr.state = .run ∧ a.step.given.isSome = true ∧ a.step.outcome = some .clean
      (¬ due → exec (.bungDrive u) s = .next s)
      ∧ (due → a.stands (a.stepNow - 1) = true → ∃ t, exec (.bungDrive u) s = .next t ∧
          let b := t.tun u
          b.bung = { step := a.stepNow, keg := (a.stepNow + 1) % 2, granary := a.step.hostWord.isSome, valid := true }
          ∧ b.commit.committed = a.commit.committed + 1 ∧ b.step.attempt = 0 ∧ b.step.spoils = 0 ∧ b.step.given = none
          ∧ b.step.k = (if a.step.applied then a.step.k + 1 else a.step.k) ∧ b.step.toTell = t.diesOf u
          ∧ (b.step.lsScale, b.step.lsClean) = scaleClean a.job.lossScaling a.step.lsScale a.step.lsClean
          ∧ b.limits = a.limitsNext.getD a.limits ∧ b.limitsNext = none ∧ b.coefs = a.coefsNext.getD a.coefs
          ∧ b.schedule = a.scheduleNext.getD a.schedule ∧ b.gravity = a.gravityNext.getD a.gravity)
      ∧ (due → a.stands (a.stepNow - 1) = false → a.step.lagSince.isSome = true → exec (.bungDrive u) s = .next s)
      ∧ (due → a.stands (a.stepNow - 1) = false → a.step.lagSince = none → ∃ t, exec (.bungDrive u) s = .next t ∧
          (t.tun u).bung = a.bung ∧ (t.tun u).step = { a.step with lagSince := some s.nowPs, state := .awaitingRacking }
          ∧ (t.tun u).rackStat.lagEvents = a.rackStat.lagEvents + 1 ∧ t.dies = s.dies ∧ t.cellar = s.cellar))
  ∧ (∀ (s : State) (l : LinkId) (d : DieId) (u : TunId) (g : Fin 16) (f : BitVec 64),
      l.val = d.val → Accepted s l 1 g 9 f (outcomePayload (s.tun u)) → flDst f = d.val → flTun f = u.val →
      let a := s.tun u
      let c := s.ctx d u
      let due := d.val ∈ a.step.toTell ∧ (c.hold = true ∨ a.reshard ≠ .no) ∧ s.pwr.state = .run
      let goesOn (t : State) : Prop := (t.ctx d u).hold = false ∧ (t.ctx d u).stepRec = a.record
        ∧ (t.tun u).step = { a.step with toTell := a.step.toTell.filter (· != d.val) } ∧ (t.tun u).bung = a.bung
      (¬ due → ∃ t, exec (.stepOutcome d u g f) s = .next t ∧ t.dies = s.dies ∧ t.tuns = s.tuns)
      ∧ (due → a.step.outcome = some .clean → ∃ t, exec (.stepOutcome d u g f) s = .next t ∧ goesOn t
          ∧ (t.ctx d u).genPos = c.genPos ∧ (c.upd.toFreeze = [] → SameBytes s t)
          ∧ (∀ k ∈ (t.upd d u).toFreeze, k ∈ c.upd.toFreeze) ∧ (t.upd d u).done = []
          ∧ (a.step.toTell.filter (· != d.val) = [] → (t.tun u).loopNext = []))
      ∧ (∀ nf, due → a.step.outcome = some (.spoiled nf) → s.outstanding d u = true →
          ∃ t, exec (.stepOutcome d u g f) s = .next t ∧ t.dies = s.dies ∧ t.tuns = s.tuns)
      ∧ (∀ nf, due → a.step.outcome = some (.spoiled nf) → s.outstanding d u = false → ∃ t, exec (.stepOutcome d u g f) s = .next t
          ∧ goesOn t ∧ SameBytes s t ∧ (t.ctx d u).genPos = a.stepNow % 2 ^ 24 * 2 ^ 40 ∧ (t.ctx d u).stats = c.stats.mapVals StatSlot.undo
          ∧ (t.ctx d u).tokens = startTokens (Tbl.get {} a.job.dies d) ∧ (t.ctx d u).spent = [] ∧ (t.upd d u).done = []
          ∧ (∀ y ∈ (t.die d).tiles, y.tun ≠ u.val)
          ∧ (a.step.toTell.filter (· != d.val) = [] →
              (t.tun u).dlvSpent = [] ∧ (t.tun u).farSpent = [] ∧ (t.tun u).farOwed = [] ∧ (t.tun u).loopNext = [])))

/-- The host's and the other devices' words on a step (R216, R217, R219, R220). A host commit word of the step is taken once: one
that says spoiled or fails its tag spoils, a failed tag is counted, and the granary debt follows the late-work rule; any
other word is ignored. With no word in time the step votes spoiled. A digest of the step of the bung is kept, one of a later step until
its bung, and an earlier one is not; a member differs whose device digest is not that of a reference of its replicas, or whose digest of the replicated entries is not rank 0's; with none that differs newly nothing is counted
and no repair is staged. -/
def Obligations.HostWordsAndDigests : Prop :=
  ∀ (s : State) (m : MacId) (u : TunId) (w : BitVec 256) (src : Fin 64) (step : Nat) (dg : Bytes),
    let a := s.tun u
    let mine := a.loaded = true ∧ field w 0 48 = a.stepNow ∧ a.step.hostWord = none
    let tagOk' := field w 128 128 = Bytes.toNat (kmac256 a.exchangeKey (bytesOfNat 16 w.toNat) 16)
    (¬ mine → exec (.hostCommitWord u w) s = .next s)
    ∧ (mine → ∃ t, exec (.hostCommitWord u w) s = .next t ∧ t.dies = s.dies ∧ t.cellar = s.cellar
        ∧ ((t.tun u).step.hostWord = some true ↔ flag w 48 = true ∨ ¬ tagOk') ∧ (t.tun u).step.hostWord ≠ none
        ∧ (t.tun u).commit.granaryTagFail = a.commit.granaryTagFail + (if tagOk' then 0 else 1)
        ∧ (∀ ps, a.step.forwarded = some ps →
            let f := ps / 1000
            let target := max f (f + a.granaryWindowNs - a.commit.granaryDebt)
            (t.tun u).commit.granaryDebt =
              a.commit.granaryDebt - (f + a.granaryWindowNs - target) + (s.nowPs / 1000 - target)))
    ∧ (∀ ps, a.step.forwarded = some ps → a.step.hostWord = none → ∃ t, exec (.granaryTimeout u) s = .next t
        ∧ (t.tun u).step.hostWord = some true ∧ t.nowPs = max s.nowPs (ps + a.granaryTimeoutMs * 10 ^ 9) ∧ t.dies = s.dies)
    ∧ (a.step.forwarded = none ∨ a.step.hostWord.isSome = true → exec (.granaryTimeout u) s = .next s)
    ∧ (Heard s m u src → (a.bung.valid = false ∨ a.bung.step < step) → ∃ t, exec (.digestExchange m u src step dg) s = .next t
        ∧ t.tun u = { a with digestsAhead := a.digestsAhead.put src (step, dg) } ∧ t.dies = s.dies ∧ t.cellar = s.cellar)
    ∧ (Heard s m u src → a.bung.valid = true → step < a.bung.step → ∃ t, exec (.digestExchange m u src step dg) s = .next t ∧ OnlyCounted s t)
    ∧ (Heard s m u src → a.bung.valid = true → step = a.bung.step → a.digests ≠ [] →
        ∃ t, exec (.digestExchange m u src step dg) s = .next t ∧ (t.tun u).digests = a.digests.put src dg
          ∧ (∀ r, r ∈ (t.tun u).digestBad ↔ (∃ p ∈ a.digests.put src dg, p.1 = r) ∧
              let mine := Tbl.get [] (a.digests.put src dg) r
              ((∃ q ∈ a.referencesFor r, ∃ e, (a.digests.put src dg).find q = some e ∧ e.take 64 ≠ mine.take 64)
                ∨ ∃ e, (a.digests.put src dg).find 0 = some e ∧ e.drop 64 ≠ mine.drop 64))
          ∧ ((∀ r ∈ (t.tun u).digestBad, r ∈ a.digestBad) → (t.tun u).commit = a.commit ∧ (t.tun u).perms = a.perms)
          ∧ t.dies = s.dies ∧ t.cellar = s.cellar)

/-- The next segment of a piece takes a hub slot (R229, R230): with the quota full it waits, its wait counted by a free number of
cycles (log entry 116); else the piece's count moves on by the elements of the next segment, which is at most 64 KiB of them, and
with its last its launch is over; a launch to another level, an abandoned one, or none in the slot changes nothing. -/
def Obligations.PieceTakesSlot : Prop :=
  ∀ (s : State) (d : DieId) (u : TunId) (slot : Fin 512),
    ((s.die d).mov u slot = none → exec (.segmentSlotTake d u slot) s = .next s)
    ∧ ∀ j : MovJob, (s.die d).mov u slot = some j →
        let a := s.tun u
        let e := a.collAt (pieceColl j.desc)
        let total := s.pieceCount u e j.desc
        let k := s.pieceRun d u j j.taken total
        (mdDstLvl j.desc ≠ 4 ∨ j.void = true → exec (.segmentSlotTake d u slot) s = .next s)
        ∧ (mdDstLvl j.desc = 4 → j.void = false → tlSlots (s.lay u) ≤ a.slotsUsed → exec (.segmentSlotTake d u slot) s =
            .next (s.draw.setTun u { a with coll :=
              { a.coll with stallSegment := a.coll.stallSegment + Config.openNat 21 s.draws } }))
        ∧ (mdDstLvl j.desc = 4 → j.void = false → a.slotsUsed < tlSlots (s.lay u) → (∀ g ∈ movPages j.desc, (j.pages.find g).isSome = true) →
            ∃ t, exec (.segmentSlotTake d u slot) s = .next t ∧ SameBytes s t
              ∧ (colSparse e = false → k ≤ total - j.taken ∧ k * fmtBits (colIn e) ≤ 65536 * 8)
              ∧ ((t.die d).mov u slot = none ∨ (t.die d).mov u slot = some { j with taken := j.taken + k })
              ∧ (total ≤ j.taken + k → (t.die d).mov u slot = none))

/-- The records of a re-sharding step move (R249, R250): once a package is staged, the step's vote is not given, no digest repair is
under way and no die has begun the step, the step-start slice is held, unless a record would then be written over one that is still
read, when the package is refused; when every die has had the last step's outcome the records
move, unless one of their places waits for its granule. The step then has its records moved, its bung and its vote as they were; a
new piece of one block that this device held is written into the keg the step writes at its new place under the package's layout of the tun, and nothing of it is due. -/
def Obligations.ReshardMoves : Prop :=
  ∀ (s : State) (u : TunId),
    let a := s.tun u
    let due (pkg : LayoutPackage) : Prop := a.package = some pkg ∧ a.reshard ≠ .moved ∧ a.stopped = false ∧ s.pwr.state = .run
      ∧ a.step.given = none ∧ a.digestBad = [] ∧ (a.reshard = .no → s.atStepStart u = true)
    let refused (pkg : LayoutPackage) : Prop := a.reshard = .no ∧ s.packageMeets u a.bung.step pkg = true
    ((∀ pkg, ¬ due pkg) → exec (.reshardStep u) s = .next s)
    ∧ (∀ pkg, due pkg → refused pkg → ∃ t, exec (.reshardStep u) s = .next t ∧ (t.tun u).package = none ∧ (t.tun u).reshard = .no
        ∧ (t.tun u).bung = a.bung ∧ (t.tun u).step = a.step ∧ t.dies = s.dies ∧ t.cellar = s.cellar)
    ∧ ∀ pkg, due pkg → ¬ refused pkg →
        let held := s.setTun u { a with reshard := .held }
        let new := s.setLay u (a.layUnder pkg)
        let rank := (pkg.rankMap.find a.rank).getD 64
        let j := relaidJob a.job pkg
        let mine := j.shards.filter fun h => shRank h == rank
        (a.step.toTell ≠ [] → exec (.reshardStep u) s = .next (s.setTun u { a with reshard := .held }))
        ∧ (a.step.toTell = [] → held.reshardHeld u rank j (new.diesOf u) ≠ [] → ∃ t, exec (.reshardStep u) s = .next t ∧ (t.tun u).reshard = .held
            ∧ SameBytes s t)
        ∧ (a.step.toTell = [] → held.reshardHeld u rank j (new.diesOf u) = [] →
          ∃ t, exec (.reshardStep u) s = .next t ∧ (t.tun u).reshard = .moved ∧ (t.tun u).bung = a.bung ∧ (t.tun u).step = a.step
          ∧ (∀ n, (t.die n).mem = (s.die n).mem)
          ∧ (mine = [] → t.cellar = s.cellar ∧ (t.tun u).permDue = [])
          ∧ (∀ h bs, mine = [h] → shDie h ∈ new.diesOf u →
              let k := kindOf j (shTensor h)
              k ≠ 0 → k ≠ 2 → k ≠ 4 → utFrozen (shardEntry j h) = false → shardBlocks j h = 1 →
              s.oldBlock u a.rank (shTensor h) (shFirst h) = some bs → bs.length = 640 →
                t.cellar = (new.cellarWrite u (shDie h) (utKegAddr (shardEntry j h) (a.stepNow + 1)) bs).cellar
                ∧ (t.tun u).permDue = [] ∧ (t.tun u).coll.permuteBytes = a.coll.permuteBytes + 640))


/-! ### The transport -/

/-- Counter i of a MAC is one more (modulo 2^32, R310). -/
def Sys2Proof.Claims.Counted (s t : State) (m : MacId) (i : Nat) : Prop :=
  Tbl.get 0 (t.mac m).counters i = Tbl.get 0 (s.mac m).counters i + 1

/-- A data frame's header that its receiver discards (R300, R303). -/
def Sys2Proof.Claims.BadHeader (s : State) (h : BitVec 256) (payload : Bytes) : Prop :=
  let a := s.tun (field h 243 5)
  let kind := field h 224 4
  let src := field h 234 6
  field h 252 4 ≠ 1 ∨ field h 248 4 ≠ 1 ∨ a.loaded = false ∨ field h 228 6 ≠ a.rank ∨ 3 < kind
    ∨ (kind = 1 ∧ a.inputTap = false) ∨ (kind ≠ 1 ∧ kind ≠ 2 ∧ (src = a.rank ∨ a.job.cluster.length ≤ src)) ∨ payload.length ≠ field h 32 14

/-- A data frame received (R250, R256, R286, R300 to R303). On a port that is not up nothing happens. A frame longer than a MAC
takes is counted as such alone. A bad frame is counted and changes no tun; one of an earlier attempt is counted as stale, and its last
frame is acknowledged and its credit returned; a duplicate segment changes no tun and is counted with its last frame. Any other is
placed at its offset in its segment, or, with the last of its frames, the segment is complete, holds a slot and its number is kept.
Permutation records that their device does not take yet change nothing; those of a complete segment of one frame that it takes stand at
their places in cellar and are due no more, unless one of the places waits for its granule. -/
def Obligations.DataFrameReceived : Prop :=
  ∀ (s : State) (m : MacId) (h : BitVec 256) (payload : Bytes),
    let u := field h 243 5
    let a := s.tun u
    let kind := field h 224 4
    let src := field h 234 6
    let seq := field h 112 32
    let got := Tbl.get [] a.received (src * 16 + kind)
    let attempts := kind = 0 ∨ kind = 3
    let is (p : Partial) : Bool := p.src == src && p.kind == kind && p.seq == seq
    (s.macUp m = false → exec (.data m h payload) s = .next s)
    ∧ (s.macUp m = true → 9216 < s.frameLen m u payload.length → ∃ t, exec (.data m h payload) s = .next t
        ∧ Counted s t m 14 ∧ t.tuns = s.tuns ∧ SameBytes s t)
    ∧ (s.macUp m = true → s.frameLen m u payload.length ≤ 9216 → ∃ t, exec (.data m h payload) s = .next t
        ∧ (BadHeader s h payload → Counted s t m 24 ∧ t.tuns = s.tuns ∧ SameBytes s t)
        ∧ (¬ BadHeader s h payload → Counted s t m 23 ∧
            let b := t.tun u
            (attempts → a.staleHeader h = true → Counted s t m 26 ∧ SameBytes s t
                ∧ (flag h 242 = false → b = a)
                ∧ (flag h 242 = true → b = { a with coll := { a.coll with stale := a.coll.stale + 1 },
                                                    ctlOut := a.ctlOut ++ [.segmentCredit src kind 1] }))
            ∧ ((attempts → a.liveHeader h = true) → seq ∈ got → t.tuns = s.tuns ∧ SameBytes s t ∧ (flag h 242 = true → Counted s t m 25))
            ∧ ((attempts → a.liveHeader h = true) → seq ∉ got →
                let old := ((a.partials.find? is).map Partial.frames).getD []
                let i := field h 107 5
                let n := (if old.contains i then old else i :: old).length
                (n ≠ field h 102 5 + 1 → b.received = a.received ∧ SameBytes s t
                    ∧ ∃ p ∈ b.partials, is p = true ∧ i ∈ p.frames ∧ p.data.find (64 * field h 22 10) = some payload)
                ∧ (n = field h 102 5 + 1 → kind ≠ 3 → seq ∈ Tbl.get [] b.received (src * 16 + kind)
                    ∧ (∀ p ∈ b.partials, is p = false) ∧ SameBytes s t
                    ∧ (kind = 0 → b.coll.segRecv = a.coll.segRecv + 1))
                ∧ (n = field h 102 5 + 1 → kind = 3 → a.takesPerms = false → t.tuns = s.tuns ∧ SameBytes s t)
                ∧ (kind = 3 → a.takesPerms = true → field h 102 5 = 0 → a.partials.find? is = none →
                    let die := field h 148 3
                    let at' := field h 46 40
                    let bs := payload.take (field h 86 16 + 1)
                    let ws : List PermWrite := match a.reshard, a.package with
                      | .no, _ => a.repairWrites die at' bs
                      | _, none => []
                      | _, some pkg => a.reshardWrites (relaidJob a.job pkg) ((pkg.rankMap.find a.rank).getD 64) die at' bs
                    (s.permHeld u die ws ≠ [] → SameBytes s t ∧ b.received = a.received)
                    ∧ (s.permHeld u die ws = [] → t.cellar = (s.putRecords u die ws).cellar
                        ∧ seq ∈ Tbl.get [] b.received (src * 16 + kind) ∧ b.coll.segRecv = a.coll.segRecv + 1
                        ∧ b.coll.permuteBytes = ((s.putRecords u die ws).tun u).coll.permuteBytes
                        ∧ b.permDue = if a.reshard = .no then a.permDue else cutDue die at' (at' + bs.length) a.permDue)))))

/-- Results delivered into a window (R43, R232): with none held whose round is the window's, or with no credit held for the range's
first byte, they wait; the result of one segment without scales stands in its window's elements, its slot is free, and with the last of
the range the window's token is PRESENT, the hub is owed the credit and the collective's next round may be delivered. In STOPPED nothing
is delivered. -/
def Obligations.ResultsDelivered : Prop :=
  ∀ (s : State) (u : TunId) (r : Fin 4096),
    let a := s.tun u
    let d := Tbl.get 0 a.job.dlvs r
    let held := a.segs.filter (a.turnAt r)
    let key := 1024 * dlDie d + dlWin d
    let sent := (Tbl.get (0, 0) a.dlvCount r).2
    (s.pwr.state = .stopped → exec (.delivery u r) s = .next s)
    ∧ (s.pwr.state ≠ .stopped → held = [] ∨ (sent = 0 ∧ key ∈ a.dlvSpent) → exec (.delivery u r) s = .next s.hubSettle)
    ∧ (∀ x, s.pwr.state ≠ .stopped → held = [x] → x.scales = [] → ¬ (sent = 0 ∧ key ∈ a.dlvSpent) →
        ∃ t, exec (.delivery u r) s = .next t ∧
          let w := (s.ctx (dlDie d) u).win (dlWin d)
          let bits := fmtBits (colOut (a.collAt x.coll))
          let full := dlCount d ≤ sent + x.codes.length
          (t.die (dlDie d)).mem = setElems (s.share u) (s.die (dlDie d)).mem w bits
              (((List.range x.codes.length).zip x.codes).map fun p => (bits * deliverPlace w (dlXform d) (x.first - dlFirst d + p.1), p.2))
          ∧ (∀ n, n ≠ dlDie d → (t.die n).mem = (s.die n).mem) ∧ t.cellar = s.cellar
          ∧ (t.tun u).segs = a.segs.filter (· != x) ∧ (sent = 0 → key ∈ (t.tun u).dlvSpent)
          ∧ (¬ full → (t.tun u).dlvCount.find r = some (x.coll, sent + x.codes.length))
          ∧ (full → (t.tun u).dlvRound.find (x.coll * 4096 + r) = some ((x.round + 1) % 65536)
              ∧ ((s.ctx (dlDie d) u).tok (dlWin d) ≠ .present →
                  (t.ctx (dlDie d) u).tok (dlWin d) = .present ∧ (t.ctx (dlDie d) u).owed.find (dlWin d) = some 8)))

/-- The port, tun and source rank of a transport control message that must come from a rank of the cluster; none for a receiver's and for
those of kind 1, which come from receivers and from devices of other jobs. -/
def Sys2Proof.Claims.ctlOf : Instr → Option (MacId × TunId × Option Nat)
  | .acknowledgement m u src e => some (m, u, kindRank (field e 60 4) src)
  | .segmentCredit m u src e => some (m, u, kindRank (field e 28 4) src)
  | .windowCredit m u src _ => some (m, u, some src)
  | .closeMarker m u src _ _ _ => some (m, u, some src)
  | .hello m u src _ => some (m, u, some src)
  | .restoreComplete m u src => some (m, u, some src)
  | _ => none

/-- A control message's source is a rank of the cluster other than this device, or none is asked for. -/
def Sys2Proof.Claims.FromMember (a : Tun) (src : Option Nat) : Prop := ∀ r, src = some r → r < a.job.cluster.length ∧ r ≠ a.rank

/-- A racking, cask or evaluation segment that an acknowledgement of so many numbers names: it stands in its slot, and was sent or is
being sent again (R302, R309). -/
def Sys2Proof.Claims.Named (first more : Nat) (x : RackSeg) : Bool :=
  x.place == .slot && x.numbered && ((x.sentAt.isSome && x.mac.isSome) || x.resent) && seqIn first more x.seq

/-- Transport control messages (R230, R232, R236, R265, R274, R278, R301 to R305, R309). On a port that is not up nothing happens; one for
a tun not resident, or from no member, is counted as bad and changes no tun. Else it is counted and taken: an acknowledgement releases the
segments it names, those being sent again too, and ends the row of timeouts; one of kind 1 releases a receiver's segments where it says
that they are stored, and another device's evaluation segments; credits come back; a member's close marker stands; a hello shows an H8 at
the far end and its key number; a rank's restore-complete stands until every other's has come. Padding is counted alone. -/
def Obligations.TransportMessages : Prop :=
  (∀ (c : Instr) (s : State) (m : MacId) (u : TunId) (src : Option Nat), ctlOf c = some (m, u, src) →
      let ok := (s.tun u).loaded = true ∧ FromMember (s.tun u) src
      (s.macUp m = false → exec c s = .next s)
      ∧ (s.macUp m = true → ∃ t, exec c s = .next t ∧ (ok → Counted s t m 23)
          ∧ (¬ ok → Counted s t m 24 ∧ t.tuns = s.tuns) ∧ t.dies = s.dies ∧ t.cellar = s.cellar))
  ∧ (∀ (s : State) (m : MacId) (u : TunId) (r : Fin 64) (e : BitVec 64) (f : BitVec 32) (b : BitVec 16) (nf : Bool) (k : BitVec 64),
      let a := s.tun u
      let first := field e 24 32
      let more := field e 12 12
      s.macUp m = true → a.loaded = true →
      (FromMember a (some r) →
        (∃ t, exec (.acknowledgement m u (.rank r) e) s = .next t ∧ (t.mac m).timeouts = 0
          ∧ (field e 60 4 = 0 → t.tun u = { a with segs := a.segs.filter fun x =>
              !(x.role == .out r && (x.sentAt.isSome || x.resent) && seqIn first more x.seq) })
          ∧ (field e 60 4 = 3 → t.tun u = { a with perms := a.perms.filter fun x =>
              !(x.rank == r && (x.sentAt.isSome || x.resent) && seqIn first more x.seq) }))
        ∧ (∃ t, exec (.windowCredit m u r f) s = .next t ∧ t.tun u =
            { a with farSpent := a.farSpent.filter (· != r.val * 8192 + field f 29 3 * 1024 + field f 19 10) })
        ∧ (∃ t, exec (.closeMarker m u r b nf f) s = .next t
            ∧ (Tbl.get {} (t.tun u).buckets b.toNat).markers.find r = some (nf, f.toNat))
        ∧ (∃ t, exec (.hello m u r k) s = .next t ∧ (t.mac m).helloOk = true
            ∧ t.tun u = { a with helloKey := a.helloKey.put m k.toNat })
        ∧ (∃ t, exec (.restoreComplete m u r) s = .next t ∧
            let got := if r.val ∈ a.restored then a.restored else r.val :: a.restored
            let all := ∀ q, q < a.job.cluster.length → q = a.rank ∨ q ∈ got
            (r.val ∉ a.restored → a.restoring = true → all → t.tun u = { a with restoring := false, restored := [] })
            ∧ (r.val ∈ a.restored ∨ a.restoring = false ∨ ¬ all → t.tun u = { a with restored := got })))
      ∧ (field e 60 4 = 1 → ∃ t, exec (.acknowledgement m u (.rank r) e) s = .next t ∧ (t.tun u).rack.segs =
          a.rack.segs.filter fun x => !(Named first more x && (s.evalPeer u x).map Prod.fst == some r.val))
      ∧ (∀ ep : Fin 256, field e 60 4 = 1 → field e 56 4 = 1 → ∃ t, exec (.acknowledgement m u (.receiver ep) e) s = .next t ∧
          let named (x : RackSeg) : Bool := Named first more x && a.endpoint x == some ep.val && (s.evalPeer u x).isNone
          (t.tun u).rack.segs = a.rack.segs.filter (fun x => !(named x))
          ∧ ∀ x ∈ a.rack.segs, named x = true → (RkFields.ofHeader x.header).type = 6 →
              (RkFields.ofHeader x.header).step ≤ (t.tun u).rackStat.stood)
      ∧ (∀ src : Peer, FromMember a (kindRank (field f 28 4) src) → ∃ t, exec (.segmentCredit m u src f) s = .next t ∧
          let d := a.creditFrom (field f 28 4) src
          t.credits u d = s.credits u d + field f 0 16))
  ∧ (∀ (s : State) (m : MacId) (u : TunId), (s.macUp m = false → exec (.padding m u) s = .next s)
      ∧ (s.macUp m = true → ∃ t, exec (.padding m u) s = .next t ∧ Counted s t m (if (s.tun u).loaded then 23 else 24)
          ∧ t.tuns = s.tuns ∧ t.dies = s.dies ∧ t.cellar = s.cellar))

/-- What a port's failure raises beside its count: a lock loss, eight uncorrectable codewords, a local or a remote fault (R306, R310). -/
def Sys2Proof.Claims.CauseCounted (s t : State) (m : MacId) : PortFault → Prop
  | .blockLock => Counted s t m 44
  | .fec => Tbl.get 0 (t.mac m).counters 42 = Tbl.get 0 (s.mac m).counters 42 + 8
  | .localFault => Counted s t m 47
  | .remoteFault => Counted s t m 48

/-- A timeout on a MAC leaves t: one more in the row, and with the eighth the port has failed (R302). -/
def Sys2Proof.Claims.TimedOut (s t : State) (m : MacId) : Prop :=
  ((s.mac m).timeouts < 7 → (t.mac m).timeouts = (s.mac m).timeouts + 1)
  ∧ (7 ≤ (s.mac m).timeouts → s.macExists m = true → (t.mac m).link = .fenced)

/-- A port's failure and its failover (R302, R303, R306): a failed port is fenced and counted with its cause, and its delta, where the
plan holds one not applied, is due at a bushel unit, the segments that have begun in its peck counted; a port-down message makes a delta
due once; an applied delta is in force from its time on, and the failing device's unacknowledged segments go again. A segment of any kind
not acknowledged in time, 200 µs or towards a receiver 1 ms, goes again, counted, and the eighth timeout in a row fails its port; a
segment still incomplete in time is dropped and counted. -/
def Obligations.FailoverAndTimers : Prop :=
  ∀ (s : State) (m : MacId) (u : TunId) (rank : Fin 64) (failed : MacId) (ps seq dest : Nat) (kind : Fin 4) (why : PortFault),
    let k := 64 * rank.val + failed.val
    let x := s.mac m
    let a := s.tun u
    let own := 64 * s.ownRank + m.val
    let delta := ∃ g, s.net.gauge = some g ∧ (planDelta g s.ownRank m).isSome = true ∧ own ∉ s.net.failed
    let wait : Nat := if dest < 64 then 200000000 else 1000000000
    (x.link = .fenced ∨ s.macExists m = false → exec (.portFailure m why) s = .next s.hubSettle)
    ∧ (x.link ≠ .fenced → s.macExists m = true → ∃ t, exec (.portFailure m why) s = .next t ∧ (t.mac m).link = .fenced
        ∧ (t.mac m).peck = none ∧ Counted s t m 46 ∧ CauseCounted s t m why ∧ t.dies = s.dies ∧ (x.peck = none → t.tuns = s.tuns)
        ∧ (delta → t.net.deltasDue = s.net.deltasDue ++ [(own, effectiveTime s.net.ptp.began s.nowPs)])
        ∧ (¬ delta → t.net.deltasDue = s.net.deltasDue)
        ∧ ∀ v, (t.tun v).segs = (s.tun v).segs ∧ (t.tun v).perms = (s.tun v).perms ∧ (t.tun v).rack = (s.tun v).rack)
    ∧ (s.macUp m = false → exec (.portDown m rank failed ps) s = .next s)
    ∧ (s.macUp m = true → ∃ t, exec (.portDown m rank failed ps) s = .next t ∧ Counted s t m 23 ∧ t.tuns = s.tuns
        ∧ t.net.deltasDue = if s.net.failed.contains k || s.net.deltasDue.any (fun p => p.1 == k) then s.net.deltasDue
            else s.net.deltasDue ++ [(k, ps)])
    ∧ (s.net.deltasDue.find? (fun p => p.1 == k) = none → exec (.failoverDeltaApply rank failed) s = .next s)
    ∧ (∀ p, s.net.deltasDue.find? (fun p => p.1 == k) = some p → ∃ t, exec (.failoverDeltaApply rank failed) s = .next t
        ∧ t.nowPs = max s.nowPs p.2 ∧ k ∈ t.net.failed ∧ (∀ q ∈ t.net.deltasDue, q.1 ≠ k)
        ∧ (rank.val = s.ownRank → (t.mac failed).failedOver = true ∧ ∀ v, (∀ y ∈ (t.tun v).segs, y.mac ≠ some failed.val)
            ∧ (∀ y ∈ (t.tun v).perms, y.mac ≠ some failed.val) ∧ ∀ y ∈ (t.tun v).rack.segs, y.mac ≠ some failed.val)
        ∧ (rank.val ≠ s.ownRank → t.tuns = s.tuns ∧ t.net.macs = s.net.macs))
    ∧ (∀ y at', a.segs.find? (fun y => y.role == .out dest && (y.mac == some m.val && y.sentAt.isSome && y.seq == seq)) = some y →
        y.sentAt = some at' → ∃ t, exec (.segmentResendTimeout m u dest 0 seq) s = .next t ∧ TimedOut s t m
          ∧ t.nowPs = max s.nowPs (at' + wait)
          ∧ (t.tun u).segs = a.segs.map (fun z => if z = y then { z with mac := none, sentAt := none, out := 0, resent := true } else z)
          ∧ (t.tun u).coll.resends = a.coll.resends + 1)
    ∧ (∀ y at', a.rack.segs.find? (fun y => a.endpoint y == some (dest - 64) && (y.mac == some m.val && y.sentAt.isSome && y.seq == seq)) = some y →
        y.sentAt = some at' → ∃ t, exec (.segmentResendTimeout m u dest 1 seq) s = .next t ∧ TimedOut s t m
          ∧ t.nowPs = max s.nowPs (at' + wait)
          ∧ (t.tun u).rack.segs = a.rack.segs.map (fun z => if z = y then { z with mac := none, sentAt := none, out := 0, resent := true } else z)
          ∧ (t.tun u).rackStat.resends = a.rackStat.resends + 1)
    ∧ (∀ y at', a.perms.find? (fun y => y.rank == dest && (y.mac == some m.val && y.sentAt.isSome && y.seq == seq)) = some y →
        y.sentAt = some at' → ∃ t, exec (.segmentResendTimeout m u dest 3 seq) s = .next t ∧ TimedOut s t m
          ∧ t.nowPs = max s.nowPs (at' + wait)
          ∧ (t.tun u).perms = a.perms.map (fun z => if z = y then { z with mac := none, sentAt := none, out := 0, resent := true } else z)
          ∧ (t.tun u).coll.resends = a.coll.resends + 1)
    ∧ (a.segs = [] → a.rack.segs = [] → a.perms = [] → exec (.segmentResendTimeout m u dest kind seq) s = .next s)
    ∧ (let is (p : Partial) : Bool := p.src == rank.val && p.kind == kind.val && p.seq == seq
      (a.partials.find? is = none → exec (.segmentPartialDrop m u rank kind seq) s = .next s)
      ∧ (∀ p, a.partials.find? is = some p → ∃ t, exec (.segmentPartialDrop m u rank kind seq) s = .next t
          ∧ t.tun u = { a with partials := a.partials.filter (· != p) } ∧ Counted s t m 27
          ∧ t.nowPs = max s.nowPs (p.since + 2048000000)))

/-- A MAC that may shed lanes now (R307): its record allows it, its hello exchange has shown an H8, it is up, and no peck is
being sent. -/
def Sys2Proof.Claims.MayShed (s : State) (m : MacId) (lanes : Nat) : Prop :=
  portShed (s.port m) = true ∧ (s.mac m).helloOk = true ∧ (s.mac m).link = .up ∧ (s.mac m).peck = none
    ∧ lanes ≤ portLanes (s.port m) ∧ lanes ≠ 0

/-- An idle stretch of the bushel begins at a unit: the unit before it is a peck's, or no peck is on the link (R307). -/
def Sys2Proof.Claims.StretchAt (s : State) (m : MacId) (unit : Fin 256) : Prop :=
  s.stretchUs m unit ≠ 0 ∧ (s.stretchUs m unit = 1024 ∨ s.unitBusy m ((unit.val + 255) % 256) = true)

/-- Widths and hellos (R305, R307, R311). The start of an idle stretch, of 64 µs or more, takes lanes from a MAC that may shed them, counted;
a wake, 20 µs ahead, and the far end's message set its width, a return to full width ending the shedding; any other MAC stays as it is. A
changed width is 12 µs of realignment. A port that was down comes up at its width. On an open port whose clock is not LOCKED a loaded tun's
hello carries its key number: a sealed tun's waits for its control frame, and a pooled one leaves where nothing holds it. -/
def Obligations.WidthsAndHellos : Prop :=
  ∀ (s : State) (m : MacId) (u : TunId) (unit : Fin 256) (lanes : Fin 9),
    let x := s.mac m
    let n := shedLanes (s.port m) (s.stretchUs m unit)
    let full := portLanes (s.port m)
    let key := s.keyNumber m u
    (s.macUp m = false ∨ ¬ StretchAt s m unit ∨ x.lanes ≤ n → exec (.shedStretchStart m unit) s = .next s)
    ∧ (s.macUp m = true → StretchAt s m unit → n < x.lanes → MayShed s m n → ∃ t, exec (.shedStretchStart m unit) s = .next t
        ∧ (t.mac m).lanes = n ∧ (t.mac m).shed = true ∧ Counted s t m 52 ∧ t.tuns = s.tuns
        ∧ t.nowPs = max s.nowPs (s.net.ptp.began + 4000000 * unit.val) ∧ (t.mac m).realign = (t.nowPs, t.nowPs + 12000000))
    ∧ (¬ MayShed s m full ∨ x.lanes = full → exec (.laneWake m) s = .next s)
    ∧ (MayShed s m full → x.lanes < full → ∃ t, exec (.laneWake m) s = .next t ∧ (t.mac m).lanes = full ∧ (t.mac m).shed = false
        ∧ t.tuns = s.tuns ∧ (t.mac m).realign = (s.nowPs + 20000000, s.nowPs + 32000000))
    ∧ (s.macUp m = false → exec (.widthChange m lanes) s = .next s)
    ∧ (s.macUp m = true → ∃ t, exec (.widthChange m lanes) s = .next t ∧ Counted s t m 23
        ∧ (MayShed s m lanes → (t.mac m).lanes = lanes) ∧ (¬ MayShed s m lanes → (t.mac m).lanes = x.lanes))
    ∧ (s.macExists m = true → x.link = .down ∨ x.link = .training → s.pwr.state ≠ .off → s.pwr.state ≠ .deepIdle →
        exec (.portLinkUp m lanes) s = .next (s.setMac m { x with link := .up, lanes := lanes, shed := false }))
    ∧ (s.macExists m = false ∨ x.link = .up ∨ x.link = .fenced ∨ s.pwr.state = .off ∨ s.pwr.state = .deepIdle →
        exec (.portLinkUp m lanes) s = .next s)
    ∧ (s.macUp m = true → s.openPort m = true → s.net.ptp.state ≠ .locked → (s.tun u).loaded = true →
        ∃ t, exec (.helloSend m u) s = .next t ∧ (t.mac m).helloSent.find u = some key ∧ t.tuns = s.tuns
          ∧ (tlSealed (s.lay u) = true → (u.val, CtlMsg.hello key) ∈ (t.mac m).ctl)
          ∧ (tlSealed (s.lay u) = false → x.ctl = [] → s.txHeld m s.ctlPriority = false → s.shaped m (s.frameLen m u 16) = true →
              Counted s t m 34 ∧ (t.mac m).ctl = []))
    ∧ (s.macUp m = false ∨ s.openPort m = false ∨ s.net.ptp.state = .locked ∨ (s.tun u).loaded = false →
        exec (.helloSend m u) s = .next s)


/-! ### Racking and casks -/

/-- A racking segment's header, payload and place. -/
def Sys2Proof.Claims.shape (x : RackSeg) : BitVec 512 × Bytes × RackPlace := (x.header, x.payload, x.place)

/-- Racking and casks leave HD (R259 to R270, R272, R274). An idle coder's open segment is closed, coded, numbered, sealed and
handed over, to the place that the slots, the die's buffer and the spill limit leave for it, one in the buffer counted. Waiting
segments keep their order; where the slots and the spill limit suffice for the buffered ones they are taken into slots. The
commit segment of the oldest driven step is sent once its segments are durable and a slot is free, behind what waits. A die's cask
read sends the commit of a piece whose data is acknowledged, else the end of an evaluation cask whose objects are durable, else
the next 65,472 bytes of a piece; it waits for a slot and behind every segment that waits. -/
def Obligations.RackingAndCasksLeave : Prop :=
  ∀ (s : State) (d : DieId) (u : TunId),
    let a := s.tun u
    let k := s.coder d u
    let quota := tlRackSlots (s.lay u)
    let shapes (t : State) := (t.tun u).rack.segs.map shape
    (k.isOpen = false ∨ s.coderFree d u 65472 = false ∨ s.pwr.state = .stopped → exec (.rackingCoderIdleClose d u) s = .next s)
    ∧ (k.isOpen = true → s.coderFree d u 65472 = true → s.pwr.state ≠ .stopped →
        ∃ t, exec (.rackingCoderIdleClose d u) s = .next t ∧ SameBytes s t ∧
        let e := Tbl.get 0 (s.upd d u).table k.entry
        let f : RkFields := { type := 1, tun := u, rank := a.rank, die := d, vblk := utKind e != 0, emb := utKind e == 2,
                              step := a.stepNow, attempt := a.step.attempt, seq := k.seqData, tensor := utTensor e,
                              first := k.first, count := k.count }
        let x := sealSegment a.rackKey f (if k.payload.all (· == 0) then [] else rackCode k.payload)
        let place := s.rackPlace d u x.payload.length
        t.coder d u = { k with isOpen := false, payload := [], count := 0, seqData := k.seqData + 1 }
        ∧ shapes t = shapes s ++ [(x.header, x.payload, place)]
        ∧ (t.tun u).rackStat.spilled = a.rackStat.spilled + (if place = .buffer d then 1 else 0))
    ∧ (∃ t, exec (.rackingBufferTake d u) s = .next t ∧ (∀ n, (t.die n).mem = (s.die n).mem) ∧ t.cellar = s.cellar
        ∧ (t.tun u).rack.segs.map (fun x => (x.header, x.payload)) = a.rack.segs.map (fun x => (x.header, x.payload))
        ∧ ((∀ x ∈ a.rack.segs, x.place = .slot) → shapes t = shapes s)
        ∧ ((∀ x ∈ a.rack.segs, x.place = .slot ∨ x.place = .buffer d) → (a.buffered d).length ≤ quota - a.slotsHeld →
            ((a.buffered d).map fun x => readTraffic x.payload.length).sum ≤ s.spillRoom d u →
            shapes t = a.rack.segs.map fun x => (x.header, x.payload, .slot)))
    ∧ (∃ t, exec (.commitSegmentSend u) s = .next t ∧ t.dies = s.dies ∧ t.cellar = s.cellar
        ∧ (a.rack.pending = [] → shapes t = shapes s)
        ∧ (∀ step att rest, a.rack.pending = (step, att) :: rest →
            let x := sealSegment a.rackKey { type := 6, tun := u, rank := a.rank, step := step, attempt := att }
              (bytesOfNat 768 (Tbl.get 0 a.rack.commits step).toNat)
            (a.stepDurable step = false ∨ quota ≤ a.slotsHeld → shapes t = shapes s ∧ (t.tun u).rack.pending = a.rack.pending)
            ∧ (a.stepDurable step = true → a.slotsHeld < quota →
                shapes t = shapes s ++ [(x.header, x.payload, if a.rack.segs.any (fun y => y.place != .slot) then .hub else .slot)]
                ∧ (t.tun u).rack.pending = rest ∧ (t.tun u).rack.commitSent = step :: a.rack.commitSent)))
    ∧ (let mine := a.rack.pieces.filter fun p => p.die == d.val
      let waits := quota ≤ a.slotsHeld ∨ ∃ x ∈ a.rack.segs, x.place ≠ .slot
      let whole (p : CaskPiece) : Bytes := p.snapshot.getD (s.piecePayload d u ((p.base + 1) % 2) p)
      let of' (p : CaskPiece) (type : Nat) : RkFields := { type := type, tun := u, rank := a.rank, die := d, step := p.base,
                                                           attempt := p.attempt, seq := p.piece, tensor := utTensor p.ut }
      let commits := mine.find? fun p => p.done && p.unacked == 0
      let ends := a.rack.evals.find? fun c => c.die == d.val && a.evalDurable c
      (waits → exec (.caskPieceRead d u) s = .next s)
      ∧ (¬ waits → s.evalTarget u = none → ∃ t, exec (.caskPieceRead d u) s = .next t ∧ t.dies = s.dies ∧ t.cellar = s.cellar
          ∧ (∀ p, commits = some p →
              let x := sealSegment (a.pieceKey p) (of' p 9) (bytesOfNat 128 (s.pieceDescriptor u p))
              shapes t = shapes s ++ [shape x] ∧ (t.tun u).rack.pieces = a.rack.pieces.filter (· != p))
          ∧ (∀ c, commits = none → ends = some c →
              let f : RkFields := { type := 11, tun := u, rank := a.rank, die := d, step := c.base, attempt := c.attempt,
                                    seq := c.digests.length }
              shapes t = shapes s ++ [shape (sealSegment a.evalKey f (sha3_512 (c.digests.flatMap Prod.snd)))]
              ∧ (t.tun u).rack.evals = a.rack.evals.filter (· != c))
          ∧ (∀ p, commits = none → ends = none → mine.find? (fun p => !p.done) = some p →
              let part := ((whole p).drop p.sent).take 65472
              let x := sealSegment (a.pieceKey p) { of' p (if p.evaluation then 10 else 8) with first := p.sent } part
              shapes t = shapes s ++ [shape x]
              ∧ ∃ q ∈ (t.tun u).rack.pieces, q.sent = p.sent + part.length ∧ q.cipher = p.cipher ++ x.payload
                  ∧ q.unacked = p.unacked + 1 ∧ q.done = decide ((whole p).length ≤ p.sent + part.length) ∧ q.piece = p.piece)))


/-! ### Ethernet, the clock and the gauge -/

/-- The counter of a frame that no unit of the device takes (R285, R286), its FCS good or not; none where a unit takes it. -/
def Sys2Proof.Claims.discardedIn (s : State) (m : MacId) (f : Bytes) (good : Bool) : Option Nat :=
  if f.length < 64 then some 13
  else if 9216 < f.length then some (if good then 14 else 15)
  else if good = false then some 16
  else if f.take 6 = List.replicate 6 0xFF then some 3
  else if f.take 6 ≠ s.macAddr m ∧ groupDa (f.take 6) = false then some 17
  else if s.knownType (etherType f) then none
  else some 18

/-- Frames and pauses at a MAC (R284 to R287, R305, R310, R311). A discarded frame is counted by what is wrong with it, a faulty
MACsec frame of a protected tun likewise, but for one whose SCI and association number are known; a PAUSE holds every priority for its quanta, 0 quanta release them, a PFC frame
holds those it names; a pause runs out at its end; an LLDP neighbour is kept, and a running device's port sends its own LLDPDU, a second after the last at the
earliest, unless a pause or a realignment holds it; writing a half-range flag's bit clears it. No die changes, and no tun does, but for what a pause keeps from leaving in a peck. -/
def Obligations.FramesAndPauses : Prop :=
  ∀ (s : State) (m : MacId) (u : TunId) (f : Bytes) (good : Bool) (why : SecFault) (n : Nat) (q : BitVec 16) (w : BitVec 56),
    let x := s.mac m
    let until' := s.nowPs + q.toNat * quantumPs (s.port m)
    let still (t : State) : Prop := t.tuns = s.tuns ∧ t.dies = s.dies
    let quiet (t : State) : Prop := t.dies = s.dies ∧ (x.peck = none → t.tuns = s.tuns)
    (s.macUp m = false ∨ discardedIn s m f good = none → exec (.rxFrameDiscard m f good) s = .next s)
    ∧ (∀ i, s.macUp m = true → discardedIn s m f good = some i →
        ∃ t, exec (.rxFrameDiscard m f good) s = .next t ∧ Counted s t m i ∧ still t)
    ∧ (let faulty := match why with
          | .sa sci an => s.saKnown m u sci an = false
          | _ => True
      let counts := s.macUp m = true ∧ (s.tun u).loaded = true ∧ (s.tun u).job.macsec = true ∧ faulty
      (¬ counts → exec (.macsecFrameDiscard m u why n) s = .next s)
      ∧ (counts → ∃ t, exec (.macsecFrameDiscard m u why n) s = .next t ∧ still t ∧ Counted s t m 0
          ∧ Counted s t m (match why with | .icv => 28 | .replay => 29 | .sa _ _ => 30 | .untagged => 31)))
    ∧ (s.macUp m = true → q ≠ 0 → ∃ t, exec (.pause m q) s = .next t ∧ quiet t ∧ Counted s t m 19
        ∧ ∀ p < 8, Tbl.get 0 (t.mac m).paused p = until')
    ∧ (∀ p e, s.macUp m = true → x.paused = [(p, e)] → p < 8 → ∃ t, exec (.pause m 0) s = .next t ∧ quiet t ∧ (t.mac m).paused = [])
    ∧ (∀ p < 8, s.macUp m = true → q ≠ 0 → x.paused = [] → ∃ t, exec (.pfc m [(p, q)]) s = .next t ∧ quiet t ∧ Counted s t m 20
        ∧ (t.mac m).paused = [(p, until')])
    ∧ (s.macUp m = false → exec (.pause m q) s = .next s ∧ exec (.pfc m [(0, q)]) s = .next s)
    ∧ (x.paused = [] → exec (.pauseExpiry m) s = .next s)
    ∧ (x.paused ≠ [] → ∃ t, exec (.pauseExpiry m) s = .next t ∧ still t ∧ (∀ p ∈ x.paused, p.2 ≤ t.nowPs ∨ p ∈ (t.mac m).paused)
        ∧ (∃ p ∈ x.paused, t.nowPs = max s.nowPs p.2) ∧ ∀ p ∈ (t.mac m).paused, t.nowPs < p.2 ∧ p ∈ x.paused)
    ∧ (s.macUp m = true → ∃ t, exec (.lldpReceive m f f) s = .next t ∧ still t ∧ (t.mac m).neighbour = (f, f) ∧ Counted s t m 22)
    ∧ (s.macUp m = false ∨ s.pwr.state ≠ .run → exec (.lldpTransmit m) s = .next s)
    ∧ (s.macUp m = true → s.pwr.state = .run →
        let now := max s.nowPs x.lldpDue
        let r : State := { s with nowPs := now }
        (r.txHeld m 0 = true → exec (.lldpTransmit m) s = .next r)
        ∧ (r.txHeld m 0 = false → ∃ t, exec (.lldpTransmit m) s = .next t ∧ still t ∧ Counted s t m 38 ∧ Counted s t m 32
            ∧ (t.mac m).lldp = s.lldpFrame m ∧ (t.mac m).lldpDue = now + 10 ^ 12))
    ∧ exec (.macHalfClear m w) s = .next (s.setMac m { x with half := x.half &&& ~~~w })

/-- What an offset estimate does to the clock (R289): 16 in a row within 20 ns lock it, 4 in a row beyond 25 ns take a LOCKED
clock to HOLDOVER; it stays where it is otherwise. -/
def Sys2Proof.Claims.Steered (p q : Ptp) (now : Nat) (offset : Int) : Prop :=
  let locks := offset.natAbs ≤ 20 ∧ 15 ≤ p.good
  let loses := 25 < offset.natAbs ∧ 3 ≤ p.bad
  q.offset = offset ∧ q.port = p.port ∧ q.best = p.best ∧ q.delay = p.delay ∧ q.holdoverMs = p.holdoverMs ∧ q.bushel = p.bushel ∧ q.began = p.began
    ∧ (p.state = .free → q.state = .free)
    ∧ (p.state = .acquiring ∨ p.state = .holdover → q.state = if locks then .locked else p.state)
    ∧ (p.state = .locked → q.state = if loses then .holdover else .locked)
    ∧ (p.state = .locked → loses → q.since = now)

/-- The PTP clock and its pins (R288 to R290, R297, R419). PTP messages are heard on the ports that carry PTP, counted, and those of another
domain have no other effect. A Sync of the selected port steers the clock, or, of two steps, its Follow_Up does; an announced data set
that is better than the device's own and than the one in force is taken, a transmitter newly selected taking the clock to ACQUIRING, but
a clock in HOLDOVER staying there; delays are kept; with no Sync the row of good intervals ends and a LOCKED clock goes to HOLDOVER, whose
end makes it FREE; a powered device in service writes the holdover limit up to 10,000 ms, notes an edge of PPS_IN and pulses PPS_OUT
unless its clock is FREE. -/
def Obligations.ClockKept : Prop :=
  ∀ (s : State) (m : MacId) (dom : BitVec 8) (o : Int) (dl ns : Nat) (ms : BitVec 16) (p1 k ac va p2 st : Nat) (id : BitVec 64),
    let p := s.net.ptp
    let hears := s.macUp m = true ∧ m.val ∈ s.ptpPorts
    let own := dom.toNat = s.net.ptpDomain
    let ds := [p1, k, ac, va, p2, id.toNat, st]
    let msgs := [Instr.ptpSync m dom false o, .ptpSync m dom true o, .ptpFollowUp m dom o, .ptpDelayResponse m dom dl,
      .ptpPeerDelay m dom dl, .ptpAnnounce m dom p1 k ac va p2 id st]
    (¬ hears → ∀ c ∈ msgs, exec c s = .next s)
    ∧ (hears → ∀ c ∈ msgs, ∃ t, exec c s = .next t ∧ Counted s t m 21 ∧ (¬ own → t.net.ptp = p ∧ t.tuns = s.tuns) ∧ t.dies = s.dies)
    ∧ (hears → own →
        (∃ t, exec (.ptpSync m dom false o) s = .next t ∧ Counted s t m 55
          ∧ (p.best.isSome = true → p.port = m → Steered p t.net.ptp s.nowPs o)
          ∧ (p.best = none ∨ p.port ≠ m → t.net.ptp = p))
        ∧ (∃ t, exec (.ptpSync m dom true o) s = .next t ∧ (p.best.isSome = true → p.port = m → t.net.ptp = { p with awaitFollow := true }))
        ∧ (∃ t, exec (.ptpFollowUp m dom o) s = .next t ∧ (p.awaitFollow = true → p.port = m → Steered p t.net.ptp s.nowPs o)
          ∧ (p.awaitFollow = false ∨ p.port ≠ m → t.net.ptp = p))
        ∧ (∃ t, exec (.ptpAnnounce m dom p1 k ac va p2 id st) s = .next t ∧
          let q := t.net.ptp
          let taken := q.best = some ds ∧ q.port = m ∧ q.state = if p.state = .holdover then .holdover else .acquiring
          (dataSetLt s.net.ptpOwn ds = true → q = p)
          ∧ (dataSetLt s.net.ptpOwn ds = false → (p.best = none → taken)
              ∧ ∀ b, p.best = some b → (p.port ≠ m → dataSetLt ds b = true → taken) ∧ (p.port ≠ m → dataSetLt ds b = false → q = p)
                  ∧ (p.port = m → q = { p with best := some ds })))
        ∧ (∀ c, c = .ptpDelayResponse m dom dl ∨ c = .ptpPeerDelay m dom dl → ∃ t, exec c s = .next t
          ∧ t.net.ptp = (if p.port = m then { p with delay := dl } else p)))
    ∧ exec .ptpSyncLoss s = .next (s.setPtp (if p.state = .locked then { p with state := .holdover, since := s.nowPs, good := 0 }
        else { p with good := 0 }))
    ∧ (p.state ≠ .holdover → exec .holdoverExpiry s = .next s)
    ∧ (p.state = .holdover → ∃ t, exec .holdoverExpiry s = .next t ∧ t.net.ptp = { p with state := .free, best := none, good := 0, bad := 0 }
        ∧ t.nowPs = max s.nowPs (p.since + p.holdoverMs * 10 ^ 9) ∧ t.dies = s.dies)
    ∧ exec (.bmcWriteHoldover ms) s = .next (if s.serviced = true ∧ ms.toNat ≤ 10000 then s.setPtp { p with holdoverMs := ms.toNat } else s)
    ∧ (s.powered = true → exec (.ppsInEdge ns) s = .next { s with pins := { s.pins with ppsIn := ns } })
    ∧ (s.powered = true → exec (.ppsOutPulse ns) s = .next (if p.state = .free then s
        else s.setPtp { p with lastPps := ns / 10 ^ 9, ppsPulses := p.ppsPulses + 1 }))

/-- When the last frame of a MAC's peck ends, with the frames that have become ready before its target, or its target, where that is
later (R294). -/
def Sys2Proof.Claims.peckStops (s : State) (m : MacId) (k : Peck) : Nat :=
  max k.target (((((s.fillPeck m k.target).mac m).peck.getD k).run.head?.map Sent.stop).getD 0)

/-- Pecks, sealed control frames, plans and waking (R292 to R298, R306, R308, R397). A peck begins on a MAC that is up, a pooled tun's even
where the tun is not loaded, with its target its window's end less the tun's debt, which is repaid by as much; its last frame's overrun
past the target becomes debt, counted in ns with what was left over; a sealed tun has none. A sealed tun's control frame is due every
16 µs and takes what waits to be told as far as it has room; one with nothing to tell is padding, and a hold keeps it back. A plan is
staged or refused. In deep idle a matching frame on a port that keeps watch wakes the device, counted. -/
def Obligations.PecksPlansAndWaking : Prop :=
  ∀ (s : State) (m : MacId) (u : TunId) (i : Fin 256) (f : Bytes) (plan : GaugePlan),
    let x := s.mac m
    let fixed (v : Nat) := tlSealed (s.lay v) = true
    (∀ k, (s.pecksOf m).find? (fun p => p.1 == i.val) = some (i.val, k) → pkKind k < 2 → s.pwr.state = .run → x.link = .up →
        x.peck = none → (fixed (pkTun k) → (s.tun (pkTun k)).loaded = true ∧ s.timeLost m = false) →
        ∃ t, exec (.peckStart m i) s = .next t ∧
          let debt := if tlSealed (s.lay (pkTun k)) then 0 else Tbl.get 0 x.debts (pkTun k)
          let stop := s.nowPs + pkLen k * 4000000 - 100000
          let target := max s.nowPs (stop - debt)
          (∃ q, (t.mac m).peck = some q ∧ q.idx = i ∧ q.tun = pkTun k ∧ q.start = s.nowPs ∧ q.target = target ∧ q.stop = stop
            ∧ q.kind = pkKind k ∧ q.ep = pkEnd m k)
          ∧ (t.mac m).debts = (if tlSealed (s.lay (pkTun k)) then x.debts else x.debts.put (pkTun k) (debt - (stop - target)))
          ∧ t.dies = s.dies ∧ t.cellar = s.cellar)
    ∧ ((s.pecksOf m).find? (fun p => p.1 == i.val) = none ∨ x.link ≠ .up ∨ x.peck.isSome = true ∨ s.pwr.state ≠ .run →
        exec (.peckStart m i) s = .next s)
    ∧ (x.peck = none → exec (.peckLastFrameEnd m) s = .next s.hubSettle)
    ∧ (∀ k, x.peck = some k → ∃ t, exec (.peckLastFrameEnd m) s = .next t ∧ (t.mac m).peck = none ∧
        let last := peckStops s m k
        t.nowPs = max s.nowPs last
        ∧ (t.mac m).debts = (if tlSealed (s.lay k.tun) then x.debts else x.debts.put k.tun (Tbl.get 0 x.debts k.tun + (last - k.target)))
        ∧ Tbl.get 0 (t.mac m).counters 49 = Tbl.get 0 x.counters 49 + BitVec.ofNat 32 ((x.overRem + (last - k.target)) / 1000)
        ∧ t.dies = s.dies ∧ t.cellar = s.cellar)
    ∧ (let due := (s.tun u).loaded = true ∧ fixed u ∧ s.canSend m = true ∧ s.usesMac m u = true ∧ s.timeLost m = false
      let now := max s.nowPs (Tbl.get 0 x.controlDue u)
      let r : State := { s with nowPs := now }
      let a := (s.tun u).returnCredits
      let mine := (x.ctl.filter fun p => p.1 == u.val).map Prod.snd
      let took := (packControls (640 - s.frameOver m u) (mine ++ a.ctlOut)).1
      (¬ due → exec (.sealedControlFrame m u) s = .next s)
      ∧ (due → r.txHeld m s.ctlPriority = true → exec (.sealedControlFrame m u) s = .next r)
      ∧ (due → r.txHeld m s.ctlPriority = false → ∃ t, exec (.sealedControlFrame m u) s = .next t ∧ Counted s t m 34
          ∧ (took = [] → Counted s t m 35) ∧ t.nowPs = now ∧ Tbl.get 0 (t.mac m).controlDue u = now + 16000000
          ∧ t.tun u = { a with ctlOut := a.ctlOut.drop (took.length - mine.length) }))
    ∧ (planRefusal plan s.clusterRank s.net.ptp.bushel false = none → exec (.gaugeTap plan) s =
        .next { s with net := { s.net with gaugeNext := some plan } })
    ∧ (∀ r, planRefusal plan s.clusterRank s.net.ptp.bushel false = some r → ∃ t, exec (.gaugeTap plan) s = .next t ∧ t.net = s.net ∧ t.tuns = s.tuns)
    ∧ (let wakes := s.pwr.state = .deepIdle ∧ m.val / 4 ∈ s.wakeGroups ∧ s.macExists m = true ∧ x.link = .up
        ∧ ∃ w ∈ s.net.wakes, wakeMatches w.2 (m.val / 4) f = true
      (¬ wakes → exec (.wakePatternMatch m f) s = .next s)
      ∧ (wakes → ∃ t, exec (.wakePatternMatch m f) s = .next t ∧ t.pwr.state = .run ∧ t.tuns = s.tuns ∧ Counted s t m 54))


/-! ### The host interface -/

/-- The hub's registers and the link (R335, R336, R349). HUB_TAP_BASE and HUB_TAP_ON are written while no tun holds a job,
and the write is dropped and counted while one does; HUB_STOP_ALL stops every loaded tun with its bung as it was; a link
reset takes the port down alone, with its MSI-X table; a link that is up again, at a width, a rate and a mode of IDE, changes no tap whose
generation has been seen. In the status
window a MAC's half-range flags are cleared by ones, any other write is dropped and counted, and an offset past its end is
no address of the device. -/
def Obligations.HubRegisters : Prop :=
  ∀ (s : State) (v : BitVec 64) (on : Bool) (off : Nat) (n : Fin 9) (m : MacId) (table : Tbl (BitVec 1024)) (width : CxlWidth)
    (half skid : Bool),
    let dropped : State := { s with host := { s.host with writesDropped := s.host.writesDropped + 1 } }
    let jobs := ∃ p ∈ s.tuns, p.2.loaded = true
    (jobs → exec (.hubTapBaseWrite v) s = .next dropped ∧ exec (.hubTapOnWrite on) s = .next dropped)
    ∧ (¬ jobs → exec (.hubTapBaseWrite v) s = .next { s with host := { s.host with tapBase := v } }
        ∧ exec (.hubTapOnWrite on) s = .next { s with host := { s.host with tapOn := on } })
    ∧ exec (.hubStopAll false) s = .next s
    ∧ (∃ t, exec (.hubStopAll true) s = .next t ∧ t.host.stopAllAt = some s.nowPs ∧ SameBytes s t
        ∧ ∀ u < 32, (s.tun u).loaded = true → (t.tun u).stopped = true ∧ (t.tun u).bung = (s.tun u).bung
            ∧ ∀ d ∈ s.diesOf u, (t.ctx d u).stopped = true)
    ∧ exec .cxlLinkReset s = .next { s with host := { s.host with linkUp := false, width := 0, rate := 0, ideSkid := false, msix := [] } }
    ∧ (∃ t, exec (.cxlLinkUp table width half skid) s = .next t ∧ t.host.linkUp = true ∧ t.host.ideSkid = skid
        ∧ t.host.width = (match width with | .x2 => 2 | .x4 => 4 | .x8 => 8) ∧ t.host.rate = (if half then 32 else 64)
        ∧ ((∀ p ∈ table, tapGen p.2 = (Tbl.get {} s.host.taps p.1).seen) → t.host.taps = s.host.taps))
    ∧ (0x400000 ≤ off → exec (.statusWindowWrite off v n) s = .fault (.outsideWindow off))
    ∧ (off < 0x1000 ∨ (0x5000 ≤ off ∧ off < 0x400000) → exec (.statusWindowWrite off v n) s = .next dropped)
    ∧ (n ≠ 0 → exec (.statusWindowWrite (0x1000 + 0x100 * m.val + 0xE8) v n) s =
        .next (s.setMac m { s.mac m with half := (s.mac m).half &&& ~~~(BitVec.ofNat 56 (v.toNat % 2 ^ (8 * n.val))) }))

/-- A check of a tap (R337 to R340). Nothing happens while taps are off, the link is down, the device is not running, or the
entry's generation has been seen; an entry whose CRC does not match is torn; a legal one is taken; an illegal one is
refused, counted, and its generation seen. A doorbell checks likewise, and wakes the device from deep idle; an entry torn
for 1 ms is refused; an index that the host moves on is the entry's.
What a tun's taps bring and take (R177, R194, R238, R249, R265, R270, R274, R336, R341 to R343, R351). Input records stand for
their step and attempt, and the ring's index goes on; each committed step has its output record, posted in order once the step's granary
writes are over; taps, sets, maps and packages that keep their rules and are the tun's are staged for a step start, and others are refused,
counted; an increase of EV_REQ requests one evaluation cask; the closed status is written once its interval is over. A write to a ring
that finds the link down is an error of the CXL port, counted. -/
def Obligations.TapsAndRecords : Prop :=
  (∀ (s : State) (k : Fin 1024) (e : BitVec 1024) (area : Fin 2) (idx : BitVec 64),
      let y := Tbl.get ({} : Tap) s.host.taps k
      let after (t : State) : Tap := Tbl.get {} t.host.taps k
      let seen := ¬ (s.host.tapOn = true ∧ s.host.linkUp = true ∧ s.host.winState = .running ∧ tapGen e ≠ y.seen)
      let sound := crc32 (bytesOfNat 120 e.toNat) = BitVec.ofNat 32 (field e 992 32)
      let moves := s.host.tapOn = true ∧ s.host.linkUp = true ∧ tapEn y.entry = true ∧ areaHostIdx y.entry area < idx.toNat
      (seen → exec (.tapSnoop k e) s = .next s)
      ∧ (¬ seen → ¬ sound → exec (.tapSnoop k e) s = .next (s.setTap k { y with torn := true }))
      ∧ (¬ seen → sound → s.tapLegal k e = true → ∃ t, exec (.tapSnoop k e) s = .next t ∧ after t = { seen := tapGen e, entry := e }
          ∧ t.dies = s.dies ∧ t.cellar = s.cellar
          ∧ (k.val = 1 → t.host.events.hostIdx = max s.host.events.hostIdx (min (areaHostIdx e 0) s.host.events.devIdx)))
      ∧ (¬ seen → sound → s.tapLegal k e = false → ∃ t, exec (.tapSnoop k e) s = .next t ∧ after t = { y with seen := tapGen e, torn := false }
          ∧ t.host.tapRefused = s.host.tapRefused + 1 ∧ t.dies = s.dies)
      ∧ (s.pwr.state ≠ .deepIdle → exec (.hubDoorbell k e) s = exec (.tapSnoop k e) s)
      ∧ (s.pwr.state = .deepIdle → ∃ t, exec (.hubDoorbell k e) s = .next t ∧ t.pwr.state = .run)
      ∧ (y.torn = false → exec (.tapTornTimeout k) s = .next s)
      ∧ (y.torn = true → ∃ t, exec (.tapTornTimeout k) s = .next t ∧ after t = { y with torn := false }
          ∧ t.host.tapRefused = s.host.tapRefused + 1 ∧ t.dies = s.dies)
      ∧ (¬ moves → exec (.ringIndexAdvance k area idx) s = .next s)
      ∧ (moves → ∃ t, exec (.ringIndexAdvance k area idx) s = .next t ∧ areaHostIdx (after t).entry area = idx.toNat
          ∧ (after t).seen = (y.seen + 1) % 2 ^ 32 ∧ t.dies = s.dies ∧ t.cellar = s.cellar))
  ∧ (∀ (s : State) (u : TunId) (e : BitVec 1024) (r : BitVec 512) (map : List (BitVec 256)) (sets : List (BitVec 512)) (pkg : LayoutPackage),
      let a := s.tun u
      let quiet (t : State) : Prop := { t.tun u with events := {} } = { a with events := {} }
      let refused (c : Instr) : Prop := ∃ t, exec c s = .next t ∧ t.host.tapRefused = s.host.tapRefused + 1 ∧ t.dies = s.dies ∧ quiet t
      let mine (k : Nat) : Prop := kindEntry k e = true ∧ tapTun e = u
      let granary := tapKind e = 8 ∧ kindOk e = true ∧ tapTun e = u
      let status := tapKind e = 12 ∧ kindOk e = true ∧ tapTun e = u
      let m := map.take (tapParam e 96 7)
      let cs := (List.range (min 256 sets.length)).zip sets
      let next := a.outputPosted + 1
      let posts := a.loaded = true ∧ next ≤ a.bung.step ∧ s.granaryWrites u next = false
        ∧ ∃ k w, s.tunTap u 3 = some (k, w) ∧ a.outRing.devIdx + 64 ≤ a.outRing.hostIdx + areaSize w 0
      let rules := shardsOk { pkg.job with tensors := a.job.tensors } = true ∧ a.reshard = .no ∧ s.packageMeets u (a.bung.step + 1) pkg = false
      exec (.inputRecord u r) s = .next (if a.inputTap then s.setTun u { a with
          inIdx := a.inIdx + 64, inputs := (a.inputs.filter fun x => decide (a.stepNow ≤ x.1)) ++ [(field r 0 48, field r 48 16)] } else s)
      ∧ (¬ posts → exec (.outputRecord u) s = .next s)
      ∧ (posts → s.host.linkUp = true → exec (.outputRecord u) s = .next (s.setTun u { a with
            outputPosted := next, outputs := next :: a.outputs, outRing := a.outRing.push (BitVec.ofNat 512 (next % 2 ^ 48)) }))
      ∧ (posts → s.host.linkUp = false → ∃ t, exec (.outputRecord u) s = .next t ∧ (t.tun u).outputPosted = a.outputPosted
          ∧ (t.tun u).outRing = a.outRing ∧ (t.tun u).commit.granaryTagFail = a.commit.granaryTagFail + 1)
      ∧ (mine 4 → exec (.rackingTap u e) s = .next (s.setTun u { a with rackTapNext := some e }))
      ∧ (¬ mine 4 → refused (.rackingTap u e))
      ∧ (mine 5 → exec (.caskTap u e) s = .next (s.setTun u { a with caskTapNext := some e }))
      ∧ (¬ mine 5 → refused (.caskTap u e))
      ∧ (mine 6 → a.evReq < tapParam e 72 32 → exec (.evaluationCaskRequest u e) s = .next (s.setTun u { a with
          evalTap := some e, evReq := tapParam e 72 32, rack := { a.rack with evalReq := tapEn e } }))
      ∧ (mine 6 → tapParam e 72 32 ≤ a.evReq → exec (.evaluationCaskRequest u e) s = .next (s.setTun u { a with evalTap := some e }))
      ∧ (¬ mine 6 → refused (.evaluationCaskRequest u e))
      ∧ (granary → mapOverlaps m = false → exec (.granaryMap u e map) s = .next (s.setTun u { a with
          granArea := tapParam e 72 64, granWc := (tapParam e 80 64, tapParam e 88 64), granMapNext := some m }))
      ∧ (¬ granary ∨ mapOverlaps m = true → refused (.granaryMap u e map))
      ∧ (coefsOk a.job a.rank cs = true → sketchesOk a.job a.rank cs = true → exec (.coefficientTap u sets) s = .next (s.setTun u { a with coefsNext := some cs }))
      ∧ (coefsOk a.job a.rank cs = false ∨ sketchesOk a.job a.rank cs = false → refused (.coefficientTap u sets))
      ∧ (a.loaded = false → exec (.layoutTap u pkg) s = .next s)
      ∧ (a.loaded = true → pkg.sigOk = true → rules → exec (.layoutTap u pkg) s = .next (s.setTun u { a with package := some pkg }))
      ∧ (a.loaded = true → pkg.sigOk = false ∨ ¬ rules → ∃ t, exec (.layoutTap u pkg) s = .next t ∧ quiet t
          ∧ t.sec.sigFail = s.sec.sigFail + if pkg.sigOk then 0 else 1)
      ∧ (status → exec (.statusTap u e) s = .next (s.setTun u { a with statusTap := some e, statusDue := s.net.ptp.bushel + 1 }))
      ∧ (¬ status → refused (.statusTap u e))
      ∧ (tapOn a.statusTap = none → exec (.closedStatusWrite u) s = .next s)
      ∧ (∀ w, tapOn a.statusTap = some w →
          let writes := a.loaded = true ∧ a.job.closedStatus = true ∧ a.ts.isSome = true ∧ a.statusDue ≤ s.net.ptp.bushel
            ∧ a.statusRing.devIdx + 8192 ≤ a.statusRing.hostIdx + areaSize w 0
          (¬ writes → exec (.closedStatusWrite u) s = .next s)
          ∧ (writes → ∃ t, exec (.closedStatusWrite u) s = .next t ∧ (t.tun u).statusDue = s.net.ptp.bushel + tapParam w 72 16
              ∧ (s.host.linkUp = true → (∃ slot, (t.tun u).statusOut = slot :: a.statusOut) ∧ (t.tun u).statusRing.devIdx = a.statusRing.devIdx + 8192)
              ∧ (s.host.linkUp = false → (t.tun u).statusOut = a.statusOut ∧ (t.tun u).statusRing = a.statusRing
                  ∧ (t.tun u).commit.granaryTagFail = a.commit.granaryTagFail + 1))))

/-- What a load command takes (R344, R347): the device running and not tampered with, no HUB_STOP_ALL at the same moment, a
tun of the layout that holds no job, this device in the cluster, and a job that passes its checks, once the gaps of the gauge's deltas
are checked for its rank (R306). -/
def Sys2Proof.Claims.Loads (s : State) (u : TunId) (j : JobImage) (rank : Nat) : Prop :=
  s.pwr.state = .run ∧ s.host.winState = .running ∧ s.sec.tamper = false ∧ s.host.stopAllAt ≠ some s.nowPs
    ∧ (s.tun u).loaded = false ∧ tlEn (s.lay u) = true ∧ s.rankIn u j = some rank
    ∧ (s.checkPlan rank).jobRefusal u ((s.tun u).loadedWith j rank s.random.1 (loadMeasure j)) = none

/-- The commands of a tun's control tap (R29, R33, R185, R201, R212, R255, R341, R344, R347, R367, R374, R384). A load that the tun takes
creates its contexts, at the step-start slice with the image's tokens and tables, none of its tiles open, unkeyed, its bung word that of
step 0; any other is refused, and the tun stays as it was. A stop keeps the bung and the racking; a teardown
leaves no job, no key, no measurement, no byte of the share on a die and no operation of the tun, and what it wrote into cellar under its
key cannot be read again as that. A record that keeps its ranges is staged for the next step start, any other is refused, and so is an
unknown command; where the tun holds no job every one of them is refused. Each command moves the command ring's index on. The status
numbers are the model's (log entries 11 and 41). -/
def Obligations.JobCommands : Prop :=
  (∀ (s : State) (u : TunId) (q : BitVec 32) (j : JobImage),
      let a := s.tun u
      (∀ rank, Loads s u j rank → ∃ t, exec (.loadJob u q j) s = .next t ∧ SameBytes s t ∧
        let b := t.tun u
        b.loaded = true ∧ b.stopped = false ∧ b.job = j ∧ b.rank = rank ∧ b.bung = { step := 0, keg := 1, valid := true }
        ∧ b.ts = none ∧ b.tmr = loadMeasure j ∧ b.cmdIdx = a.cmdIdx + 64
        ∧ ∀ d ∈ s.diesOf u, let c := t.ctx d u
            let im := Tbl.get ({} : DieJob) j.dies d
            c.resident = true ∧ c.pc = im.stepStart ∧ c.tokens = startTokens im ∧ c.windows = im.windows ∧ c.descs = im.descs
            ∧ c.genPos = 2 ^ 40 ∧ c.stats = [] ∧ c.upd.table = jobEntries j rank d
            ∧ ∀ y ∈ (t.die d).tiles, y.tun ≠ u.val)
      ∧ ((¬ ∃ rank, Loads s u j rank) → ∃ t, exec (.loadJob u q j) s = .next t ∧ t.dies = s.dies
          ∧ { t.tun u with events := {} } = { a with events := {}, cmdIdx := a.cmdIdx + 64 }))
  ∧ ∀ (s : State) (u : TunId) (q : BitVec 32) (r : BitVec 512) (i : Fin 16) (n : BitVec 20) (lim : BitVec 16) (op : BitVec 8),
    let a := s.tun u
    let runs (c : Instr) (p : State → Prop) : Prop := ∃ t, exec c s = .next t ∧ (t.tun u).cmdIdx = a.cmdIdx + 64 ∧ p t
    (a.loaded = true → runs (.stopTheTun u q) fun t => (t.tun u).stopped = true ∧ (t.tun u).bung = a.bung
        ∧ (t.tun u).rack = a.rack ∧ SameBytes s t)
    ∧ (a.loaded = true → runs (.tearDown u q) fun t => (t.tun u).loaded = false ∧ (t.tun u).ts = none ∧ (t.tun u).tmr = []
        ∧ (t.tun u).job = {} ∧ (t.tun u).bung = a.bung ∧ t.sec.teardowns = s.sec.teardowns + 1 ∧ t.cellar = s.cellar.forget u (s.cellarKey u)
        ∧ ∀ d ∈ s.diesOf u, let sh := s.share u
            (∀ x ∈ (t.die d).movs, x.tun ≠ u) ∧ (∀ x ∈ (t.die d).tiles, x.tun ≠ u) ∧ (t.ctx d u).resident = false
            ∧ (∀ z, 4096 * sh.spLine0 ≤ z → z < 4096 * (sh.spLine0 + sh.spLines) → (t.die d).mem.read z = 0)
            ∧ ∀ z, 2048 * sh.loftLine0 ≤ z → z < 2048 * (sh.loftLine0 + sh.loftLines) →
                (t.die d).mem.read (2 ^ 32 + z) = 0 ∧ (t.die d).mem.read (2 ^ 32 + 2 ^ 31 + z) = 0)
    ∧ (a.loaded = true → runs (.writeScheduleRecord u q r) fun t => (t.tun u).scheduleNext = some r ∧ (t.tun u).schedule = a.schedule)
    ∧ (a.loaded = true → runs (.writeSilentLimit u q lim) fun t => (t.tun u).silentNext = some lim.toNat ∧ (t.tun u).silent = a.silent)
    ∧ (a.loaded = true → runs (.writeGravityRecord u q r) fun t => (t.tun u).gravityNext = if gravityOk r then some r else a.gravityNext)
    ∧ (a.loaded = true → runs (.writeLoopCountEntry u q i n) fun t =>
        (t.tun u).loopNext = if i.val = 0 then a.loopNext else a.loopNext.put i n.toNat)
    ∧ (a.loaded = true → runs (.writeLimitsRecord u q r) fun t => (t.tun u).limitsNext = if limitsOk r then some r else a.limitsNext)
    ∧ (a.loaded = false → ∀ c, c = .writeScheduleRecord u q r ∨ c = .writeSilentLimit u q lim ∨ c = .writeGravityRecord u q r
        ∨ c = .writeLoopCountEntry u q i n ∨ c = .writeLimitsRecord u q r ∨ c = .tearDown u q ∨ c = .stopTheTun u q →
        exec c s = .next (s.commandDone u q 2))
    ∧ (op.toNat = 0 ∨ 8 < op.toNat → runs (.unknownCommand u q op) fun t => t = s.commandDone u q 28)
    ∧ (1 ≤ op.toNat → op.toNat ≤ 8 → exec (.unknownCommand u q op) s = .next s)

/-- A restore (R277 to R282). It runs only on an increase of RS_GO of an enabled restore tap of the tun, of a tun loaded and keyed that
waits for no records of a re-sharding step. A list that fails a check, or names a job that this device is not in, is refused, counted, and
leaves the bung and every byte, as a job image that fails its checks does; one that passes sets the bung word to the step named, and a
vector entry of one block, the only one this device owns, stands in both kegs. -/
def Obligations.RestoreRuns : Prop :=
  ∀ (s : State) (u : TunId) (e : BitVec 1024) (j : JobImage) (objs : List RestoreObject),
      let mine := kindEntry 7 e = true ∧ tapTun e = u
      let go := tapParam e 80 32
      let goes := mine ∧ tapEn e = true ∧ (s.tun u).rsGo < go
      let r := s.setTun u { s.tun u with rsGo := go }
      let a := r.tun u
      let ready := a.loaded = true ∧ a.ts.isSome = true
      let waits := a.reshard = .moved ∧ a.package.isSome = true
      let T := tapParam e 72 48
      let l := objs.take (tapParam e 84 32)
      let list := readList a.rackKey T l
      let kept (t : State) : Prop := (t.tun u).bung = a.bung ∧ SameBytes s t
      let refused (t : State) : Prop := (t.tun u).rackStat.restoreRefused = a.rackStat.restoreRefused + 1 ∧ kept t
      (¬ mine → ∃ t, exec (.restore u e j objs) s = .next t ∧ t.host.tapRefused = s.host.tapRefused + 1 ∧ t.dies = s.dies)
      ∧ (mine → tapEn e = false ∨ go ≤ (s.tun u).rsGo → exec (.restore u e j objs) s = .next s)
      ∧ (goes → ¬ ready → exec (.restore u e j objs) s = .next r)
      ∧ (goes → ready → ¬ waits → r.rankIn u j = none → ∃ t, exec (.restore u e j objs) s = .next t ∧ refused t)
      ∧ (∀ rank, goes → ready → ¬ waits → r.rankIn u j = some rank →
          let b' := a.reloaded j rank T l
          let img : JobImage := { j with coefs := b'.coefs }
          let own := r.owned u rank img
          ∃ t, exec (.restore u e j objs) s = .next t ∧
            ((r.jobRefusal u b').isSome = true → kept t)
            ∧ (r.jobRefusal u b' = none → (restoreFailure a.rackKey img own l list).isSome = true → refused t)
            ∧ (r.jobRefusal u b' = none → restoreFailure a.rackKey img own l list = none →
              let b := t.tun u
              b.bung = { step := T, keg := (T + 1) % 2, valid := true } ∧ b.restoredTo = T ∧ b.step.attempt = 0 ∧ b.step.outcome = none
              ∧ b.rank = rank ∧ b.ts = a.ts ∧ b.rackStat.restores = a.rackStat.restores + 1
              ∧ (∀ o, own = [o] → utKind o.2.2 ≠ 0 → entryBlocks o.2.2 = 1 →
                  t.cellar = ((r.cellarWrite u o.1 (utKegAddr o.2.2 0) (list.block o.2.2 0)).cellarWrite u o.1 (utKegAddr o.2.2 1)
                    (list.block o.2.2 0)).cellar)))

/-! ### Start, board management, pins -/

/-- A start once S is reconstructed (R350, R357, R358): the flash found, the serial read, unusable images counted, and the failed starts and
the cause of the last one shown. -/
def Sys2Proof.Claims.known (s : State) (f : StartFinds) : State :=
  let bad := ([s.flash.copyA, s.flash.copyB].filter fun (x : FlashCopy) =>
    x.readable && x.whole && !(x.signatureOk && x.endorseOk && x.hubFwOk && x.cdsFwOk)).length
  let h := { s.host with startedPs := s.nowPs, serial := f.serial, fails := s.flash.failCount, cause := s.flash.failedCause }
  { s with flash := { s.flash with octal := true }, host := h,
           sec := { s.sec with sigFail := s.sec.sigFail + bad, seed := some Config.seedS, pufOk := true } }

/-- The state of a start that begins on a copy: the start-begun record of the copy written (R357). -/
def Sys2Proof.Claims.begun (s : State) (f : StartFinds) (c : Bool) : State := (known s f).boot 1 c 0

/-- A start that may go on to its copies (R357, R358): no tamper latch, S read, and fewer than three failed starts. -/
def Sys2Proof.Claims.MayStart (s : State) (f : StartFinds) : Prop :=
  f.testMode = false ∧ s.sec.tamper = false ∧ s.flash.yieldsS = true ∧ s.flash.failCount < 3

/-- The newest boot record. -/
def Sys2Proof.Claims.lastBoot (s : State) (p : BootRecord → Prop) : Prop := ∃ b, s.flash.boots.getLast? = some b ∧ p b

/-- A device whose three starts have failed for a cause: in steep mode, with two records for each start that failed now and one for steep
mode (R357). -/
def Sys2Proof.Claims.ThirdFailed (s t : State) (cause : Nat) : Prop :=
  t.pwr.state = .steep ∧ t.host.cause = cause ∧ (lastBoot t fun b => b.kind = 4 ∧ b.cause = cause)
    ∧ t.flash.boots.length = s.flash.boots.length + 2 * (3 - s.flash.failCount) + 1

/-- A start from reset release (R356 to R359, R361): in test mode only the pins are set; a tamper latch, helper data
that yields no S, or three failed starts lead to steep mode, its cause and its record; a copy that checks, on a device with
a die left, runs, locked, with its layout less the rows that no spare replaces (R174), and writes a start-complete record. Starts that
fail their self-test, whose firmware faults, or that find no copy, end in steep mode at the third. A start that loses its power leaves its
start-begun record, whole or with its first page alone.
Restarts (R336, R357, R359, R390, R408): the start watchdog records a start begun and a start failed of cause 4 and
restarts; a count-clear order writes its record, then starts again; a restart order starts again from the restarted device;
a carrier fitted starts a device that was off or pull-safe if it brings 40 V. A restart keeps the flash, the time, the
tamper latch and what has failed for good, and nothing that a job wrote. -/
def Obligations.StartsAndRestarts : Prop :=
  (∀ (s : State) (f : StartFinds), s.pwr.state = .starting → s.pins.testMode = false → ∃ t, exec (.start f) s = .next t ∧
      let tries := (known s f).tries f.serial
      let room := s.flash.boots.length ≤ 4000
      let checks (y : Bool) : Bool := copyCheck (s.flash.copy y) f.serial == 0
      (f.testMode = true → t.pins.testMode = true ∧ t.pwr.state = .starting ∧ t.flash.boots = s.flash.boots ∧ SameBytes s t)
      ∧ (f.testMode = false → s.sec.tamper = true ∨ s.flash.yieldsS = false → t.pwr.state = .steep ∧ t.host.winState = .steep
          ∧ t.host.cause = (if s.sec.tamper || s.flash.helper then 6 else 1) ∧ lastBoot t fun b => b.kind = 4 ∧ b.cause = t.host.cause)
      ∧ (f.testMode = false → s.sec.tamper = false → s.flash.yieldsS = true → 3 ≤ s.flash.failCount → t.pwr.state = .steep
          ∧ t.host.cause = s.flash.lastCause ∧ lastBoot t fun b => b.kind = 4 ∧ b.cause = s.flash.lastCause)
      ∧ (∀ c rest x, MayStart s f → tries = c :: rest → f.lost = none → f.selfTestOk = true → f.fwFault = false →
          (c :: rest).find? checks = some x →
          (List.range 8).any (fun n => !(((begun s f c).startFind (s.flash.copy x) f).die n).lost) = true →
          t.pwr.state = .run ∧ t.host.winState = .running ∧ t.host.copy = x ∧ t.host.imageVer = (s.flash.copy x).version
            ∧ (let rows := ((begun s f c).startFind (s.flash.copy x) f).rowRecords (s.flash.copy x)
              t.layout = { tuns := (s.flash.copy x).layTuns.mapVals (shrinkEntry (fencedRows rows)), runs := (s.flash.copy x).layRuns,
                           plans := (s.flash.copy x).layPlans })
            ∧ t.sec.locked = true ∧ lastBoot t fun b => b.kind = 2 ∧ b.copy = x)
      ∧ (MayStart s f → room → tries = [] → ThirdFailed s t (if s.flash.unread then 8 else 1))
      ∧ (MayStart s f → room → tries ≠ [] → f.lost = none → f.selfTestOk = false → ThirdFailed s t 5)
      ∧ (MayStart s f → room → f.lost = none → f.selfTestOk = true → f.fwFault = true → tries.any checks = true → ThirdFailed s t 3)
      ∧ (∀ c rest after, MayStart s f → tries = c :: rest → f.lost = some after → t.pwr.state = .off ∧ t.tuns = []
          ∧ lastBoot t fun b => b.kind = 1 ∧ b.copy = c ∧ b.committed = after))
  ∧ ((∀ (s : State), exec .startWatchdog s = .next s ∨ ∃ t, exec .startWatchdog s = .next t ∧ t.pwr.state = .starting ∧ t.host.cause = 4
        ∧ lastBoot t fun b => b.kind = 3 ∧ b.cause = 4)
    ∧ (∀ (s : State), s.pwr.state = .starting → s.pins.testMode = false → s.sec.tamper = false → s.flash.yieldsS = true →
        s.flash.failCount < 3 → ∃ t, exec .startWatchdog s = .next t ∧ t.pwr.state = .starting ∧ t.host.cause = 4 ∧ t.tuns = []
          ∧ t.cellar.mem = [] ∧ lastBoot t fun b => b.kind = 3 ∧ b.cause = 4)
    ∧ (∀ (s : State) (f : StartFinds),
        let kept (r : State) : Prop := r.flash = { s.flash with compacting := false, octal := false } ∧ r.tuns = []
          ∧ r.cellar = { State.reset.cellar with failed := s.cellar.failed }
        (s.pwr.state ≠ .steep → exec (.bmcCountClearRestart f) s = .next s)
        ∧ (s.pwr.state = .steep → ∃ t, exec (.bmcCountClearRestart f) s = .next t ∧ exec (.start f) (s.boot 5 false 0).restarted = .next t)
        ∧ (s.pwr.state = .off → exec (.bmcOrderRestart f) s = .next s)
        ∧ (s.pwr.state ≠ .off → ∃ t, exec (.bmcOrderRestart f) s = .next t ∧ exec (.start f) s.restarted = .next t)
        ∧ ∀ mv, (s.pwr.state ≠ .off → s.pwr.state ≠ .pullSafe → exec (.carrierFit mv f) s = .next s)
            ∧ (s.pwr.state = .off ∨ s.pwr.state = .pullSafe → ∃ t, exec (.carrierFit mv f) s = .next t
                ∧ (mv < 40000 → t.pwr.state = .off ∧ kept t ∧ ∀ n, t.die n = { transients := (s.die n).transients })
                ∧ (40000 ≤ mv → ∃ r, exec (.start f) r = .next t ∧ kept r ∧ (∀ n, (r.die n).mem = [] ∧ (r.die n).ctxs = [])
                    ∧ r.pwr.sensors.inV = mv / 10 ∧ r.sec.tamper = false ∧ r.links.lost = s.links.lost)))
    ∧ ∀ (s : State), s.restarted.flash = { s.flash with compacting := false, octal := false } ∧ s.restarted.nowPs = s.nowPs
        ∧ s.restarted.sec.tamper = s.sec.tamper ∧ s.restarted.tuns = []
        ∧ s.restarted.cellar = { State.reset.cellar with failed := s.cellar.failed } ∧ s.restarted.sec.seed = none
        ∧ s.restarted.links.lost = s.links.lost
        ∧ ∀ n a, (s.restarted.die n).mem.read a = 0)

/-- The board management controller (R180, R359, R362, R397, R407): a flash write never touches the copy in use nor the
other copy, and is staged if it checks; boot records are read whole; a rebuild share is set
in service, which steep mode is not; DEEP IDLE and pull preparation
are refused while a step runs, and lose the memories they power off; a wake brings the device back to RUN with no statistics
history. The pins answer while powered (R420, R422): the boundary-scan instructions drive and sample only in test mode. -/
def Obligations.BoardOrdersAndPins : Prop :=
  (∀ (s : State) (c : Bool) (x : FlashCopy), s.pwr.state ≠ .off →
      ∃ t, exec (.bmcFlashWrite c x) s = .next t ∧ t.flash.copy (!c) = s.flash.copy (!c) ∧ SameBytes s t
        ∧ (s.host.winState = .running → s.host.copy = c → t.flash = s.flash ∧ t.pins.i3cReply = [1])
        ∧ ((s.host.winState ≠ .running ∨ s.host.copy ≠ c) → t.flash.copy c = x
            ∧ (s.copyValid x s.host.serial = true → t.pins.i3cReply = [0] ∧ lastBoot t fun b => b.kind = 6 ∧ b.copy = c)
            ∧ (s.copyValid x s.host.serial = false → t.pins.i3cReply = [1] ∧ t.flash.boots = s.flash.boots)))
  ∧ (∀ (s : State), s.pwr.state ≠ .off → ∃ t, exec .bmcReadBootRecords s = .next t
      ∧ t.pins.i3cReply = s.flash.boots.flatMap BootRecord.bytes ∧ t.flash = s.flash)
  ∧ (∀ (s : State) (d : DieId) (share : BitVec 2), s.serviced = false → exec (.bmcWriteRebuildShare d share) s = .next s)
  ∧ (∀ (s : State) (d : DieId) (share : BitVec 2), s.serviced = true → ∃ t, exec (.bmcWriteRebuildShare d share) s = .next t
      ∧ (t.die d).memStat = { (s.die d).memStat with rebuildShare := share.toNat } ∧ ∀ n : Nat, n ≠ d → t.die n = s.die n)
  ∧ (∀ (s : State), (s.pwr.state ≠ .run ∨ s.anyStep = true → exec .bmcOrderDeepIdle s = .next s)
      ∧ (s.pwr.state = .run → s.anyStep = false → ∃ t, exec .bmcOrderDeepIdle s = .next t ∧ t.pwr.state = .deepIdle
          ∧ t.pwr.idleSince = s.nowPs ∧ t.cellar = s.cellar ∧ t.tuns = s.tuns ∧ t.flash = s.flash
          ∧ (∀ n, (t.die n).mem = [] ∧ (t.die n).bank0 = {} ∧ (t.die n).bank1 = {} ∧ (t.die n).ctxs = (s.die n).ctxs)
          ∧ ∀ n k, (s.dies.find n).isSome → k < 40 → ((s.die n).keeper k).fenced = false →
              ((t.die n).keeper k).power = if k = 39 then .clockGated else .powerGated)
      ∧ (s.pwr.autoIdle = false → exec .autoIdleTimer s = .next s)
      ∧ (s.pwr.autoIdle = true → ∃ t, exec .autoIdleTimer s = .next t
          ∧ exec .bmcOrderDeepIdle { s with nowPs := max s.nowPs (s.pwr.idleSince + s.pwr.idleDelay * 10 ^ 12) } = .next t)
      ∧ (s.pwr.state ≠ .deepIdle → exec .bmcOrderWake s = .next s)
      ∧ (s.pwr.state = .deepIdle → ∃ t, exec .bmcOrderWake s = .next t ∧ t.pwr.state = .run
          ∧ t.pwr.deepIdleMs = s.pwr.deepIdleMs + (s.nowPs - s.pwr.idleSince) / 10 ^ 9 ∧ SameBytes s t
          ∧ ∀ n u, (s.die n).lost = false → (s.ctx n u).resident = true → (t.ctx n u).stats = [] ∧ (t.ctx n u).pc = (s.ctx n u).pc
              ∧ (t.ctx n u).stepRec = (s.tun u).record)
      ∧ (s.pwr.state ≠ .run ∧ s.pwr.state ≠ .deepIdle ∨ s.anyStep = true → exec .pullPreparation s = .next s)
      ∧ (s.pwr.state = .run ∨ s.pwr.state = .deepIdle → s.anyStep = false → ∃ t, exec .pullPreparation s = .next t
          ∧ t.pwr.state = .pullSafe ∧ t.pins.pullOk = true ∧ t.cellar.mem = [] ∧ t.flash = s.flash
          ∧ (∀ n, (t.die n).mem = [] ∧ (t.die n).ctxs = [] ∧ (t.die n).arr = (s.die n).arr ∧ (t.die n).memStat = (s.die n).memStat)
          ∧ ∀ u, (t.tun u).loaded = false ∧ (t.tun u).ts = none ∧ (t.tun u).bung = (s.tun u).bung))
  ∧ ∀ (s : State), s.pwr.state ≠ .off →
      (∀ a, s.pins.i3cAddr = none → exec (.i3cEntdaa a) s = .next { s with pins := { s.pins with i3cAddr := some a } })
      ∧ (∀ a, s.pins.i3cAddr ≠ none → exec (.i3cEntdaa a) s = .next s)
      ∧ exec .idcode s = .next { s with pins := { s.pins with jtagOut := idcodeBits, bypass := false } }
      ∧ (∀ b, exec (.bypass b) s = .next { s with pins := { s.pins with jtagOut := [s.pins.bypass], bypass := b } })
      ∧ (s.pins.testMode = false → ∀ bs, exec (.extest bs) s = .next s ∧ exec (.samplePreload bs) s = .next s
          ∧ exec (.extestPulse bs) s = .next s ∧ exec (.extestTrain bs) s = .next s)
      ∧ (s.pins.testMode = true → ∀ bs,
          exec (.extest bs) s = .next { s with pins := { s.pins with jtagOut := s.pins.boundary, driven := bs } }
          ∧ exec (.samplePreload bs) s = .next { s with pins := { s.pins with jtagOut := s.pins.boundary, boundary := bs } }
          ∧ exec (.extestPulse bs) s = .next { s with pins := { s.pins with acTest := some (false, bs) } }
          ∧ exec (.extestTrain bs) s = .next { s with pins := { s.pins with acTest := some (true, bs) } })

/-! ### SPDM -/

/-- Whether the responder answers a request (R358, R372, R374, R377): GET_VERSION always; a request before the versions, the
capabilities and the algorithms are agreed, of another slot than 0, or of a session that is not established, is turned away,
and so is every request the device does not implement. FINISH is told of apart. -/
def Sys2Proof.Claims.spdmAnswers (s : State) : Instr → Option Bool
  | .getVersion => some true
  | .getCapabilities => some s.sec.version
  | .negotiateAlgorithms ok => some (ok && s.sec.seed.isSome && s.sec.version && s.sec.capabilities)
  | .getDigests | .getMeasurements _ _ _ | .chunkSend _ _ _ => some s.connected
  | .getCertificate slot _ _ | .challenge slot _ => some (s.connected && slot.val == 0)
  | .keyExchange _ => some (s.connected && s.freeSession.isSome)
  | .heartbeat i | .keyUpdate i | .endSession i | .setTunSecret i _ _ _ _ | .ideKm i _ => some (s.session i.val)
  | .chunkGet h q => some (s.connected && decide (q * (Config.openNat 12 h.val + 1) < s.sec.large.length))
  | .spdmUnsupportedRequest _ => some false
  | _ => none

/-- The state with an answer given, which CHUNK_GET may fetch again. -/
def Sys2Proof.Claims.answered (s : State) (bs : Bytes) : State := { s with sec := { s.sec with reply := bs, large := bs } }

/-- The responder (R369, R371 to R374, R377): a request it does not answer is told so and counted, and changes nothing else;
what it answers is the version, the capabilities, the algorithms, the digest and the bytes of slot 0's chain, a signed nonce,
a measurement, or a session's effect. A tun takes one secret a load, under a signature that verifies; any other try is
counted. The random bit generator is seeded again after 2^20 requests. The order of a connection, the error code, the version
bytes and the chunks are the model's (log entry 30). -/
def Obligations.Responder : Prop :=
  (∀ (c : Instr) (s : State), (spdmAnswers s c).isSome → s.pwr.state = .off → exec c s = .next s)
  ∧ (∀ (c : Instr) (s : State), s.pwr.state ≠ .off → spdmAnswers s c = some false →
      exec c s = .next { s with sec := { s.sec with reply := [0x7F], spdmErrors := s.sec.spdmErrors + 1 } })
  ∧ (∀ (c : Instr) (s : State), s.pwr.state ≠ .off → spdmAnswers s c = some true → ∃ t, exec c s = .next t
      ∧ t.sec.spdmErrors = s.sec.spdmErrors ∧ t.flash = s.flash ∧ t.pwr = s.pwr ∧ SameBytes s t
      ∧ match c with
        | .getVersion => t = answered { s with sec := { s.sec with version := true, capabilities := false, algorithms := false } } [0x12, 0x13]
        | .getCapabilities => t = answered { s with sec := { s.sec with capabilities := true } } []
        | .negotiateAlgorithms _ => t = answered { s with sec := { s.sec with algorithms := true } } []
        | .getDigests => t = answered s (1 :: sha3_512 (s.sec.certChain ++ s.aliasCert))
        | .getCertificate _ off len => t = answered s (((s.sec.certChain ++ s.aliasCert).drop off).take len)
        | .challenge _ nonce => t.sec.reply = bytesOfNat 32 (Config.drbg s.draws).toNat ++ Config.mlDsaSign 1 (s.aliasSeed ++ (nonce
            ++ bytesOfNat 32 (Config.drbg s.draws).toNat)) ∧ t.sec.requests = s.sec.requests + 1
        | .getMeasurements index sign nonce => (s.measurement index.val = none → t = s)
            ∧ ∀ b, s.measurement index.val = some b →
                t = answered s (if sign then b ++ Config.mlDsaSign 1 (s.aliasSeed ++ (nonce ++ b)) else b)
        | .keyExchange _ => ∃ i, s.freeSession = some i ∧ Tbl.get {} t.sec.sessions i = { isOpen := true, key := Config.mlKem s.draws }
            ∧ t.sec.requests = s.sec.requests + 1 ∧ ∀ j, j ≠ i → Tbl.get {} t.sec.sessions j = Tbl.get {} s.sec.sessions j
        | .heartbeat _ => t = answered s []
        | .keyUpdate i => (Tbl.get {} t.sec.sessions i.val).updates = (Tbl.get {} s.sec.sessions i.val).updates + 1
            ∧ (Tbl.get {} t.sec.sessions i.val).key = Config.mlKem s.draws
        | .endSession i => t = answered { s with sec := { s.sec with sessions := s.sec.sessions.put i.val {} } } []
        | .setTunSecret _ u ts imports sigOk =>
            let ok := (s.tun u).loaded && !(s.tun u).secretTaken && sigOk && !s.sec.tamper && ts.length == 32 && decide (imports.length ≤ 4)
            (ok = true → t = answered (s.setTun u { s.tun u with ts := some ts, secretTaken := true, imports := imports }) [])
            ∧ (ok = false → t.tuns = s.tuns ∧ t.sec.secretRefused = s.sec.secretRefused + 1
                ∧ t.sec.sigFail = s.sec.sigFail + if sigOk then 0 else 1)
        | .ideKm _ program => t = answered { s with sec := { s.sec with ideKeyed := s.sec.ideKeyed || program } } []
        | .chunkSend h chunk false => t = { s with sec := { s.sec with chunks := Tbl.modify [] s.sec.chunks h.val (· ++ chunk), reply := [BitVec.ofNat 8 h.val] } }
        | .chunkSend h _ true => t = { s with sec := { s.sec with chunks := s.sec.chunks.erase h.val, reply := [BitVec.ofNat 8 h.val] } }
        | .chunkGet h q => t.sec.reply = (s.sec.large.drop (q * (Config.openNat 12 h.val + 1))).take (Config.openNat 12 h.val + 1)
            ∧ t.sec.large = s.sec.large
        | _ => True)
  ∧ (∀ (s : State) (i : Fin 8) (ok : Bool), s.pwr.state ≠ .off → ∃ t, exec (.finish i ok) s = .next t ∧
      let x := Tbl.get {} s.sec.sessions i.val
      (s.connected = true → x.isOpen = true → x.finished = false → ok = true →
        t = answered { s with sec := { s.sec with sessions := s.sec.sessions.put i.val { x with finished := true } } } [])
      ∧ (s.connected = true → x.isOpen = true → x.finished = false → ok = false →
        (Tbl.get {} t.sec.sessions i.val).isOpen = false ∧ t.sec.spdmErrors = s.sec.spdmErrors + 1)
      ∧ (s.connected = false ∨ x.isOpen = false ∨ x.finished = true →
        t = { s with sec := { s.sec with reply := [0x7F], spdmErrors := s.sec.spdmErrors + 1 } }))
  ∧ ∀ (s : State), (2 ^ 20 ≤ s.sec.requests →
        exec .drbgReseed s = .next { s with sec := { s.sec with requests := 0, reseeds := s.sec.reseeds + 1 } })
      ∧ (s.sec.requests < 2 ^ 20 → exec .drbgReseed s = .next s)

/-! ### Power and whole-unit faults -/

/-- The conditions that make the emergency stop (R387, R394, R399, R400, R417), each with its cause: an input current past its
trip 1, a supply that collapsed 2, a rail or an alert 3, a temperature past its trip 4, the clock reference 5, the pin or an
order 6. The state is the one that the sensors' readings leave. -/
def Sys2Proof.Claims.StopCause (s : State) : Instr → Nat → State → Prop
  | .inputOverCurrent ma, k, r => k = 1 ∧ 1000 * s.pwr.ocTrip < ma
      ∧ r = { s with pwr := { s.pwr with sensors := { s.pwr.sensors with inI := ma / 10 } } }
  | .supplyCollapse mv, k, r => k = 2 ∧ mv < 38000 ∧ r = { s with pwr := { s.pwr with sensors := { s.pwr.sensors with inV := mv / 10 } } }
  | .railOverCurrent, k, r | .psAlert, k, r => k = 3 ∧ r = s
  | .thermalSample x tripped, k, r => k = 4 ∧ r = { s with pwr := { s.pwr with sensors := x } }
      ∧ (tripped = true ∨ s.pwr.tTrip < x.tCd ∨ s.pwr.tTrip < x.tHd ∨ 105 < x.tCellar)
  | .estopPin, k, r => k = 6 ∧ r = { s with pins := { s.pins with estop := true } }
  | .bmcOrderEstop, k, r => k = 6 ∧ r = s
  | _, _, _ => False

/-- The emergency stop (R400 to R402): in RUN every running tun spoils, the banks are discarded, what is in flight is void,
the coders drop what they hold, the array and the vector units lose power and are held, and no byte changes; a cause in any
other state is only kept, and while STOPPED each one has to end before the release. The
limit of stops in a second stops every tun. A reading within its limits stops nothing.
The release of a stop (R403, R409): not while it may not be released; else RUN comes back, the stop's length is kept if it is
the longest, the device's time is that of the release, and the cellar is as it was. An ordered stop, and one at the limit, needs
the board management controller; the loss of the reference is not cleared; a thermal stop waits for cool sensors, and a
collapse for 40 V. -/
def Obligations.EmergencyStopAndRelease : Prop :=
  ((∀ (c : Instr) (s r : State) (k : Nat), StopCause s c k r → ∃ t, exec c s = .next t ∧ t.pwr.estopCause = k ∧ SameBytes s t
      ∧ (s.pwr.state ≠ .run → s.pwr.state ≠ .stopped → t = { r with pwr := { r.pwr with estopCause := k } })
      ∧ (s.pwr.state = .stopped → t = { r with pwr :=
          { r.pwr with estopCause := k, causes := k :: r.pwr.causes, thermTrip := r.pwr.thermTrip || k == 4 } })
      ∧ (s.pwr.state = .run → t.pwr.state = .stopped ∧ t.pwr.estops = s.pwr.estops + 1 ∧ t.pwr.stoppedAt = s.nowPs ∧ t.pwr.causes = [k]
          ∧ (∀ u d, (s.tun u).loaded = true → (s.tun u).stopped = false → (s.ctx d u).resident = true → d ∈ s.diesOf u →
              (t.ctx d u).spoil = true)
          ∧ (∀ d, (s.dies.find d).isSome → (s.die d).lost = false → (t.die d).bank0 = {} ∧ (t.die d).bank1 = {}
              ∧ (∀ u ∈ s.tunsOn d, (t.coder d u).isOpen = false) ∧ (∀ j ∈ (t.die d).vec0 ++ (t.die d).vec1, j.void = true) ∧ (∀ j ∈ (t.die d).movs, j.void = true)
              ∧ ∀ q, q < 21 → ((s.die d).keeper q).fenced = false →
                  ((t.die d).keeper q).power = .powerGated ∧ ((t.die d).keeper q).stopHeld = true)
          ∧ (s.pwr.estopLimit ≤ (s.pwr.stopsNow s.nowPs).length → ∀ u < 32, (s.tun u).loaded = true → (t.tun u).stopped = true)))
    ∧ (∀ (s : State), (∀ ma, ma ≤ 1000 * s.pwr.ocTrip → exec (.inputOverCurrent ma) s =
          .next { s with pwr := { s.pwr with sensors := { s.pwr.sensors with inI := ma / 10 } } })
        ∧ (∀ mv, 38000 ≤ mv → exec (.supplyCollapse mv) s =
            .next { s with pwr := { s.pwr with sensors := { s.pwr.sensors with inV := mv / 10 } } })
        ∧ ∀ x, x.tCd ≤ s.pwr.tTrip → x.tHd ≤ s.pwr.tTrip → x.tCellar ≤ 105 → exec (.thermalSample x false) s =
            .next { s with pwr := { s.pwr with sensors := x } }))
  ∧ (∀ (s : State) (ns : Nat) (byBmc : Bool),
      let r := { s with pins := { s.pins with estop := false } }
      let may := s.pwr.state = .stopped ∧ 5 ∉ s.pwr.causes ∧ (byBmc = true ∨ s.pwr.held = false ∧ 6 ∉ s.pwr.causes)
        ∧ (4 ∈ s.pwr.causes → s.pwr.cool = true) ∧ (2 ∈ s.pwr.causes → 4000 ≤ s.pwr.sensors.inV)
      (¬ may → exec (.estopRelease ns byBmc) s = .next r)
      ∧ (may → s.pwr.reports = [] → ∃ t, exec (.estopRelease ns byBmc) s = .next t ∧ t.pwr.state = .run ∧ t.pwr.held = false ∧ t.pwr.causes = []
          ∧ t.pwr.estopNsMax = max s.pwr.estopNsMax ns ∧ t.nowPs = max s.nowPs (s.pwr.stoppedAt + 1000 * ns) ∧ t.pins.estop = false
          ∧ t.cellar.mem = s.cellar.mem))

/-- What is held of a whole-unit fault while the device is STOPPED (R409). -/
def Sys2Proof.Claims.Held (s : State) : Instr → HeldReport → Prop
  | .hubManagerWatchdog, r => r = { cls := 12, die := 8, unit := 16, time := s.timeNs }
  | .reductionEngineFault e, r => e.val = 0 ∧ r = { cls := 12, die := 8, unit := 16, time := s.timeNs }
  | .clockLoss .coreHd, r => r = { cls := 12, die := 8, unit := 16, time := s.timeNs }
  | .dieLoss d cause gone, r => (s.die d).lost = false ∧ r = { cls := 11, die := d, unit := cause + if gone || cause.val == 8 then 16 else 0, time := s.timeNs }
  | _, _ => False

/-- The device without power: what the flash holds, the column tallies of the device's life, the interfaces and dies that have
failed, the time, the model's count of free values and the waiting commands. -/
def Sys2Proof.Claims.unpowered (s : State) : State :=
  let p := { State.reset.pwr with state := .off }
  { State.reset with pending := s.pending, nowPs := s.nowPs, draws := s.draws, pwr := p, flash := { s.flash with compacting := false, octal := false },
                     cellar := { State.reset.cellar with failed := s.cellar.failed }, links := { State.reset.links with lost := s.links.lost },
                     dies := s.dies.mapVals fun d => { transients := d.transients } }

/-- Power and clocks (R276, R387, R391, R393, R399): a loss of power, and an input below 36 V, leave only the flash, the tallies
of the columns, what has failed for good and the time; from 38 V to 40 V no new work is issued, until 40 V is back; the throttle level rises to 15 while a limit is exceeded
and falls while every mean is below 95 % of its own; the loss of the reference makes the backup oscillator run the management
islands and stops every tun, and with cause 5 the device.
Whole-unit faults (R383, R399, R404, R405): a tamper sets the latch and clears the seed, the IDE keys and every tun
secret, so that no key stands in which cellar was written, and stops every tun; the commit unit's domain (engine 0, the hub manager, HD's core clock) takes class 12, which
stops every tun; another engine is taken out of use and stops no tun; a die that is lost stops the tuns laid on it. While STOPPED such a report
is held, but for a tamper. -/
def Obligations.PowerAndUnitFaults : Prop :=
  (∀ (s : State),
      exec .powerLoss s = .next (unpowered s)
      ∧ (∀ mv, mv < 36000 → exec (.inputBelow36V mv) s = .next (unpowered s))
      ∧ (∀ mv, 36000 ≤ mv → exec (.inputBelow36V mv) s = .next { s with pwr := { s.pwr with sensors := { s.pwr.sensors with inV := mv / 10 } } })
      ∧ (∀ mv, let q := { s.pwr with sensors := { s.pwr.sensors with inV := mv / 10 } }
          (38000 ≤ mv → mv < 40000 → exec (.inputBelow40V mv) s = .next { s with pwr := { q with noNewWork := true } })
          ∧ (mv < 38000 ∨ 40000 ≤ mv → exec (.inputBelow40V mv) s = .next { s with pwr := q })
          ∧ (40000 ≤ mv → exec (.inputAbove40V mv) s = .next { s with pwr := { q with noNewWork := false } })
          ∧ (mv < 40000 → exec (.inputAbove40V mv) s = .next { s with pwr := q }))
      ∧ (s.pwr.isOver = true → exec .throttleRaise s = .next { s with pwr := { s.pwr with throttle := min 15 (s.pwr.throttle + 1) } })
      ∧ (s.pwr.isOver = false → exec .throttleRaise s = .next s)
      ∧ (s.pwr.under = true → exec .throttleLower s = .next { s with pwr := { s.pwr with throttle := s.pwr.throttle - 1 } })
      ∧ (s.pwr.under = false → exec .throttleLower s = .next s)
      ∧ (∃ t, exec (.clockLoss .reference) s = .next t ∧ t.pwr.mgmtBackup = true ∧ t.pwr.estopCause = 5
          ∧ (s.pwr.state = .run → t.pwr.state = .stopped ∧ ∀ u < 32, (s.tun u).loaded = true → (t.tun u).stopped = true)))
  ∧ (∀ (s : State),
      (∃ t, exec .tamper s = .next t ∧ t.sec.tamper = true ∧ t.sec.seed = none ∧ t.sec.ideKeyed = false
          ∧ (∀ u, (t.tun u).ts = none ∧ (t.tun u).imports = []) ∧ (∀ u < 32, (s.tun u).loaded = true → (t.tun u).stopped = true)
          ∧ (∀ n, (t.die n).mem = (s.die n).mem)
          ∧ t.cellar = (List.range 32).foldl (fun c u => c.forget u (s.cellarKey u)) s.cellar)
      ∧ (∀ c, c = .hubManagerWatchdog ∨ c = .reductionEngineFault 0 ∨ c = .clockLoss .coreHd → s.pwr.state ≠ .stopped →
          ∃ t, exec c s = .next t ∧ (∀ u < 32, (s.tun u).loaded = true → (t.tun u).stopped = true) ∧ SameBytes s t)
      ∧ (s.pwr.state = .stopped → ∀ (c : Instr) (r : HeldReport), Held s c r →
          exec c s = .next { s with pwr := { s.pwr with reports := s.pwr.reports ++ [r] } })
      ∧ (∀ e : Fin 4, e.val ≠ 0 → (s.pwr.redFailed.contains e.val = true → exec (.reductionEngineFault e) s = .next s)
          ∧ (s.pwr.redFailed.contains e.val = false → ∃ t, exec (.reductionEngineFault e) s = .next t
              ∧ t.pwr.redFailed = s.pwr.redFailed ++ [e.val] ∧ t.tuns = s.tuns ∧ SameBytes s t))
      ∧ (∀ (d : DieId) (c : Instr) (cause : Fin 16) (gone : Bool), (c = .dieLoss d cause gone ∨ c = .clockLoss (.coreDie d)) →
          s.pwr.state ≠ .stopped → ∃ t, exec c s = .next t ∧ (t.die d).lost = true
            ∧ ((s.die d).lost = false → ∀ u < 32, (s.diesOf u).contains d.val = true → (s.tun u).loaded = true → (t.tun u).stopped = true)))

/-! ### Errors of the memories -/

/-- The 16-byte word of an address. -/
def Sys2Proof.Claims.wordAt (a : Nat) : Nat := a / 16 * 16

/-- Whether a word failed for a tun in an earlier attempt of its step (R170). -/
def Sys2Proof.Claims.failedBefore (s : State) (u key : Nat) : Prop := ∃ p ∈ (s.tun u).ueSeen, p.1 = key ∧ p.2 < (s.tun u).step.attempt

/-- An uncorrectable word of a memory of the die (R170): a word of scratchpad or loft that was consumed reads as zero from
then on, its tun spoils and it is counted; one that a fetch or the sketch cache reads spoils nothing and changes no byte;
one of context memory spoils its tun and has its context rebuilt; one of staging spoils the tun on its dies; one of cellar
spoils and is counted and its row is fenced in a whole group, and in a guarded or rewrite run it is reconstructed, or the tun stops where
its stripe has no protection left. Where a word that was consumed failed in an earlier attempt of the step, the tun stops. -/
def Obligations.UncorrectableWords : Prop :=
  ∀ (s : State) (d : DieId) (u : TunId) (addr : Nat) (second : Bool), (s.found d).state ≠ .dark →
    (∀ (site : UeSite) (lvl : Nat), localLvl addr = some lvl → (site = .scratchpad ∧ lvl = 0 ∨ site = .loft ∧ lvl ≠ 0) →
      ∃ t, exec (.uncorrectableError d u site addr second) s = .next t
        ∧ (∀ a, (t.die d).mem.read a = if wordAt addr ≤ a ∧ a < wordAt addr + 16 then 0 else (s.die d).mem.read a)
        ∧ (∀ n : Nat, n ≠ d → (t.die n).mem = (s.die n).mem) ∧ t.cellar.mem = s.cellar.mem
        ∧ (t.die d).memStat = (s.die d).memStat.ue lvl (deviceAddr d (wordAt addr))
        ∧ ((s.ctx d u).resident = true → (t.ctx d u).spoil = true)
        ∧ (failedBefore s u (deviceAddr d (wordAt addr)) → (s.tun u).loaded = true → (t.tun u).stopped = true))
    ∧ (∀ (site : UeSite) (lvl : Nat), localLvl addr = some lvl → lvl ≠ 0 → (site = .fetch ∨ site = .sketchCache) →
      ∃ t, exec (.uncorrectableError d u site addr second) s = .next t ∧ SameBytes s t ∧ (t.ctx d u).spoil = (s.ctx d u).spoil
        ∧ (t.die d).memStat = (s.die d).memStat.ue lvl (deviceAddr d (wordAt addr))
        ∧ (site = .fetch → (s.ctx d u).resident = true → (t.ctx d u).stall.fetch = (s.ctx d u).stall.fetch + (1 + Config.openNat 14 s.draws)))
    ∧ ((s.ctx d u).resident = true → ∃ t, exec (.uncorrectableError d u .context addr second) s = .next t ∧ SameBytes s t
        ∧ (t.ctx d u).spoil = true ∧ (t.ctx d u).rebuild = true
        ∧ (failedBefore s u (2 ^ 59 + 2 ^ 48 * d.val + addr) → (s.tun u).loaded = true → (t.tun u).stopped = true))
    ∧ (∃ t, exec (.uncorrectableError d u .staging addr second) s = .next t ∧ SameBytes s t
        ∧ (∀ n ∈ s.diesOf u, (s.ctx n u).resident = true → (t.ctx n u).spoil = true)
        ∧ (failedBefore s u (0x042000000000 + addr % 2 ^ 28) → (s.tun u).loaded = true → (t.tun u).stopped = true))
    ∧ ∀ l, s.cellarAt u d addr = some l → ∃ t, exec (.uncorrectableError d u .cellar addr second) s = .next t
        ∧ ((s.ctx d u).resident = true → (t.ctx d u).spoil = true)
        ∧ (t.die d).memStat.cellarUe = (s.die d).memStat.cellarUe + 1
        ∧ (failedBefore s u l.addr ∨ (l.cls ≠ 0 ∧ (second = true ∨ s.unprotected l = true)) → (s.tun u).loaded = true → (t.tun u).stopped = true)
        ∧ (l.cls ≠ 0 → second = false → s.unprotected l = false → ¬ failedBefore s u l.addr →
            (t.die d).memStat.reconstructs = (s.die d).memStat.reconstructs + 1)
        ∧ (let i := 12 * l.pg + l.pos
          let row := (i % 6, l.stripe / 32)
          ((s.die (i / 6)).rowFences.filter fun p => p.1 == i % 6).length < 16 → SameBytes s t
            ∧ (row ∉ (s.die (i / 6)).rowFences → (s.group (i / 12)).state = .whole → (t.die (i / 6)).rowFences = (s.die (i / 6)).rowFences ++ [row]))

/-- The other errors of the memories (R168, R169, R171 to R174): a corrected word is counted and its row noted, and a second
one in a row within 24 hours queues the row of scratchpad or loft for its spare; a scrub moves its level's counter on; an
interface that fails spoils every tun with a run in its group and starts the rebuild of a whole group, or fences the group
and stops those tuns; with the link between the group's dies up, a rebuilt granule is noted, the writes and
freezing copies that wait for one go on, and the last one leaves the group exposed. -/
def Obligations.MemoryRepairs : Prop :=
  (∀ (s : State) (d : DieId) (lvl : Fin 4) (unit : Fin 64) (row : Nat),
    let r : RowRepair := { lvl := lvl, unit := unit, row := row }
    let recent := (s.die d).ceSeen.filter fun (p : RowRepair × Nat) => decide (s.nowPs ≤ p.2 + 86400 * 10 ^ 12)
    (r.inBounds = false ∨ (s.found d).state = .dark → exec (.correctableError d lvl unit row) s = .next s)
    ∧ (r.inBounds = true → (s.found d).state ≠ .dark → recent.any (fun (p : RowRepair × Nat) => p.1 == r) = false →
        ∃ t, exec (.correctableError d lvl unit row) s = .next t ∧ SameBytes s t
          ∧ (t.die d).memStat = (s.die d).memStat.ce lvl ∧ (t.die d).ceSeen = recent ++ [(r, s.nowPs)]
          ∧ (t.die d).rowsQueued = (s.die d).rowsQueued)
    ∧ (r.inBounds = true → (s.found d).state ≠ .dark → recent.any (fun (p : RowRepair × Nat) => p.1 == r) = true → lvl.val ≠ 3 →
        ∃ t, exec (.correctableError d lvl unit row) s = .next t ∧ SameBytes s t ∧ (t.die d).memStat = (s.die d).memStat.ce lvl
          ∧ (r ∉ (s.die d).rowsQueued → Tbl.get 0 (s.die d).sparesUsed (64 * lvl + unit) < spareRows lvl →
              (t.die d).rowsQueued = (s.die d).rowsQueued ++ [r]
              ∧ Tbl.get 0 (t.die d).sparesUsed (64 * lvl + unit) = Tbl.get 0 (s.die d).sparesUsed (64 * lvl + unit) + 1)))
  ∧ (∀ (s : State) (d : DieId),
      exec (.scrubTick d 0) s = .next (s.setDie d { s.die d with scrubSp := ((s.die d).scrubSp + 1) % 65536 })
      ∧ exec (.scrubTick d 1) s = .next (s.setDie d { s.die d with scrubLoftA := ((s.die d).scrubLoftA + 1) % 786432 })
      ∧ exec (.scrubTick d 2) s = .next (s.setDie d { s.die d with scrubLoftB := ((s.die d).scrubLoftB + 1) % 786432 })
      ∧ exec (.scrubTick d 3) s = .next (s.setDie d { s.die d with scrubCellar := ((s.die d).scrubCellar + 1) % 2 ^ 28 }))
  ∧ (∀ (s : State) (i : Fin 48),
      let g := s.group (i / 12)
      let out := g.failed = some (i % 12) ∨ g.state = .fenced ∨ (s.found (i / 6)).state = .dark
      (out → exec (.cellarInterfaceFailure i) s = .next s)
      ∧ (¬ out → ∃ t, exec (.cellarInterfaceFailure i) s = .next t ∧ (t.die (i / 6)).memStat.failedCi = i ∧ i.val ∈ t.cellar.failed
          ∧ (∀ n, (t.die n).mem = (s.die n).mem)
          ∧ (∀ u ∈ s.tunsIn (i / 12), ∀ n ∈ s.diesOf u, (s.ctx n u).resident = true → (t.ctx n u).spoil = true)
          ∧ (g.state = .whole → (t.group (i / 12)).state = .rebuilding ∧ (t.group (i / 12)).failed = some (i % 12))
          ∧ (g.state ≠ .whole → (t.group (i / 12)).state = .fenced
              ∧ ∀ u ∈ s.tunsIn (i / 12), (s.tun u).loaded = true → (t.tun u).stopped = true)))
  ∧ ∀ (s : State) (pg : Fin 4),
      let g := s.group pg
      let works := g.state = .rebuilding ∧ s.pwr.state ≠ .deepIdle ∧ s.groupLinked pg = true
      (¬ works → exec (.rebuildGranule pg) s = .next s)
      ∧ (works → ∃ t, exec (.rebuildGranule pg) s = .next t
          ∧ (t.group pg).rebuilt = g.rebuild.1.rebuilt ∧ (t.group pg).early = g.rebuild.1.early
          ∧ (t.group pg).state = (if 21846 ≤ g.rebuild.1.rebuilt then .exposed else .rebuilding)
          ∧ (s.cellar.waiting = [] → (∀ u ∈ s.tunsIn pg, ∀ n ∈ s.diesOf u, (s.upd n u).toFreeze = []) → SameBytes s t
              ∧ (g.rebuild.1.rebuilt < 21846 → t.group pg = g.rebuild.1)))

/-! ### The whole device -/

/-- The commands that may change a byte of a die's memory or of the cellar: what ends a die's work, lands data from outside,
commits or restores a step, tears a tun down or forgets its keys, starts, powers down, or meets an error of a memory or its
repair. -/
def Sys2Proof.Claims.mayStore : Instr → Bool
  | .drainLastRowRead .. | .vectorOpDone .. | .delayedDrainEnd .. | .moverCompletion .. | .dataLastFlit ..
  | .memoryWrite .. | .stepOutcome .. | .blockWriteAck .. | .sketchSegmentReturn .. | .data ..
  | .delivery .. | .reshardStep .. | .powerLoss | .restore .. | .tearDown .. | .start .. | .startWatchdog
  | .bmcCountClearRestart .. | .bmcOrderRestart .. | .bmcOrderDeepIdle | .autoIdleTimer | .pullPreparation | .carrierFit ..
  | .inputBelow36V .. | .estopRelease .. | .uncorrectableError .. | .correctableError .. | .cellarInterfaceFailure .. | .rebuildGranule ..
  | .tamper | .faultReport .. => true
  | _ => false

/-- The commands after which the tun layout may differ (R362): a start, and what takes the power away. -/
def Sys2Proof.Claims.mayLayOut : Instr → Bool
  | .start .. | .startWatchdog | .bmcCountClearRestart .. | .bmcOrderRestart .. | .carrierFit .. | .powerLoss | .inputBelow36V .. => true
  | _ => false

/-- The bytes of the dies' memories and of the cellar, as any tun reads them, change under no other command than those that
store. The issue of a slice, a launch, a stop, a message or a check of a tap stores nothing. -/
def Obligations.OtherCommandsStoreNothing : Prop :=
  ∀ (c : Instr) (s t : State), mayStore c = false → exec c s = .next t → SameBytes s t

/-- The layout taken from the image changes only at a start and at a loss of power (R362; a tun's new layout of a package stands beside it,
R249), the image copies only under a write of the
board management controller (R355, R362), which writes one copy and leaves the other. -/
def Obligations.LayoutAndImagesChangeAtStart : Prop :=
  ∀ (c : Instr) (s t : State), exec c s = .next t →
    (mayLayOut c = false → t.layout = s.layout)
    ∧ ((∀ copy image, c ≠ .bmcFlashWrite copy image) → t.flash.copyA = s.flash.copyA ∧ t.flash.copyB = s.flash.copyB)
    ∧ ∀ image, (c = .bmcFlashWrite false image → t.flash.copyB = s.flash.copyB) ∧ (c = .bmcFlashWrite true image → t.flash.copyA = s.flash.copyA)

/-- Every byte memory keeps its canonical form, whatever command a step takes: from every state that has it, not only
those that a run reaches. -/
def Obligations.EveryStepKeepsMemoryForm : Prop :=
  ∀ (s t : State), s.memWf = true → step s = .next t → t.memWf = true

/-- The values that the spec gives for reset: the window shows a start (R350), the power state is starting (R411) and the
power settings are those of R410; the clock is FREE, the MACs are down and the parity groups whole; banks are ZERO, tokens EMPTY, no
tun is loaded, the bung is not valid, the taps are off, no secret and no seed is held, and every memory has its canonical form. -/
def Obligations.ResetState : Prop :=
  let s := State.reset
  s.memWf = true ∧ s.pending = [] ∧ s.host.winState = .starting ∧ s.pwr.state = .starting ∧ s.pwr.throttle = 0
  ∧ s.pwr.ocTrip = 45 ∧ s.pwr.lim1s = 1500 ∧ s.pwr.lim10ms = 1650 ∧ s.pwr.tThrottle = 95 ∧ s.pwr.tTrip = 110 ∧ s.pwr.tCellar = 95
  ∧ s.pwr.autoIdle = false ∧ s.pwr.idleDelay = 300 ∧ s.pwr.estopLimit = 3 ∧ pwrConfigOk s.pwr.config = true
  ∧ s.net.ptp.state = .free ∧ s.host.tapOn = false ∧ s.sec.state = .starting ∧ s.sec.seed = none ∧ s.sec.tamper = false
  ∧ (∀ n, (s.die n).bank0.state = .zero ∧ (s.die n).bank1.state = .zero ∧ (s.die n).arr.presented = 0x80 ∧ (s.die n).memStat.failedCi = 0x3F)
  ∧ (∀ n u k, (s.ctx n u).tok k = .empty) ∧ (∀ u, (s.tun u).loaded = false ∧ (s.tun u).bung.valid = false)
  ∧ (∀ m, (s.mac m).link = .down) ∧ ∀ pg, (s.group pg).state = .whole
end

