-- ==== Sys2Proof/Laws/Tables.lean ====
section
/-! SUPPORT. The laws of sparse tables and of the sparse byte memory: what is read after a write, and the canonical form
of a memory, which every operation on it keeps. -/

namespace Sys2Proof

/-! ### Tables -/

@[simp] theorem Tbl.get_put_same {α : Type} (d : α) (t : Tbl α) (k : Nat) (a : α) : Tbl.get d (t.put k a) k = a := by
  induction t with
  | nil => simp [Tbl.put, Tbl.get]
  | cons e t ih =>
    obtain ⟨j, b⟩ := e
    simp only [Tbl.put]
    split
    · simp [Tbl.get]
    · split
      · simp [Tbl.get]
      · simp [Tbl.get, *]

theorem Tbl.get_put_other {α : Type} (d : α) (t : Tbl α) {k i : Nat} (a : α) (h : i ≠ k) :
    Tbl.get d (t.put k a) i = Tbl.get d t i := by
  induction t with
  | nil => simp [Tbl.put, Tbl.get, h]
  | cons e t ih =>
    obtain ⟨j, b⟩ := e
    simp only [Tbl.put]
    split
    · simp [Tbl.get, h]
    · split
      · subst_vars; simp [Tbl.get, h]
      · simp [Tbl.get, ih]

theorem Tbl.get_put {α : Type} (d : α) (t : Tbl α) (k i : Nat) (a : α) :
    Tbl.get d (t.put k a) i = if i = k then a else Tbl.get d t i := by
  split
  · subst_vars; simp
  · exact Tbl.get_put_other d t a ‹_›

@[simp] theorem Tbl.find_put_same {α : Type} (t : Tbl α) (k : Nat) (a : α) : (t.put k a).find k = some a := by
  induction t with
  | nil => simp [Tbl.put, Tbl.find]
  | cons e t ih =>
    obtain ⟨j, b⟩ := e
    simp only [Tbl.put]
    split
    · simp [Tbl.find]
    · split
      · simp [Tbl.find]
      · simp [Tbl.find, *]

/-- What holds of every entry of a table and of a new value holds of every entry after the value is put. -/
theorem Tbl.forall_put {α : Type} {p : α → Prop} {t : Tbl α} {k : Nat} {a : α} (ht : ∀ e ∈ t, p e.2) (ha : p a) :
    ∀ e ∈ t.put k a, p e.2 := by
  induction t with
  | nil => simpa [Tbl.put] using ha
  | cons e t ih =>
    obtain ⟨j, b⟩ := e
    have hb : p b := ht (j, b) (by simp)
    have h' : ∀ e ∈ t, p e.2 := fun e he => ht e (by simp [he])
    simp only [Tbl.put]
    split
    · intro x hx
      rcases List.mem_cons.1 hx with rfl | hx
      · exact ha
      · exact ht x hx
    · split
      · intro x hx
        rcases List.mem_cons.1 hx with rfl | hx
        · exact ha
        · exact h' x hx
      · intro x hx
        rcases List.mem_cons.1 hx with rfl | hx
        · exact hb
        · exact ih h' x hx

/-- What holds of every entry and of the default holds of what is read. -/
theorem Tbl.get_of_forall {α : Type} {p : α → Prop} {d : α} {t : Tbl α} (k : Nat) (ht : ∀ e ∈ t, p e.2) (hd : p d) :
    p (Tbl.get d t k) := by
  induction t with
  | nil => simpa [Tbl.get] using hd
  | cons e t ih =>
    obtain ⟨j, b⟩ := e
    simp only [Tbl.get]
    split
    · exact ht (j, b) (by simp)
    · exact ih fun e he => ht e (by simp [he])

/-! ### The canonical form of a memory -/

theorem Mem.wfFrom_weaken {m : Mem} {lo lo' : Nat} (h : Mem.wfFrom lo m = true) (hl : lo' ≤ lo) : Mem.wfFrom lo' m = true := by
  cases m with
  | nil => rfl
  | cons c t =>
    obtain ⟨j, b⟩ := c
    simp only [Mem.wfFrom, Bool.and_eq_true, decide_eq_true_eq] at h ⊢
    exact ⟨⟨by omega, h.1.2⟩, h.2⟩

theorem Mem.wfFrom_write {m : Mem} {lo a : Nat} (v : Byte) (h : Mem.wfFrom lo m = true) (ha : lo ≤ a) :
    Mem.wfFrom lo (Mem.write m a v) = true := by
  induction m generalizing lo with
  | nil =>
    simp only [Mem.write]
    split
    · rfl
    · simp only [Mem.wfFrom, Bool.and_eq_true, decide_eq_true_eq]
      exact ⟨⟨ha, ‹_›⟩, trivial⟩
  | cons c t ih =>
    obtain ⟨j, b⟩ := c
    have h0 := h
    simp only [Mem.wfFrom, Bool.and_eq_true, decide_eq_true_eq] at h
    obtain ⟨⟨h1, h2⟩, h3⟩ := h
    simp only [Mem.write]
    split
    · split
      · exact h0
      · simp only [Mem.wfFrom, Bool.and_eq_true, decide_eq_true_eq]
        exact ⟨⟨ha, ‹_›⟩, ⟨by omega, h2⟩, h3⟩
    · split
      · split
        · exact Mem.wfFrom_weaken h3 (by omega)
        · simp only [Mem.wfFrom, Bool.and_eq_true, decide_eq_true_eq]
          subst_vars
          exact ⟨⟨h1, ‹_›⟩, h3⟩
      · simp only [Mem.wfFrom, Bool.and_eq_true, decide_eq_true_eq]
        exact ⟨⟨h1, h2⟩, ih h3 (by omega)⟩

/-- A write keeps the canonical form. -/
theorem Mem.wf_write {m : Mem} (a : Nat) (v : Byte) (h : m.wf = true) : (m.write a v).wf = true :=
  Mem.wfFrom_write v h (Nat.zero_le a)

/-- Writing a run of bytes keeps the canonical form. -/
theorem Mem.wf_writeBytes {m : Mem} (a : Nat) (bs : Bytes) (h : m.wf = true) : (m.writeBytes a bs).wf = true := by
  induction bs generalizing m a with
  | nil => exact h
  | cons b bs ih => exact ih (a + 1) (Mem.wf_write a b h)

theorem Mem.wfFrom_filter {m : Mem} {lo : Nat} (p : Nat × Byte → Bool) (h : Mem.wfFrom lo m = true) :
    Mem.wfFrom lo (List.filter p m) = true := by
  induction m generalizing lo with
  | nil => rfl
  | cons c t ih =>
    obtain ⟨j, b⟩ := c
    simp only [Mem.wfFrom, Bool.and_eq_true, decide_eq_true_eq] at h
    obtain ⟨⟨h1, h2⟩, h3⟩ := h
    by_cases hp : p (j, b)
    · rw [List.filter_cons_of_pos hp]
      simp only [Mem.wfFrom, Bool.and_eq_true, decide_eq_true_eq]
      exact ⟨⟨h1, h2⟩, ih h3⟩
    · rw [List.filter_cons_of_neg hp]
      exact Mem.wfFrom_weaken (ih h3) (by omega)

/-- Zeroising a range keeps the canonical form. -/
theorem Mem.wf_zeroRange {m : Mem} (a n : Nat) (h : m.wf = true) : (m.zeroRange a n).wf = true :=
  Mem.wfFrom_filter _ h

/-! ### Reading a memory -/

theorem Mem.read_of_lt {m : Mem} {lo a : Nat} (h : Mem.wfFrom lo m = true) (ha : a < lo) : m.read a = 0 := by
  induction m generalizing lo with
  | nil => rfl
  | cons c t ih =>
    obtain ⟨j, b⟩ := c
    simp only [Mem.wfFrom, Bool.and_eq_true, decide_eq_true_eq] at h
    simp only [Mem.read]
    rw [if_neg (by omega)]
    exact ih h.2 (by omega)

/-- A byte written reads back. -/
theorem Mem.read_write_same {m : Mem} (a : Nat) (v : Byte) (h : m.wf = true) : (m.write a v).read a = v := by
  suffices H : ∀ lo, Mem.wfFrom lo m = true → (m.write a v).read a = v from H 0 h
  clear h
  induction m with
  | nil =>
    intro lo _
    simp only [Mem.write]
    split <;> simp [Mem.read, *]
  | cons c t ih =>
    obtain ⟨j, b⟩ := c
    intro lo h
    have h0 := h
    simp only [Mem.wfFrom, Bool.and_eq_true, decide_eq_true_eq] at h
    obtain ⟨⟨h1, h2⟩, h3⟩ := h
    simp only [Mem.write]
    split
    · split
      · rename_i hlt hv
        subst hv
        simp only [Mem.read]
        rw [if_neg (by omega)]
        exact Mem.read_of_lt h3 (by omega)
      · simp [Mem.read]
    · split
      · split
        · rename_i hv
          subst_vars
          exact Mem.read_of_lt h3 (by omega)
        · simp [Mem.read]
      · simp only [Mem.read]
        rw [if_neg ‹_›]
        exact ih _ h3

/-- A write leaves every other byte as it was. -/
theorem Mem.read_write_other (m : Mem) {a i : Nat} (v : Byte) (h : i ≠ a) : (m.write a v).read i = m.read i := by
  induction m with
  | nil =>
    simp only [Mem.write]
    split <;> simp [Mem.read, h]
  | cons c t ih =>
    obtain ⟨j, b⟩ := c
    simp only [Mem.write]
    split
    · split
      · rfl
      · simp [Mem.read, h]
    · split
      · split
        · subst_vars; simp [Mem.read, h]
        · subst_vars; simp [Mem.read, h]
      · simp [Mem.read, ih]

/-- A run of bytes written leaves every byte outside it as it was. -/
theorem Mem.read_writeBytes_outside (m : Mem) (a i : Nat) (bs : Bytes) (h : i < a ∨ a + bs.length ≤ i) :
    (m.writeBytes a bs).read i = m.read i := by
  induction bs generalizing m a with
  | nil => rfl
  | cons b bs ih =>
    simp only [List.length_cons] at h
    simp only [Mem.writeBytes]
    rw [ih (m.write a b) (a + 1) (by omega), Mem.read_write_other m b (by omega)]

/-- A run of bytes written reads back. -/
theorem Mem.read_writeBytes_inside {m : Mem} (a k : Nat) (bs : Bytes) (hm : m.wf = true) (h : k < bs.length) :
    (m.writeBytes a bs).read (a + k) = bs[k] := by
  induction bs generalizing m a k with
  | nil => simp at h
  | cons b bs ih =>
    simp only [Mem.writeBytes]
    cases k with
    | zero =>
      rw [Mem.read_writeBytes_outside _ _ _ _ (by omega)]
      simpa using Mem.read_write_same a b hm
    | succ k =>
      have := ih (m := m.write a b) (a + 1) k (Mem.wf_write a b hm) (by simpa using h)
      rw [show a + (k + 1) = a + 1 + k by omega]
      simpa using this

end Sys2Proof
end

