-- ==== Sys2Proof/Laws/Memory.lean ====
section
/-! SUPPORT. Every operation keeps the canonical form of every byte memory of the device: the scratchpad and loft bytes
of each die, and the cellar. One lemma for each operation over a die, the cellar or the state. -/

namespace Sys2Proof.Machine

/-- The memory of a die has the canonical form. -/
def Die.MemOk (d : Die) : Prop := d.mem.wf = true
/-- The memory of the cellar has the canonical form. -/
def Cellar.MemOk (c : Cellar) : Prop := c.mem.wf = true
/-- The memory of every die of a table has the canonical form. -/
def DiesOk (t : Tbl Die) : Prop := ∀ p ∈ t, p.2.MemOk
/-- Every byte memory of the device has the canonical form. -/
def State.MemOk (s : State) : Prop := DiesOk s.dies ∧ s.cellar.MemOk

theorem State.memWf_iff (s : State) : s.memWf = true ↔ s.MemOk := by
  simp only [State.memWf, Bool.and_eq_true, List.all_eq_true, State.MemOk, DiesOk, Cellar.MemOk, Die.MemOk]
  exact And.comm

@[simp] theorem Die.memOk_fold (d : Die) : d.mem.wf = true ↔ d.MemOk := Iff.rfl
@[simp] theorem Cellar.memOk_fold (c : Cellar) : c.mem.wf = true ↔ c.MemOk := Iff.rfl

@[simp] theorem Die.memOk_mk (a b c d e f g h i j k l m n o p q r s t u v w x y z a1 a2 a3 a4) :
    Die.MemOk (Die.mk a b c d e f g h i j k l m n o p q r s t u v w x y z a1 a2 a3 a4) ↔ c.wf = true := Iff.rfl
@[simp] theorem Cellar.memOk_mk (a b c d e f) : Cellar.MemOk (Cellar.mk a b c d e f) ↔ a.wf = true := Iff.rfl
@[simp] theorem State.memOk_mk (a b c d e f g h i j k l m n o) :
    State.MemOk (State.mk a b c d e f g h i j k l m n o) ↔ DiesOk d ∧ f.MemOk := Iff.rfl
/-- The dies of a good state. -/
@[simp] theorem State.MemOk.dies {s : State} (h : s.MemOk) : DiesOk s.dies := h.1
/-- The cellar of a good state. -/
@[simp] theorem State.MemOk.cellar {s : State} (h : s.MemOk) : s.cellar.MemOk := h.2

/-- A fold of an operation that keeps the form keeps it. -/
theorem memOk_foldl {α : Type} (f : State → α → State) (l : List α) (s : State) (hs : s.MemOk)
    (h : ∀ s x, s.MemOk → (f s x).MemOk) : (l.foldl f s).MemOk := by
  induction l generalizing s with
  | nil => exact hs
  | cons x l ih => exact ih _ (h _ _ hs)
/-- Either branch of a choice. -/
theorem memOk_choice {c : Prop} [Decidable c] {s t : State} (hs : s.MemOk) (ht : t.MemOk) : (if c then s else t).MemOk := by
  split <;> assumption
/-- The same over a pair whose state part keeps the form. -/
theorem memOk_foldl_fst {α β : Type} (f : State × β → α → State × β) (l : List α) (r : State × β) (hr : r.1.MemOk)
    (h : ∀ r x, r.1.MemOk → (f r x).1.MemOk) : (l.foldl f r).1.MemOk := by
  induction l generalizing r with
  | nil => exact hr
  | cons x l ih => exact ih _ (h _ _ hr)
/-- A fold over a die. -/
theorem dieOk_foldl {α : Type} (f : Die → α → Die) (l : List α) (d : Die) (hd : d.MemOk)
    (h : ∀ d x, d.MemOk → (f d x).MemOk) : (l.foldl f d).MemOk := by
  induction l generalizing d with
  | nil => exact hd
  | cons x l ih => exact ih _ (h _ _ hd)
/-- The same over a pair whose die part keeps the form. -/
theorem dieOk_foldl_fst {α β : Type} (f : Die × β → α → Die × β) (l : List α) (r : Die × β) (hr : r.1.MemOk)
    (h : ∀ r x, r.1.MemOk → (f r x).1.MemOk) : (l.foldl f r).1.MemOk := by
  induction l generalizing r with
  | nil => exact hr
  | cons x l ih => exact ih _ (h _ _ hr)
/-- A fold over the cellar. -/
theorem cellarOk_foldl {α : Type} (f : Cellar → α → Cellar) (l : List α) (c : Cellar) (hc : c.MemOk)
    (h : ∀ c x, c.MemOk → (f c x).MemOk) : (l.foldl f c).MemOk := by
  induction l generalizing c with
  | nil => exact hc
  | cons x l ih => exact ih _ (h _ _ hc)
/-- A fold over a byte memory. -/
theorem Mem.wf_foldl {α : Type} (f : Mem → α → Mem) (l : List α) (m : Mem) (hm : m.wf = true)
    (h : ∀ m x, m.wf = true → (f m x).wf = true) : (l.foldl f m).wf = true := by
  induction l generalizing m with
  | nil => exact hm
  | cons x l ih => exact ih _ (h _ _ hm)

@[simp] theorem Mem.wf_nil : Mem.wf [] = true := rfl
@[simp] theorem Die.memOk_default : Die.MemOk {} := rfl

/-- A table of good dies with a good one put in. -/
@[simp] theorem diesOk_put {t : Tbl Die} {n : Nat} {d : Die} (ht : DiesOk t) (hd : d.MemOk) :
    DiesOk (t.put n d) := Tbl.forall_put ht hd
/-- A table of good dies, each changed by an operation that keeps the form. -/
theorem diesOk_mapVals {t : Tbl Die} {f : Die → Die} (ht : DiesOk t) (hf : ∀ d, d.MemOk → (f d).MemOk) :
    DiesOk (t.mapVals f) := by
  intro p hp
  simp only [Tbl.mapVals, List.mem_map] at hp
  obtain ⟨q, hq, rfl⟩ := hp
  exact hf _ (ht q hq)
theorem setElem_wf {sh : Share} {m : Mem} {w : BitVec 128} {bits e v : Nat} (h : m.wf = true) :
    (setElem sh m w bits e v).wf = true :=
  Mem.wf_foldl _ _ _ h fun _ _ h => Mem.wf_write _ _ h
@[simp] theorem setElems_wf {sh : Share} {m : Mem} {w : BitVec 128} {bits : Nat} {xs : List (Nat × Nat)} (h : m.wf = true) :
    (setElems sh m w bits xs).wf = true :=
  Mem.wf_foldl _ _ _ h fun _ _ h => setElem_wf h
@[simp] theorem applyWrites_wf {m : Mem} {ws : List (Nat × Bytes)} (h : m.wf = true) : (applyWrites m ws).wf = true :=
  Mem.wf_foldl _ _ _ h fun _ _ h => Mem.wf_writeBytes _ _ h

@[simp] theorem State.memOk_ite (c : Prop) [Decidable c] (a b : State) :
    (if c then a else b).MemOk ↔ (c → a.MemOk) ∧ (¬c → b.MemOk) := by split <;> simp [*]
@[simp] theorem Die.memOk_ite (c : Prop) [Decidable c] (a b : Die) :
    (if c then a else b).MemOk ↔ (c → a.MemOk) ∧ (¬c → b.MemOk) := by split <;> simp [*]
@[simp] theorem State.memOk_ite_fst {β : Type} (c : Prop) [Decidable c] (a b : State × β) :
    (if c then a else b).1.MemOk ↔ (c → a.1.MemOk) ∧ (¬c → b.1.MemOk) := by split <;> simp [*]
@[simp] theorem State.memOk_reset : State.reset.MemOk := State.memWf_iff _ |>.1 rfl
@[simp] theorem DiesOk_nil : DiesOk [] := fun _ h => nomatch h

@[simp] theorem State.cellar_memOk (self : State) (h : self.MemOk) :
    (State.cellar self).MemOk := by
  simp (maxDischargeDepth := 40) [h]
@[simp] theorem Die.setBank_memOk (d : Die) (b : Nat) (x : Bank) (hd : d.MemOk) :
    (Die.setBank d b x).MemOk := by
  simp (maxDischargeDepth := 40) [Die.setBank, hd]
@[simp] theorem Die.setVec_memOk (d : Die) (u : Nat) (x : List VecJob) (hd : d.MemOk) :
    (Die.setVec d u x).MemOk := by
  simp (maxDischargeDepth := 40) [Die.setVec, hd]
@[simp] theorem Die.wakeAll_memOk (d : Die) (ks : List Nat) (hd : d.MemOk) :
    (Die.wakeAll d ks).MemOk := by
  simp (maxDischargeDepth := 40) [Die.wakeAll, hd]
@[simp] theorem Die.putTile_memOk (d : Die) (t : Tile) (hd : d.MemOk) :
    (Die.putTile d t).MemOk := by
  simp (maxDischargeDepth := 40) [Die.putTile, hd]
@[simp] theorem issuePass_memOk (sh : Share) (u : Nat) (d : Die) (c : Ctx) (s : Slice) (hd : d.MemOk) :
    (issuePass sh u d c s).1.MemOk := by
  simp (maxDischargeDepth := 40) [issuePass, hd]
@[simp] theorem issuePreload_memOk (sh : Share) (u : Nat) (d : Die) (c : Ctx) (s : Slice) (hd : d.MemOk) :
    (issuePreload sh u d c s).MemOk := by
  simp (maxDischargeDepth := 40) [issuePreload, hd]
@[simp] theorem issueVec_memOk (sh : Share) (tun : Nat) (d : Die) (c : Ctx) (s : Slice) (u : Nat) (pos : Nat) (bank : Bank) (expD : Option Int) (tile : Tile) (f : Nat) (hd : d.MemOk) :
    (issueVec sh tun d c s u pos bank expD tile f).MemOk := by
  simp (maxDischargeDepth := 40) [issueVec, hd]
@[simp] theorem issueDrainTile_memOk (sh : Share) (u : Nat) (d : Die) (c : Ctx) (s : Slice) (pos0 : Nat) (pos1 : Nat) (hd : d.MemOk) :
    (issueDrainTile sh u d c s pos0 pos1).1.MemOk := by
  simp (maxDischargeDepth := 40) [issueDrainTile, hd]
@[simp] theorem issueWork_memOk (sh : Share) (u : Nat) (d : Die) (c : Ctx) (s : Slice) (hd : d.MemOk) :
    (issueWork sh u d c s).1.MemOk := by
  unfold issueWork; dsimp only; (repeat' split) <;> simp (maxDischargeDepth := 40) [hd]
@[simp] theorem issueLaunches_memOk (u : Nat) (die : Nat) (ringOff : List Nat) (d : Die) (c : Ctx) (s : Slice) (voids : List Nat) (h : d.MemOk) :
    (issueLaunches u die ringOff d c s voids).1.MemOk := by
  unfold issueLaunches
  refine dieOk_foldl_fst _ _ _ h ?_
  intro r m h
  exact h
@[simp] theorem Die.hints_memOk (d : Die) (kept : List Nat) (s : Slice) (h : d.MemOk) :
    (Die.hints d kept s).MemOk := by
  unfold Die.hints
  refine dieOk_foldl _ _ _ h fun d i h => ?_
  dsimp only
  split <;> exact h
@[simp] theorem Die.gateAtSeal_memOk (d : Die) (kept : List Nat) (h : d.MemOk) :
    (Die.gateAtSeal d kept).MemOk := by
  simp (maxDischargeDepth := 40) [Die.gateAtSeal, h]
@[simp] theorem issueSlice_memOk (sh : Share) (u : Nat) (die : Nat) (ringOff : List Nat) (kept : List Nat) (d : Die) (c : Ctx) (s : Slice) (voids : List Nat) (h : d.MemOk) :
    (issueSlice sh u die ringOff kept d c s voids).1.MemOk := by
  unfold issueSlice; split <;> simp (maxDischargeDepth := 40) [h]
@[simp] theorem Die.setCtx_memOk (d : Die) (u : Nat) (c : Ctx) (hd : d.MemOk) :
    (Die.setCtx d u c).MemOk := by
  simp (maxDischargeDepth := 40) [Die.setCtx, hd]
@[simp] theorem Die.releaseTile_memOk (d : Die) (t : Tile) (hd : d.MemOk) :
    (Die.releaseTile d t).MemOk := by
  simp (maxDischargeDepth := 40) [Die.releaseTile, hd]
@[simp] theorem Die.dropTile_memOk (d : Die) (t : Tile) (hd : d.MemOk) :
    (Die.dropTile d t).MemOk := by
  simp (maxDischargeDepth := 40) [Die.dropTile, hd]
@[simp] theorem Die.finishTile_memOk (d : Die) (now : Nat) (t : Tile) (hs : d.MemOk) :
    (Die.finishTile d now t).1.MemOk := by
  simp (maxDischargeDepth := 40) [Die.finishTile, hs]
@[simp] theorem Die.upTo_memOk (d : Die) (c : Nat) (hd : d.MemOk) :
    (Die.upTo d c).MemOk := by
  simp (maxDischargeDepth := 40) [Die.upTo, hd]
@[simp] theorem Die.passEnds_memOk (d : Die) (b : Nat) (hd : d.MemOk) :
    (Die.passEnds d b).MemOk := by
  simp (maxDischargeDepth := 40) [Die.passEnds, hd]
@[simp] theorem Die.lastRow_memOk (d : Die) (b : Nat) (hs : d.MemOk) :
    (Die.lastRow d b).1.MemOk := by
  unfold Die.lastRow; dsimp only; (repeat' split) <;> simp (maxDischargeDepth := 40) [hs]
@[simp] theorem Die.vecDone_memOk (d : Die) (u : Nat) (hs : d.MemOk) :
    (Die.vecDone d u).1.MemOk := by
  unfold Die.vecDone; dsimp only; (repeat' split) <;> simp (maxDischargeDepth := 40) [hs]
@[simp] theorem redrain_memOk (sh : Share) (d : Die) (c : Ctx) (t : Tile) (e : LogEntry) (bank : Bank) (f : Nat) (hd : d.MemOk) :
    (redrain sh d c t e bank f).MemOk := by
  simp (maxDischargeDepth := 40) [redrain, hd]
@[simp] theorem Die.rebuild_memOk (sh : Share) (d : Die) (t : Tile) (times : List (Nat × LogEntry × Nat)) (hd : d.MemOk) :
    (Die.rebuild sh d t times).MemOk := by
  unfold Die.rebuild; dsimp only; (repeat' split) <;> simp (maxDischargeDepth := 40) [hd]
@[simp] theorem Die.replay_memOk (d : Die) (shOf : List (Nat × Share)) (hd : d.MemOk) :
    (Die.replay d shOf).MemOk := by
  simp (maxDischargeDepth := 40) +contextual [Die.replay, dieOk_foldl, hd]
@[simp] theorem Die.dropOpenJobs_memOk (d : Die) (hd : d.MemOk) :
    (Die.dropOpenJobs d).MemOk := by
  simp (maxDischargeDepth := 40) [Die.dropOpenJobs, hd]
@[simp] theorem Die.closeDelayed_memOk (d : Die) (t : Tile) (hs : d.MemOk) :
    (Die.closeDelayed d t).1.MemOk := by
  simp (maxDischargeDepth := 40) [Die.closeDelayed, hs]
@[simp] theorem Die.stat_memOk (d : Die) (u : Nat) (slot : Option Nat) (f : StatSlot → StatSlot) (hd : d.MemOk) :
    (Die.stat d u slot f).MemOk := by
  unfold Die.stat; split <;> simp (maxDischargeDepth := 40) [hd]
@[simp] theorem Die.recompute_memOk (sh : Share) (d : Die) (t : Tile) (hd : d.MemOk) :
    (Die.recompute sh d t).MemOk := by
  unfold Die.recompute; dsimp only; (repeat' split) <;> simp (maxDischargeDepth := 40) [hd]
@[simp] theorem Die.delayedEnd_memOk (sh : Share) (d : Die) (b : Nat) (h : d.MemOk) :
    (Die.delayedEnd sh d b).1.MemOk := by
  unfold Die.delayedEnd; dsimp only; (repeat' split) <;> simp (maxDischargeDepth := 40) [h]
@[simp] theorem Die.gateSpares_memOk (d : Die) (hd : d.MemOk) :
    (Die.gateSpares d).MemOk := by
  simp (maxDischargeDepth := 40) [Die.gateSpares, hd]
@[simp] theorem Die.columnFault_memOk (d : Die) (now : Nat) (col : Nat) (row : Nat) (h : d.MemOk) :
    (Die.columnFault d now col row).MemOk := by
  simp (maxDischargeDepth := 40) [Die.columnFault, h]
@[simp] theorem Die.faultOver_memOk (d : Die) (now : Nat) (f : ColFault) (rest : List ColFault) (shOf : List (Nat × Share)) (h : d.MemOk) :
    (Die.faultOver d now f rest shOf).MemOk := by
  simp (maxDischargeDepth := 40) [Die.faultOver, h]
@[simp] theorem Die.fenceArray_memOk (d : Die) (mismatch : Bool) (h : d.MemOk) :
    (Die.fenceArray d mismatch).MemOk := by
  simp (maxDischargeDepth := 40) [Die.fenceArray, h]
@[simp] theorem Die.columnTest_memOk (d : Die) (now : Nat) (col : Nat) (pass : Bool) (shOf : List (Nat × Share)) (h : d.MemOk) :
    (Die.columnTest d now col pass shOf).1.MemOk := by
  unfold Die.columnTest; (repeat' split) <;> simp (maxDischargeDepth := 40) [h]
/-- A die of a good state. -/
@[simp] theorem State.die_memOk {s : State} (n : Nat) (h : s.MemOk) : (s.die n).MemOk :=
  Tbl.get_of_forall (p := Die.MemOk) n h.1 Die.memOk_default
@[simp] theorem State.setDie_memOk {s : State} {n : Nat} {d : Die} (h : s.MemOk) (hd : d.MemOk) : (s.setDie n d).MemOk :=
  ⟨Tbl.forall_put h.1 hd, h.2⟩
@[simp] theorem State.setTun_memOk (s : State) (u : Nat) (t : Tun) (hs : s.MemOk) :
    (State.setTun s u t).MemOk := by
  simp (maxDischargeDepth := 40) [State.setTun, hs]
@[simp] theorem State.setCtx_memOk (s : State) (n : Nat) (u : Nat) (c : Ctx) (hs : s.MemOk) :
    (State.setCtx s n u c).MemOk := by
  simp (maxDischargeDepth := 40) [State.setCtx, hs]
@[simp] theorem State.setMac_memOk (s : State) (m : Nat) (x : Mac) (hs : s.MemOk) :
    (State.setMac s m x).MemOk := by
  simp (maxDischargeDepth := 40) [State.setMac, hs]
@[simp] theorem State.setLinkDir_memOk (s : State) (l : Nat) (dir : Nat) (x : LinkDir) (hs : s.MemOk) :
    (State.setLinkDir s l dir x).MemOk := by
  simp (maxDischargeDepth := 40) [State.setLinkDir, hs]
@[simp] theorem State.setFound_memOk (s : State) (n : Nat) (x : Found) (hs : s.MemOk) :
    (State.setFound s n x).MemOk := by
  simp (maxDischargeDepth := 40) [State.setFound, hs]
@[simp] theorem State.setLay_memOk (s : State) (u : Nat) (l : Option (BitVec 1024)) (hs : s.MemOk) :
    (State.setLay s u l).MemOk := by
  simp (maxDischargeDepth := 40) [State.setLay, hs]
@[simp] theorem State.draw_memOk (s : State) (hs : s.MemOk) :
    (State.draw s).MemOk := by
  simp (maxDischargeDepth := 40) [State.draw, hs]
@[simp] theorem State.random_memOk (s : State) (hs : s.MemOk) :
    (State.random s).2.MemOk := by
  simp (maxDischargeDepth := 40) [State.random, hs]
@[simp] theorem State.setEvents_memOk (s : State) (u : Nat) (r : Ring) (hs : s.MemOk) :
    (State.setEvents s u r).MemOk := by
  simp (maxDischargeDepth := 40) [State.setEvents, hs]
@[simp] theorem State.eventBytes_memOk (s : State) (u : Nat) (code : Nat) (args : Bytes) (hs : s.MemOk) :
    (State.eventBytes s u code args).MemOk := by
  simp (maxDischargeDepth := 40) [State.eventBytes, hs]
@[simp] theorem State.eventsBack_memOk (s : State) (u : Nat) (hs : s.MemOk) :
    (State.eventsBack s u).MemOk := by
  simp (maxDischargeDepth := 40) [State.eventsBack, hs]
@[simp] theorem State.event_memOk (s : State) (u : Nat) (code : Nat) (args : (List Nat)) (hs : s.MemOk) :
    (State.event s u code args).MemOk := by
  simp (maxDischargeDepth := 40) [State.event, hs]
@[simp] theorem State.setDeviceEvents_memOk (s : State) (r : Ring) (hs : s.MemOk) :
    (State.setDeviceEvents s r).MemOk := by
  simp (maxDischargeDepth := 40) [State.setDeviceEvents, hs]
@[simp] theorem State.deviceEventBytes_memOk (s : State) (code : Nat) (args : Bytes) (hs : s.MemOk) :
    (State.deviceEventBytes s code args).MemOk := by
  simp (maxDischargeDepth := 40) [State.deviceEventBytes, hs]
@[simp] theorem State.deviceEventsBack_memOk (s : State) (hs : s.MemOk) :
    (State.deviceEventsBack s).MemOk := by
  simp (maxDischargeDepth := 40) [State.deviceEventsBack, hs]
@[simp] theorem State.deviceEvent_memOk (s : State) (code : Nat) (args : (List Nat)) (hs : s.MemOk) :
    (State.deviceEvent s code args).MemOk := by
  simp (maxDischargeDepth := 40) [State.deviceEvent, hs]
@[simp] theorem State.commandDone_memOk (s : State) (u : Nat) (cmdSeq : BitVec 32) (status : Nat) (hs : s.MemOk) :
    (State.commandDone s u cmdSeq status).MemOk := by
  simp (maxDischargeDepth := 40) [State.commandDone, hs]
@[simp] theorem State.spoil_memOk (s : State) (n : Nat) (u : Nat) (hs : s.MemOk) :
    (State.spoil s n u).MemOk := by
  simp (maxDischargeDepth := 40) [State.spoil, hs]
@[simp] theorem State.spoilAll_memOk (s : State) (u : Nat) (hs : s.MemOk) :
    (State.spoilAll s u).MemOk := by
  simp (maxDischargeDepth := 40) +contextual [State.spoilAll, memOk_foldl, hs]
@[simp] theorem State.stopTun_memOk (s : State) (u : Nat) (hs : s.MemOk) :
    (State.stopTun s u).MemOk := by
  simp (maxDischargeDepth := 40) +contextual [State.stopTun, memOk_foldl, hs]
@[simp] theorem State.stopAll_memOk (s : State) (hs : s.MemOk) :
    (State.stopAll s).MemOk := by
  simp (maxDischargeDepth := 40) +contextual [State.stopAll, memOk_foldl, hs]
@[simp] theorem State.stopAllNow_memOk (s : State) (h : s.MemOk) : s.stopAllNow.MemOk := by
  simp [State.stopAllNow, State.stopAll_memOk s h]
@[simp] theorem State.programFault_memOk (s : State) (n : Nat) (u : Nat) (f : ProgFault) (hs : s.MemOk) :
    (State.programFault s n u f).MemOk := by
  simp (maxDischargeDepth := 40) [State.programFault, hs]
@[simp] theorem State.countFault_memOk (s : State) (cls : Nat) (die : Nat) (unit : Nat) (intNs : Nat) (hs : s.MemOk) :
    (State.countFault s cls die unit intNs).MemOk := by
  simp (maxDischargeDepth := 40) [State.countFault, hs]
@[simp] theorem State.fault_memOk (s : State) (cls : Nat) (die : Nat) (unit : Nat) (intNs : Nat) (hs : s.MemOk) :
    (State.fault s cls die unit intNs).MemOk := by
  unfold State.fault; dsimp only; (repeat' split) <;> simp (maxDischargeDepth := 40) [hs]
@[simp] theorem State.stopOnDie_memOk (s : State) (n : Nat) (hs : s.MemOk) :
    (State.stopOnDie s n).MemOk := by
  simp (maxDischargeDepth := 40) +contextual [State.stopOnDie, memOk_foldl, hs]
@[simp] theorem State.completeToken_memOk (s : State) (n : Nat) (u : Nat) (tok : Nat) (remote : Bool) (hs : s.MemOk) :
    (State.completeToken s n u tok remote).MemOk := by
  unfold State.completeToken; dsimp only; (repeat' split) <;> simp (maxDischargeDepth := 40) [hs]
@[simp] theorem State.putOut_memOk (s : State) (n : Nat) (r : DieOut) (h : s.MemOk) (hr : r.1.MemOk) : (s.putOut n r).MemOk := by
  unfold State.putOut
  split <;> simp [h, hr]
@[simp] theorem State.owe_memOk (s : State) (n : Nat) (u : Nat) (win : Nat) (writer : Nat) (hs : s.MemOk) :
    (State.owe s n u win writer).MemOk := by
  simp (maxDischargeDepth := 40) [State.owe, hs]
@[simp] theorem State.writeLocal_memOk (s : State) (n : Nat) (ws : List (Nat × Bytes)) (hs : s.MemOk) :
    (State.writeLocal s n ws).MemOk := by
  simp (maxDischargeDepth := 40) [State.writeLocal, hs]
@[simp] theorem State.setGroup_memOk (s : State) (pg : Nat) (g : ParityGroup) (hs : s.MemOk) :
    (State.setGroup s pg g).MemOk := by
  simp (maxDischargeDepth := 40) [State.setGroup, hs]
@[simp] theorem Cellar.adopt_memOk (c : Cellar) (key : Bytes) (tweak : Nat) (unit : Nat) (h : c.MemOk) :
    (Cellar.adopt c key tweak unit).MemOk := by
  unfold Cellar.adopt; dsimp only; (repeat' split) <;> simp (maxDischargeDepth := 40) +contextual [Mem.wf_writeBytes, h]
@[simp] theorem Cellar.claim_memOk (c : Cellar) (tweak : Nat) (unit : Nat) (h : c.MemOk) :
    (Cellar.claim c tweak unit).MemOk := by
  simp (maxDischargeDepth := 40) [Cellar.claim, h]
@[simp] theorem Cellar.write_memOk (c : Cellar) (key : Bytes) (tweak : Nat) (a : Nat) (b : Byte) (h : c.MemOk) :
    (Cellar.write c key tweak a b).MemOk := by
  simp (maxDischargeDepth := 40) +contextual [Cellar.write, Mem.wf_write, h]
@[simp] theorem Cellar.forget_memOk (c : Cellar) (u : Nat) (key : Bytes) (h : c.MemOk) :
    (Cellar.forget c u key).MemOk := by
  simp (maxDischargeDepth := 40) +contextual [Cellar.forget, cellarOk_foldl, Mem.wf_writeBytes, h]
@[simp] theorem State.openStripe_memOk (s : State) (l : Loc) (hs : s.MemOk) :
    (State.openStripe s l).MemOk := by
  simp (maxDischargeDepth := 40) [State.openStripe, hs]
@[simp] theorem State.cellarWrite_memOk (s : State) (u n off : Nat) (bs : Bytes) (h : s.MemOk) :
    (s.cellarWrite u n off bs).MemOk := by
  unfold State.cellarWrite
  extract_lets key whole s1 s2 a b
  have h1 : s1.MemOk := memOk_foldl _ _ _ h fun s o h => by
    split
    · exact ⟨h.1, Cellar.claim_memOk _ _ _ h.2⟩
    · exact h
  have h2 : s2.MemOk := memOk_foldl _ _ _ h1 fun s p h => by
    split
    · exact ⟨h.1, Cellar.write_memOk _ _ _ _ _ h.2⟩
    · exact h
  refine memOk_foldl _ _ _ h2 fun s i h => ?_
  (repeat' split) <;> simp [h]
@[simp] theorem State.fillStripes_memOk (s : State) (u : Nat) (hs : s.MemOk) :
    (State.fillStripes s u).MemOk := by
  simp (maxDischargeDepth := 40) +contextual [State.fillStripes, memOk_foldl, hs]
@[simp] theorem State.holdWrite_memOk (s : State) (n : Nat) (u : Nat) (ls : List Loc) (hs : s.MemOk) :
    (State.holdWrite s n u ls).MemOk := by
  simp (maxDischargeDepth := 40) +contextual [State.holdWrite, memOk_foldl, hs]
@[simp] theorem State.retryWrites_memOk (s : State) (hs : s.MemOk) :
    (State.retryWrites s).MemOk := by
  simp (maxDischargeDepth := 40) +contextual [State.retryWrites, memOk_foldl, dieOk_foldl, cellarOk_foldl, hs]
@[simp] theorem State.remoteWrite_memOk (s : State) (m u n off : Nat) (bs : Bytes) (hs : s.MemOk) :
    (State.remoteWrite s m u n off bs).MemOk := by
  simp (maxDischargeDepth := 40) [State.remoteWrite, hs]
@[simp] theorem State.heldReads_memOk (s : State) (m u n off len : Nat) (hs : s.MemOk) :
    (State.heldReads s m u n off len).MemOk := by
  simp (maxDischargeDepth := 40) [State.heldReads, hs]
@[simp] theorem State.noteReads_memOk (s : State) (u : Nat) (n : Nat) (off : Nat) (len : Nat) (hs : s.MemOk) :
    (State.noteReads s u n off len).MemOk := by
  simp (maxDischargeDepth := 40) [State.noteReads, hs]
@[simp] theorem State.fillTunRings_memOk (s : State) (u : Nat) (hs : s.MemOk) :
    (State.fillTunRings s u).MemOk := by
  simp (maxDischargeDepth := 40) [State.fillTunRings, hs]
@[simp] theorem State.handOver_memOk (s : State) (n : Nat) (u : Nat) (x : RackSeg) (hs : s.MemOk) :
    (State.handOver s n u x).MemOk := by
  simp (maxDischargeDepth := 40) [State.handOver, hs]
@[simp] theorem State.hubRack_memOk (s : State) (u : Nat) (x : RackSeg) (h : s.MemOk) :
    (State.hubRack s u x).MemOk := by
  simp (maxDischargeDepth := 40) [State.hubRack, h]
@[simp] theorem State.takeBuffered_memOk (s : State) (n : Nat) (u : Nat) (h : s.MemOk) :
    (State.takeBuffered s n u).MemOk := by
  simp (maxDischargeDepth := 40) [State.takeBuffered, h]
@[simp] theorem State.setCoder_memOk (s : State) (n : Nat) (u : Nat) (k : Coder) (hs : s.MemOk) :
    (State.setCoder s n u k).MemOk := by
  simp (maxDischargeDepth := 40) [State.setCoder, hs]
@[simp] theorem State.sendRack_memOk (s : State) (n : Nat) (u : Nat) (f : RkFields) (plain : Bytes) (hs : s.MemOk) :
    (State.sendRack s n u f plain).MemOk := by
  simp (maxDischargeDepth := 40) [State.sendRack, hs]
@[simp] theorem State.closeCoder_memOk (s : State) (n : Nat) (u : Nat) (hs : s.MemOk) :
    (State.closeCoder s n u).MemOk := by
  simp (maxDischargeDepth := 40) [State.closeCoder, hs]
@[simp] theorem State.codeBlock_memOk (s : State) (n : Nat) (u : Nat) (entry : Nat) (first : Nat) (xor : Bytes) (last : Bool) (hs : s.MemOk) :
    (State.codeBlock s n u entry first xor last).MemOk := by
  simp (maxDischargeDepth := 40) [State.codeBlock, hs]
@[simp] theorem State.codeUnchanged_memOk (s : State) (n u entry first k blocks : Nat) (h : s.MemOk) :
    (s.codeUnchanged n u entry first k blocks).MemOk := by
  induction k generalizing s first blocks with
  | zero => exact h
  | succ k ih => cases blocks <;> simp (maxDischargeDepth := 40) [State.codeUnchanged, ih, h]
@[simp] theorem State.ackOne_memOk (s : State) (u : Nat) (x : RackSeg) (hs : s.MemOk) :
    (State.ackOne s u x).MemOk := by
  simp (maxDischargeDepth := 40) [State.ackOne, hs]
@[simp] theorem State.abandonRack_memOk (s : State) (u : Nat) (hs : s.MemOk) :
    (State.abandonRack s u).MemOk := by
  simp (maxDischargeDepth := 40) +contextual [State.abandonRack, memOk_foldl, hs]
@[simp] theorem State.sendHistory_memOk (s : State) (u : Nat) (hs : s.MemOk) :
    (State.sendHistory s u).MemOk := by
  simp (maxDischargeDepth := 40) +contextual [State.sendHistory, memOk_foldl, hs]
@[simp] theorem State.setUpd_memOk (s : State) (n : Nat) (u : Nat) (x : UpdCtx) (hs : s.MemOk) :
    (State.setUpd s n u x).MemOk := by
  simp (maxDischargeDepth := 40) [State.setUpd, hs]
@[simp] theorem State.lateRead_memOk (s : State) (n : Nat) (u : Nat) (entry : Nat) (b : Nat) (payload : CaskPiece → Bytes) (hs : s.MemOk) :
    (State.lateRead s n u entry b payload).MemOk := by
  simp (maxDischargeDepth := 40) [State.lateRead, hs]
@[simp] theorem State.lateSlot_memOk (s : State) (n : Nat) (u : Nat) (entry : Nat) (payload : CaskPiece → Bytes) (hs : s.MemOk) :
    (State.lateSlot s n u entry payload).MemOk := by
  simp (maxDischargeDepth := 40) [State.lateSlot, hs]
@[simp] theorem State.noteBlock_memOk (s : State) (n u : Nat) (e : BitVec 512) (b : Nat) (hs : s.MemOk) :
    (State.noteBlock s n u e b).MemOk := by
  simp (maxDischargeDepth := 40) +contextual [State.noteBlock, memOk_foldl, dieOk_foldl, cellarOk_foldl, hs]
@[simp] theorem State.updateBlock_memOk (s : State) (n u entry b : Nat) (gs : List Word32) (last : Bool) (hs : s.MemOk) :
    (State.updateBlock s n u entry b gs last).MemOk := by
  unfold State.updateBlock; dsimp only
  apply State.codeBlock_memOk
  split <;> split <;> simp (maxDischargeDepth := 40) [hs]
@[simp] theorem State.blockAcked_memOk (s : State) (n : Nat) (u : Nat) (entry : Nat) (b : Nat) (hs : s.MemOk) :
    (State.blockAcked s n u entry b).MemOk := by
  unfold State.blockAcked; dsimp only; (repeat' split) <;> simp (maxDischargeDepth := 40) [hs]
@[simp] theorem State.forwardGranary_memOk (s : State) (n : Nat) (u : Nat) (entry : Nat) (e : BitVec 512) (g : GradSegment) (blocks : List Nat) (h : s.MemOk) :
    (State.forwardGranary s n u entry e g blocks).MemOk := by
  simp (maxDischargeDepth := 40) [State.forwardGranary, h]
@[simp] theorem State.forwardDone_memOk (s : State) (n : Nat) (u : Nat) (h : s.MemOk) :
    (State.forwardDone s n u).MemOk := by
  unfold State.forwardDone; dsimp only; (repeat' split) <;> simp (maxDischargeDepth := 40) [h]
@[simp] theorem State.noteSegWait_memOk (s : State) (n : Nat) (u : Nat) (why : Nat) (h : s.MemOk) :
    (State.noteSegWait s n u why).MemOk := by
  simp (maxDischargeDepth := 40) [State.noteSegWait, h]
@[simp] theorem State.applyBlocks_memOk (s : State) (n u : Nat) (g : GradSegment) (p : Nat × BitVec 512) (bs : List Nat)
    (h : s.MemOk) : (s.applyBlocks n u g p bs).1.MemOk := by
  induction bs generalizing s with
  | nil => exact h
  | cons b bs ih => unfold State.applyBlocks; (repeat' split) <;> simp [ih, h]
@[simp] theorem State.applyEntry_memOk (s : State) (n u : Nat) (g : GradSegment) (p : Nat × BitVec 512) (h : s.MemOk) :
    (s.applyEntry n u g p).1.MemOk := by
  unfold State.applyEntry
  extract_lets e x bs keys k st s1
  have h1 : s1.MemOk := State.setUpd_memOk _ _ _ _ h
  clear_value s1
  (repeat' split) <;> simp [h, h1]
@[simp] theorem State.applyEntries_memOk (s : State) (n u : Nat) (g : GradSegment) (ps : List (Nat × BitVec 512)) (h : s.MemOk) :
    (s.applyEntries n u g ps).1.MemOk := by
  induction ps generalizing s with
  | nil => exact h
  | cons p ps ih =>
    have k := State.applyEntry_memOk s n u g p h
    unfold State.applyEntries
    split <;> rename_i heq <;> rw [heq] at k
    · exact k
    · exact ih _ k
@[simp] theorem State.discardSegment_memOk (s : State) (n : Nat) (u : Nat) (g : GradSegment) (ps : List (Nat × BitVec 512)) (h : s.MemOk) :
    (State.discardSegment s n u g ps).MemOk := by
  simp (maxDischargeDepth := 40) [State.discardSegment, h]
@[simp] theorem State.contradicted_memOk (s : State) (n : Nat) (u : Nat) (g : GradSegment) (ps : List (Nat × BitVec 512)) (h : s.MemOk) :
    (State.contradicted s n u g ps).MemOk := by
  simp (maxDischargeDepth := 40) [State.contradicted, h]
@[simp] theorem State.takeSegment_memOk (s : State) (n u due : Nat) (g : GradSegment) (h : s.MemOk) :
    (s.takeSegment n u due g).1.MemOk := by
  unfold State.takeSegment
  extract_lets x ps seen given r y0 y1 emb y2 s1
  have hr : r.1.MemOk := by unfold r; split <;> simp [h]
  have h1 : s1.MemOk := State.setUpd_memOk _ _ _ _ hr
  clear_value s1 r
  (repeat' split) <;> simp [h, hr, h1]
@[simp] theorem State.foldSketch.factorSegments_memOk (s : State) (n u tensor : Nat) (bs : Bytes) (off k : Nat) (h : s.MemOk) :
    (State.foldSketch.factorSegments s n u tensor bs off k).MemOk := by
  induction k generalizing s bs off with
  | zero => exact h
  | succ k ih => unfold State.foldSketch.factorSegments; split <;> simp [ih, h]
@[simp] theorem State.foldSketch_memOk (s : State) (n u entry : Nat) (sums : List Word32 × Word32) (h : s.MemOk) :
    (s.foldSketch n u entry sums).MemOk := by
  unfold State.foldSketch
  dsimp only
  refine State.foldSketch.factorSegments_memOk _ _ _ _ _ _ _ (State.closeCoder_memOk _ _ _ (State.cellarWrite_memOk _ _ _ _ _ ?_))
  split <;> simp (maxDischargeDepth := 40) [h]
@[simp] theorem State.freezeEntry_memOk (s : State) (n : Nat) (u : Nat) (g : Nat) (entry : Nat) (h : s.MemOk) :
    (State.freezeEntry s n u g entry).MemOk := by
  simp (maxDischargeDepth := 40) +contextual [State.freezeEntry, memOk_foldl, h]
@[simp] theorem State.freezeCopies_memOk (s : State) (n u : Nat) (h : s.MemOk) : (s.freezeCopies n u).MemOk := by
  unfold State.freezeCopies
  extract_lets g r
  have k : r.1.MemOk := memOk_foldl_fst _ _ _ h fun r entry h => by dsimp only; (repeat' split) <;> simp [h]
  clear_value r
  simp [k]
@[simp] theorem State.rackFrozen_memOk (s : State) (n : Nat) (u : Nat) (hs : s.MemOk) :
    (State.rackFrozen s n u).MemOk := by
  simp (maxDischargeDepth := 40) +contextual [State.rackFrozen, memOk_foldl, hs]
@[simp] theorem State.stepClosed_memOk (s : State) (n : Nat) (u : Nat) (nonfinite : Bool) (hs : s.MemOk) :
    (State.stepClosed s n u nonfinite).MemOk := by
  simp (maxDischargeDepth := 40) [State.stepClosed, hs]
@[simp] theorem State.giveVote_memOk (s : State) (u : Nat) (hs : s.MemOk) :
    (State.giveVote s u).MemOk := by
  simp (maxDischargeDepth := 40) +contextual [State.giveVote, memOk_foldl, hs]
@[simp] theorem State.takeGravity_memOk (s : State) (u : Nat) (v : VoteData) (hs : s.MemOk) :
    (State.takeGravity s u v).MemOk := by
  simp (maxDischargeDepth := 40) [State.takeGravity, hs]
@[simp] theorem State.voteSpoiled_memOk (s : State) (u : Nat) (nf : Bool) (hs : s.MemOk) :
    (State.voteSpoiled s u nf).MemOk := by
  simp (maxDischargeDepth := 40) [State.voteSpoiled, hs]
@[simp] theorem State.startLag_memOk (s : State) (u : Nat) (h : s.MemOk) :
    (State.startLag s u).MemOk := by
  simp (maxDischargeDepth := 40) [State.startLag, h]
@[simp] theorem State.voteDelivered_memOk (s : State) (u : Nat) (v : VoteData) (hs : s.MemOk) :
    (State.voteDelivered s u v).MemOk := by
  simp (maxDischargeDepth := 40) [State.voteDelivered, hs]
@[simp] theorem State.silentEvents_memOk (s : State) (u : Nat) (step : Nat) (hs : s.MemOk) :
    (State.silentEvents s u step).MemOk := by
  simp (maxDischargeDepth := 40) +contextual [State.silentEvents, memOk_foldl, hs]
@[simp] theorem State.planCasks_memOk (s : State) (u : Nat) (attempt : Nat) (h : s.MemOk) :
    (State.planCasks s u attempt).MemOk := by
  simp (maxDischargeDepth := 40) [State.planCasks, h]
@[simp] theorem State.sendLayout_memOk (s : State) (u : Nat) (shards : List (BitVec 256)) (hs : s.MemOk) :
    (State.sendLayout s u shards).MemOk := by
  simp (maxDischargeDepth := 40) +contextual [State.sendLayout, memOk_foldl, hs]
@[simp] theorem State.noteSlots_memOk (s : State) (n u : Nat) (hs : s.MemOk) :
    (State.noteSlots s n u).MemOk := by
  simp (maxDischargeDepth := 40) +contextual [State.noteSlots, memOk_foldl, dieOk_foldl, cellarOk_foldl, hs]
@[simp] theorem Die.clearBanks_memOk (d : Die) (u : Nat) (h : d.MemOk) :
    (Die.clearBanks d u).MemOk := by
  simp (maxDischargeDepth := 40) [Die.clearBanks, h]
@[simp] theorem Die.freshStream_memOk (d : Die) (u : Nat) (h : d.MemOk) :
    (Die.freshStream d u).MemOk := by
  simp (maxDischargeDepth := 40) [Die.freshStream, h]
@[simp] theorem State.keepPieces_memOk (s : State) (u : Nat) (h : s.MemOk) :
    (State.keepPieces s u).MemOk := by
  simp (maxDischargeDepth := 40) [State.keepPieces, h]
@[simp] theorem State.relay_memOk (s : State) (u : Nat) (pkg : LayoutPackage) (hs : s.MemOk) :
    (State.relay s u pkg).MemOk := by
  unfold State.relay; dsimp only
  split <;> (try apply State.stopTun_memOk) <;> apply State.setTun_memOk <;>
    exact memOk_foldl _ _ _ (memOk_foldl _ _ _ (memOk_foldl _ _ _ (by simp (maxDischargeDepth := 40) [hs]) fun s n h => by simp (maxDischargeDepth := 40) [h])
      fun s n h => by simp (maxDischargeDepth := 40) [h]) fun s n h => by simp (maxDischargeDepth := 40) [h]
@[simp] theorem State.watchBung_memOk (s : State) (u : Nat) (step : Nat) (h : s.MemOk) :
    (State.watchBung s u step).MemOk := by
  simp (maxDischargeDepth := 40) +contextual [State.watchBung, memOk_foldl, h]
@[simp] theorem State.endRacking_memOk (s : State) (u : Nat) (hist : Bool) (h : s.MemOk) :
    (State.endRacking s u hist).MemOk := by
  simp (maxDischargeDepth := 40) +contextual [State.endRacking, memOk_foldl, h]
@[simp] theorem State.digestStep_memOk (s : State) (u : Nat) (step : Nat) (on : Bool) (h : s.MemOk) :
    (State.digestStep s u step on).MemOk := by
  simp (maxDischargeDepth := 40) [State.digestStep, h]
@[simp] theorem State.driveBung_memOk (s : State) (u : Nat) (hs : s.MemOk) :
    (State.driveBung s u).MemOk := by
  unfold State.driveBung; dsimp only; (repeat' split) <;> simp (maxDischargeDepth := 40) [hs]
@[simp] theorem State.outcomeClean_memOk (s : State) (n : Nat) (u : Nat) (hs : s.MemOk) :
    (State.outcomeClean s n u).MemOk := by
  simp (maxDischargeDepth := 40) [State.outcomeClean, hs]
@[simp] theorem State.outcomeSpoiled_memOk (s : State) (n : Nat) (u : Nat) (hs : s.MemOk) :
    (State.outcomeSpoiled s n u).MemOk := by
  simp (maxDischargeDepth := 40) [State.outcomeSpoiled, hs]
@[simp] theorem State.putRecords_memOk (s : State) (u : Nat) (n : Nat) (ws : List PermWrite) (h : s.MemOk) :
    (State.putRecords s u n ws).MemOk := by
  simp (maxDischargeDepth := 40) +contextual [State.putRecords, memOk_foldl, h]
@[simp] theorem State.reloadFactors_memOk (s : State) (n u : Nat) (hs : s.MemOk) :
    (State.reloadFactors s n u).MemOk := by
  simp (maxDischargeDepth := 40) [State.reloadFactors, hs]
@[simp] theorem State.compareDigests_memOk (s : State) (u : Nat) (hs : s.MemOk) :
    (State.compareDigests s u).MemOk := by
  simp (maxDischargeDepth := 40) +contextual [State.compareDigests, memOk_foldl, dieOk_foldl, cellarOk_foldl, hs]
@[simp] theorem State.setDebt_memOk (s : State) (n : Nat) (u : Nat) (x : Nat) (hs : s.MemOk) :
    (State.setDebt s n u x).MemOk := by
  simp (maxDischargeDepth := 40) [State.setDebt, hs]
@[simp] theorem State.setSlice_memOk (s : State) (n : Nat) (x : SliceState) (hs : s.MemOk) :
    (State.setSlice s n x).MemOk := by
  simp (maxDischargeDepth := 40) [State.setSlice, hs]
@[simp] theorem Die.clearLeft_memOk (d : Die) (u : Nat) (h : d.MemOk) :
    (Die.clearLeft d u).MemOk := by
  simp (maxDischargeDepth := 40) [Die.clearLeft, h]
@[simp] theorem State.switchIn_memOk (s : State) (n : Nat) (u : Nat) (i : Nat) (start : Nat) (nominal : Nat) (target : Nat) (hs : s.MemOk) :
    (State.switchIn s n u i start nominal target).MemOk := by
  simp (maxDischargeDepth := 40) [State.switchIn, hs]
@[simp] theorem State.idleDie_memOk (s : State) (n : Nat) (i : Nat) (nominal : Nat) (hs : s.MemOk) :
    (State.idleDie s n i nominal).MemOk := by
  simp (maxDischargeDepth := 40) [State.idleDie, hs]
@[simp] theorem State.runPooled_memOk (s : State) (n start last : Nat) (l : List (Nat × Nat × Nat)) (h : s.MemOk) :
    (s.runPooled n start last l).MemOk := by
  induction l generalizing s with
  | nil => simp [State.runPooled, h]
  | cons x l ih => unfold State.runPooled; dsimp only; (repeat' split) <;> simp (maxDischargeDepth := 40) [ih, h]
@[simp] theorem State.runSealed_memOk (s : State) (n : Nat) (base : Nat) (start : Nat) (l : List (Nat × Nat)) (i : Nat) (hs : s.MemOk) :
    (State.runSealed s n base start l i).MemOk := by
  unfold State.runSealed; split <;> simp (maxDischargeDepth := 40) [hs]
@[simp] theorem State.runPlan_memOk (s : State) (n : Nat) (base : Nat) (start : Nat) (i : Nat) (hs : s.MemOk) :
    (State.runPlan s n base start i).MemOk := by
  simp (maxDischargeDepth := 40) [State.runPlan, hs]
@[simp] theorem State.nextSlice_memOk (s : State) (n : Nat) (stop : Nat) (hs : s.MemOk) :
    (State.nextSlice s n stop).MemOk := by
  simp (maxDischargeDepth := 40) [State.nextSlice, hs]
@[simp] theorem State.sliceStop_memOk (s : State) (n : Nat) (u : Nat) (stop : Nat) (hs : s.MemOk) :
    (State.sliceStop s n u stop).MemOk := by
  simp (maxDischargeDepth := 40) [State.sliceStop, hs]
@[simp] theorem State.sealPassed_memOk (s : State) (n : Nat) (u : Nat) (hs : s.MemOk) :
    (State.sealPassed s n u).MemOk := by
  simp (maxDischargeDepth := 40) [State.sealPassed, hs]
@[simp] theorem State.bushelOn_memOk (s : State) (n : Nat) (k : Nat) (hs : s.MemOk) :
    (State.bushelOn s n k).MemOk := by
  simp (maxDischargeDepth := 40) [State.bushelOn, hs]
@[simp] theorem State.sealedEnd_memOk (s : State) (n : Nat) (hs : s.MemOk) :
    (State.sealedEnd s n).MemOk := by
  unfold State.sealedEnd; dsimp only; (repeat' split) <;> simp (maxDischargeDepth := 40) [hs]
@[simp] theorem State.logRepair_memOk (s : State) (type : Nat) (body : BitVec 192) (hs : s.MemOk) :
    (State.logRepair s type body).MemOk := by
  simp (maxDischargeDepth := 40) [State.logRepair, hs]
@[simp] theorem State.queueRow_memOk (s : State) (n : Nat) (r : RowRepair) (hs : s.MemOk) :
    (State.queueRow s n r).MemOk := by
  simp (maxDischargeDepth := 40) [State.queueRow, hs]
@[simp] theorem State.copyRows_memOk (s : State) (n : Nat) (u : Nat) (hs : s.MemOk) :
    (State.copyRows s n u).MemOk := by
  simp (maxDischargeDepth := 40) +contextual [State.copyRows, memOk_foldl, hs]
@[simp] theorem State.noteUe_memOk (s : State) (u : Nat) (key : Nat) (hs : s.MemOk) :
    (State.noteUe s u key).1.MemOk := by
  simp (maxDischargeDepth := 40) [State.noteUe, hs]
@[simp] theorem Die.putMov_memOk (d : Die) (j : MovJob) (hd : d.MemOk) :
    (Die.putMov d j).MemOk := by
  simp (maxDischargeDepth := 40) [Die.putMov, hd]
@[simp] theorem Die.dropMov_memOk (d : Die) (u : Nat) (slot : Nat) (hd : d.MemOk) :
    (Die.dropMov d u slot).MemOk := by
  simp (maxDischargeDepth := 40) [Die.dropMov, hd]
@[simp] theorem State.sendPages_memOk (s : State) (n : Nat) (j : MovJob) (h : s.MemOk) :
    (State.sendPages s n j).MemOk := by
  simp (maxDischargeDepth := 40) [State.sendPages, h]
@[simp] theorem State.fillPages_memOk (s : State) (h : s.MemOk) :
    (State.fillPages s).MemOk := by
  simp (maxDischargeDepth := 40) +contextual [State.fillPages, memOk_foldl, h]
@[simp] theorem State.retile_memOk (s : State) (n : Nat) (j : MovJob) (hs : s.MemOk) :
    (State.retile s n j).MemOk := by
  simp (maxDischargeDepth := 40) [State.retile, hs]
@[simp] theorem State.copyLines_memOk (s : State) (n : Nat) (j : MovJob) (hs : s.MemOk) :
    (State.copyLines s n j).MemOk := by
  unfold State.copyLines; dsimp only; (repeat' split) <;> simp (maxDischargeDepth := 40) +contextual [memOk_foldl, hs]
@[simp] theorem State.noteSource_memOk (s : State) (n : Nat) (j : MovJob) (hs : s.MemOk) :
    (State.noteSource s n j).MemOk := by
  simp (maxDischargeDepth := 40) +contextual [State.noteSource, memOk_foldl, dieOk_foldl, cellarOk_foldl, hs]
@[simp] theorem State.movTokens_memOk (s : State) (n : Nat) (j : MovJob) (hs : s.MemOk) :
    (State.movTokens s n j).MemOk := by
  unfold State.movTokens; dsimp only; (repeat' split) <;> simp (maxDischargeDepth := 40) [hs]
@[simp] theorem State.deliverFar_memOk (s : State) (n : Nat) (u : Nat) (slot : Nat) (hs : s.MemOk) :
    (State.deliverFar s n u slot).MemOk := by
  unfold State.deliverFar; split <;> simp (maxDischargeDepth := 40) [hs]
@[simp] theorem State.movComplete_memOk (s : State) (n : Nat) (u : Nat) (slot : Nat) (hs : s.MemOk) :
    (State.movComplete s n u slot).MemOk := by
  unfold State.movComplete; split <;> simp (maxDischargeDepth := 40) [hs]
@[simp] theorem State.hostFails_memOk (s : State) (n : Nat) (u : Nat) (place : Nat) (unit : Nat) (h : s.MemOk) :
    (State.hostFails s n u place unit).MemOk := by
  simp (maxDischargeDepth := 40) [State.hostFails, h]
@[simp] theorem State.forwardReturn_memOk (s : State) (n u : Nat) (hs : s.MemOk) :
    (State.forwardReturn s n u).MemOk := by
  unfold State.forwardReturn; dsimp only; (repeat' split) <;> simp (maxDischargeDepth := 40) [hs]
@[simp] theorem State.flushReturn_memOk (s : State) (n : Nat) (u : Nat) (slot : Nat) (hs : s.MemOk) :
    (State.flushReturn s n u slot).MemOk := by
  unfold State.flushReturn; split <;> simp (maxDischargeDepth := 40) [hs]
@[simp] theorem State.noteHeldPages_memOk (s : State) (u : Nat) (hs : s.MemOk) :
    (State.noteHeldPages s u).MemOk := by
  simp (maxDischargeDepth := 40) [State.noteHeldPages, hs]
@[simp] theorem State.pageReturn_memOk (s : State) (n u slot page : Nat) (ct : Bytes) (tagRec : BitVec 256) (err : Bool) (hs : s.MemOk) :
    (State.pageReturn s n u slot page ct tagRec err).MemOk := by
  unfold State.pageReturn; dsimp only; (repeat' split) <;> simp (maxDischargeDepth := 40) +contextual [memOk_foldl, dieOk_foldl, cellarOk_foldl, hs]
@[simp] theorem State.contribute_memOk (s : State) (n : Nat) (u : Nat) (c : Nat) (xs : List (Nat × Nat)) (hs : s.MemOk) :
    (State.contribute s n u c xs).1.MemOk := by
  unfold State.contribute; dsimp only; (repeat' split) <;> simp (maxDischargeDepth := 40) [hs]
@[simp] theorem State.flushSketch_memOk (s : State) (n : Nat) (u : Nat) (b : Nat) (h : s.MemOk) :
    (State.flushSketch s n u b).MemOk := by
  unfold State.flushSketch; dsimp only; (repeat' split) <;> simp (maxDischargeDepth := 40) +contextual [memOk_foldl, h]
@[simp] theorem State.moveOut_memOk (s : State) (u : Nat) (c : Nat) (first : Nat) (codes : List Nat) (scales : List Nat) (bs : Nat) (hs : s.MemOk) :
    (State.moveOut s u c first codes scales bs).MemOk := by
  simp (maxDischargeDepth := 40) [State.moveOut, hs]
@[simp] theorem State.regenerate_memOk (s : State) (n : Nat) (u : Nat) (entry : Nat) (base : Nat) (first : Nat) (count : Nat) (h : s.MemOk) :
    (State.regenerate s n u entry base first count).1.MemOk := by
  simp (maxDischargeDepth := 40) [State.regenerate, h]
@[simp] theorem State.pieceTaken_memOk (s : State) (n : Nat) (u : Nat) (j : MovJob) (start : Nat) (k : Nat) (hs : s.MemOk) :
    (State.pieceTaken s n u j start k).1.MemOk := by
  unfold State.pieceTaken; dsimp only; (repeat' split) <;> simp (maxDischargeDepth := 40) [hs]
@[simp] theorem State.releaseBucket_memOk (s : State) (u : Nat) (b : Nat) (hs : s.MemOk) :
    (State.releaseBucket s u b).MemOk := by
  simp (maxDischargeDepth := 40) [State.releaseBucket, hs]
@[simp] theorem State.bucketMarker_memOk (s : State) (u : Nat) (b : Nat) (hs : s.MemOk) :
    (State.bucketMarker s u b).MemOk := by
  simp (maxDischargeDepth := 40) [State.bucketMarker, hs]
@[simp] theorem State.bucketClosed_memOk (s : State) (n : Nat) (u : Nat) (b : Nat) (hs : s.MemOk) :
    (State.bucketClosed s n u b).MemOk := by
  simp (maxDischargeDepth := 40) [State.bucketClosed, hs]
@[simp] theorem State.slotTake_memOk (s : State) (n u slot : Nat) (h : s.MemOk) : (s.slotTake n u slot).MemOk := by
  unfold State.slotTake
  cases (s.die n).mov u slot with
  | none => exact h
  | some j =>
    dsimp only
    split
    · exact h
    · split
      · exact State.setTun_memOk _ _ _ (State.draw_memOk _ h)
      · split
        · exact h
        · split
          · rename_i heq
            have k := (congrArg (fun r => r.1.MemOk) heq).mp (State.pieceTaken_memOk _ _ _ _ _ _ (State.noteSource_memOk _ _ _ h))
            simp (maxDischargeDepth := 40) [k]
          · rename_i heq
            have k := (congrArg (fun r => r.1.MemOk) heq).mp (State.pieceTaken_memOk _ _ _ _ _ _ (State.noteSource_memOk _ _ _ h))
            clear heq
            (repeat' split) <;> simp (maxDischargeDepth := 40) [k]
@[simp] theorem State.deliverSeg_memOk (s : State) (u : Nat) (r : BitVec 128) (e : BitVec 256) (x : Seg) (h : s.MemOk) :
    (s.deliverSeg u r e x).MemOk := by
  unfold State.deliverSeg
  dsimp only
  refine State.setDie_memOk h (Mem.wf_foldl _ _ _ (setElems_wf (s.die_memOk _ h)) fun m p h => Mem.wf_write _ _ h)
@[simp] theorem State.deliver_memOk (s : State) (u : Nat) (rec : Nat) (hs : s.MemOk) :
    (State.deliver s u rec).MemOk := by
  unfold State.deliver; dsimp only; (repeat' split) <;> simp (maxDischargeDepth := 40) +contextual [memOk_foldl, hs]
@[simp] theorem State.segmentIn_memOk (s : State) (u : Nat) (c : Nat) (src : Nat) (round : Nat) (first : Nat) (codes : List Nat) (scales : List Nat) (rows : List Nat) (nf : Bool) (last : Bool) (bs : Nat) (h : s.MemOk) :
    (State.segmentIn s u c src round first codes scales rows nf last bs).MemOk := by
  unfold State.segmentIn; dsimp only; (repeat' split) <;> simp (maxDischargeDepth := 40) [h]
@[simp] theorem State.noteStall_memOk (s : State) (n : Nat) (u : Nat) (sl : Slice) (w : Wait) (hs : s.MemOk) :
    (State.noteStall s n u sl w).MemOk := by
  simp (maxDischargeDepth := 40) [State.noteStall, hs]
@[simp] theorem State.waitCycle_memOk (s : State) (n : Nat) (u : Nat) (w : Wait) (hs : s.MemOk) :
    (State.waitCycle s n u w).MemOk := by
  simp (maxDischargeDepth := 40) [State.waitCycle, hs]
@[simp] theorem State.issued_memOk (s : State) (n u : Nat) (sl : Slice) (voids far : List Nat) (nonfinite : Bool) (h : s.MemOk) :
    (s.issued n u sl voids far nonfinite).MemOk := by
  unfold State.issued
  extract_lets t again t1 t2 t3 s1 s2 s3 s4 s5 s6
  have h2 : s2.MemOk := memOk_foldl _ _ _ (State.setTun_memOk _ _ _ h) fun s m h => by simp [h]
  have h3 : s3.MemOk := by unfold s3; split <;> simp [h2]
  have h4 : s4.MemOk := by unfold s4; split <;> simp [h3]
  have h5 : s5.MemOk := by unfold s5; split <;> simp [h4]
  have h6 : s6.MemOk := by unfold s6; split <;> simp [h5]
  split <;> simp [h6]
@[simp] theorem State.issueNow_memOk (s : State) (n : Nat) (u : Nat) (sl : Slice) (hs : s.MemOk) :
    (State.issueNow s n u sl).MemOk := by
  simp (maxDischargeDepth := 40) [State.issueNow, hs]
@[simp] theorem State.sliceCommand_memOk (s : State) (n : Nat) (names : Slice → Bool) (hs : s.MemOk) :
    (State.sliceCommand s n names).MemOk := by
  unfold State.sliceCommand; dsimp only; (repeat' split) <;> simp (maxDischargeDepth := 40) [hs]
@[simp] theorem State.logArray_memOk (s : State) (n : Nat) (hs : s.MemOk) :
    (State.logArray s n).MemOk := by
  simp (maxDischargeDepth := 40) [State.logArray, hs]
@[simp] theorem State.suspend_memOk (s : State) (n : Nat) (hs : s.MemOk) :
    (State.suspend s n).MemOk := by
  simp (maxDischargeDepth := 40) [State.suspend, hs]
@[simp] theorem State.suspendDies_memOk (s : State) (us : List Nat) (hs : s.MemOk) : (State.suspendDies s us).MemOk :=
  memOk_foldl _ _ _ hs fun _ _ h => State.suspend_memOk _ _ h
@[simp] theorem State.columnStops_memOk (s : State) (n : Nat) (col : Nat) (row : Nat) (hs : s.MemOk) :
    (State.columnStops s n col row).MemOk := by
  simp (maxDischargeDepth := 40) [State.columnStops, hs]
@[simp] theorem State.arrayLost_memOk (s : State) (n : Nat) (unit : Nat) (hs : s.MemOk) :
    (State.arrayLost s n unit).MemOk := by
  simp (maxDischargeDepth := 40) [State.arrayLost, hs]
@[simp] theorem State.columnTested_memOk (s : State) (n : Nat) (col : Nat) (ok : Bool) (hs : s.MemOk) :
    (State.columnTested s n col ok).MemOk := by
  unfold State.columnTested; dsimp only; (repeat' split) <;> simp (maxDischargeDepth := 40) [hs]
@[simp] theorem State.delayedEnds_memOk (s : State) (n : Nat) (b : Nat) (hs : s.MemOk) :
    (State.delayedEnds s n b).MemOk := by
  unfold State.delayedEnds; split <;> simp (maxDischargeDepth := 40) [hs]
@[simp] theorem State.idleGates_memOk (s : State) (n : Nat) (cycles : Nat) (kind : GateReq) (hs : s.MemOk) :
    (State.idleGates s n cycles kind).MemOk := by
  unfold State.idleGates; dsimp only; (repeat' split) <;> simp (maxDischargeDepth := 40) [hs]
@[simp] theorem State.ackRing_memOk (s : State) (u : Nat) (k : Nat) (idx : Nat) (hs : s.MemOk) :
    (State.ackRing s u k idx).MemOk := by
  simp (maxDischargeDepth := 40) +contextual [State.ackRing, memOk_foldl, hs]
@[simp] theorem State.sendCommit_memOk (s : State) (u : Nat) (hs : s.MemOk) :
    (State.sendCommit s u).MemOk := by
  unfold State.sendCommit; dsimp only; (repeat' split) <;> simp (maxDischargeDepth := 40) [hs]
@[simp] theorem State.putSlot_memOk (s : State) (u : Nat) (x : RackSeg) (hs : s.MemOk) :
    (State.putSlot s u x).MemOk := by
  simp (maxDischargeDepth := 40) [State.putSlot, hs]
@[simp] theorem State.commitPiece_memOk (s : State) (u : Nat) (p : CaskPiece) (hs : s.MemOk) :
    (State.commitPiece s u p).MemOk := by
  simp (maxDischargeDepth := 40) [State.commitPiece, hs]
@[simp] theorem State.endEvaluation_memOk (s : State) (u : Nat) (c : EvalCask) (h : s.MemOk) :
    (State.endEvaluation s u c).MemOk := by
  simp (maxDischargeDepth := 40) [State.endEvaluation, h]
@[simp] theorem State.sendChunk_memOk (s : State) (u : Nat) (p : CaskPiece) (hs : s.MemOk) :
    (State.sendChunk s u p).MemOk := by
  simp (maxDischargeDepth := 40) [State.sendChunk, hs]
@[simp] theorem State.evalLocal_memOk (s : State) (u : Nat) (h : s.MemOk) : (s.evalLocal u).MemOk := by
  unfold State.evalLocal
  split
  · exact h
  · exact memOk_foldl _ _ _ h fun s x h => by simp [h]
@[simp] theorem State.caskRead_memOk (s : State) (n : Nat) (u : Nat) (hs : s.MemOk) :
    (State.caskRead s n u).MemOk := by
  unfold State.caskRead; dsimp only; (repeat' split) <;> simp (maxDischargeDepth := 40) [hs]
@[simp] theorem State.measure_memOk (s : State) (i : Nat) (bs : Bytes) (hs : s.MemOk) :
    (State.measure s i bs).MemOk := by
  simp (maxDischargeDepth := 40) [State.measure, hs]
@[simp] theorem State.sigFailed_memOk (s : State) (hs : s.MemOk) :
    (State.sigFailed s).MemOk := by
  simp (maxDischargeDepth := 40) [State.sigFailed, hs]
@[simp] theorem Die.zeroise_memOk (d : Die) (u : Nat) (sh : Share) (hd : d.MemOk) :
    (Die.zeroise d u sh).MemOk := by
  simp (maxDischargeDepth := 40) +contextual [Die.zeroise, Mem.wf_zeroRange, hd]
@[simp] theorem State.tearDownTun_memOk (s : State) (u : Nat) (hs : s.MemOk) :
    (State.tearDownTun s u).MemOk := by
  simp (maxDischargeDepth := 40) +contextual [State.tearDownTun, memOk_foldl, hs]
@[simp] theorem State.tampered_memOk (s : State) (h : s.MemOk) :
    (State.tampered s).MemOk := by
  simp (maxDischargeDepth := 40) +contextual [State.tampered, memOk_foldl, h]
@[simp] theorem State.expose_memOk (s : State) (pg : Nat) (hs : s.MemOk) :
    (State.expose s pg).MemOk := by
  simp (maxDischargeDepth := 40) +contextual [State.expose, memOk_foldl, hs]
@[simp] theorem State.groupLost_memOk (s : State) (pg : Nat) (die : Nat) (unit : Nat) (hs : s.MemOk) :
    (State.groupLost s pg die unit).MemOk := by
  simp (maxDischargeDepth := 40) +contextual [State.groupLost, memOk_foldl, hs]
@[simp] theorem Die.fenceAll_memOk (d : Die) (dark : Bool) (hd : d.MemOk) :
    (Die.fenceAll d dark).MemOk := by
  simp (maxDischargeDepth := 40) [Die.fenceAll, hd]
@[simp] theorem State.linkOff_memOk (s : State) (l : Nat) (hs : s.MemOk) :
    (State.linkOff s l).MemOk := by
  simp (maxDischargeDepth := 40) +contextual [State.linkOff, memOk_foldl, hs]
@[simp] theorem State.darkGroup_memOk (s : State) (n : Nat) (hs : s.MemOk) :
    (State.darkGroup s n).MemOk := by
  unfold State.darkGroup; split <;> simp (maxDischargeDepth := 40) [hs]
@[simp] theorem State.loseDie_memOk (s : State) (n : Nat) (cause : Nat) (dark : Bool) (hs : s.MemOk) :
    (State.loseDie s n cause dark).MemOk := by
  simp (maxDischargeDepth := 40) [State.loseDie, hs]
@[simp] theorem State.commitStops_memOk (s : State) (unit : Nat) (hs : s.MemOk) :
    (State.commitStops s unit).MemOk := by
  simp (maxDischargeDepth := 40) [State.commitStops, hs]
@[simp] theorem State.commitLost_memOk (s : State) (unit : Nat) (hs : s.MemOk) :
    (State.commitLost s unit).MemOk := by
  unfold State.commitLost; split
  · exact hs
  · simp (maxDischargeDepth := 40) [hs]
@[simp] theorem State.absorbed_memOk (s : State) (cls : Nat) (die : Nat) (unit : Nat) (hs : s.MemOk) :
    (State.absorbed s cls die unit).MemOk := by
  simp (maxDischargeDepth := 40) [State.absorbed, hs]
@[simp] theorem State.handle_memOk (s : State) (cls : Nat) (die : Nat) (unit : Nat) (u : Option Nat) (hs : s.MemOk) :
    (State.handle s cls die unit u).MemOk := by
  unfold State.handle; dsimp only; (repeat' split) <;> simp (maxDischargeDepth := 40) +contextual [memOk_foldl, hs]
@[simp] theorem State.handleHeld_memOk (s : State) (r : HeldReport) (hs : s.MemOk) :
    (State.handleHeld s r).MemOk := by
  unfold State.handleHeld; split <;> simp (maxDischargeDepth := 40) [hs]
@[simp] theorem State.report_memOk (s : State) (owner : Nat) (unit : Nat) (cls : Nat) (u : Option Nat) (hs : s.MemOk) :
    (State.report s owner unit cls u).MemOk := by
  unfold State.report; split <;> simp (maxDischargeDepth := 40) [hs]
@[simp] theorem Die.stop_memOk (d : Die) (hd : d.MemOk) :
    (Die.stop d).MemOk := by
  simp (maxDischargeDepth := 40) [Die.stop, hd]
@[simp] theorem State.hubEngines_memOk (s : State) (f : Keeper → Keeper) (hs : s.MemOk) :
    (State.hubEngines s f).MemOk := by
  simp (maxDischargeDepth := 40) [State.hubEngines, hs]
@[simp] theorem State.dropCoders_memOk (s : State) (n : Nat) (h : s.MemOk) :
    (State.dropCoders s n).MemOk := by
  simp (maxDischargeDepth := 40) +contextual [State.dropCoders, memOk_foldl, h]
@[simp] theorem State.emergencyStop_memOk (s : State) (cause : Nat) (hs : s.MemOk) :
    (State.emergencyStop s cause).MemOk := by
  simp (maxDischargeDepth := 40) +contextual [State.emergencyStop, memOk_foldl, hs]
@[simp] theorem State.voidMovs_memOk (s : State) (n : Nat) (hs : s.MemOk) :
    (State.voidMovs s n).MemOk := by
  simp (maxDischargeDepth := 40) +contextual [State.voidMovs, memOk_foldl, hs]
@[simp] theorem State.voidVecs_memOk (s : State) (n u : Nat) (h : s.MemOk) : (s.voidVecs n u).MemOk := by
  unfold State.voidVecs
  exact memOk_foldl _ _ _ h fun s x h => by (repeat' split) <;> simp (maxDischargeDepth := 40) [h]
@[simp] theorem State.resumeDie_memOk (s : State) (n : Nat) (ns : Nat) (hs : s.MemOk) :
    (State.resumeDie s n ns).MemOk := by
  simp (maxDischargeDepth := 40) [State.resumeDie, hs]
@[simp] theorem State.releaseStop_memOk (s : State) (ns : Nat) (byBmc : Bool) (hs : s.MemOk) :
    (State.releaseStop s ns byBmc).MemOk := by
  simp (maxDischargeDepth := 40) +contextual [State.releaseStop, memOk_foldl, hs]
@[simp] theorem State.powerOff_memOk (s : State) (h : s.MemOk) :
    (State.powerOff s).MemOk := by
  simp (maxDischargeDepth := 40) +contextual [State.powerOff, diesOk_mapVals, h]
@[simp] theorem Die.deepIdle_memOk (d : Die) (hd : d.MemOk) :
    (Die.deepIdle d).MemOk := by
  simp (maxDischargeDepth := 40) [Die.deepIdle]
@[simp] theorem State.enterDeepIdle_memOk (s : State) (hs : s.MemOk) :
    (State.enterDeepIdle s).MemOk := by
  simp (maxDischargeDepth := 40) +contextual [State.enterDeepIdle, diesOk_mapVals, hs]
@[simp] theorem Die.fromIdle_memOk (d : Die) (rec' : Nat → StepRecord) (hd : d.MemOk) :
    (Die.fromIdle d rec').MemOk := by
  simp (maxDischargeDepth := 40) [Die.fromIdle, hd]
@[simp] theorem State.leaveDeepIdle_memOk (s : State) (hs : s.MemOk) :
    (State.leaveDeepIdle s).MemOk := by
  simp (maxDischargeDepth := 40) +contextual [State.leaveDeepIdle, diesOk_mapVals, hs]
@[simp] theorem Die.dark_memOk (d : Die) (hd : d.MemOk) :
    (Die.dark d).MemOk := by
  simp (maxDischargeDepth := 40) [Die.dark]
@[simp] theorem State.pullPrepare_memOk (s : State) (hs : s.MemOk) :
    (State.pullPrepare s).MemOk := by
  simp (maxDischargeDepth := 40) +contextual [State.pullPrepare, diesOk_mapVals, hs]
@[simp] theorem State.countMac_memOk (s : State) (m : Nat) (i : Nat) (n : Nat) (hs : s.MemOk) :
    (State.countMac s m i n).MemOk := by
  simp (maxDischargeDepth := 40) [State.countMac, hs]
@[simp] theorem State.countMacs_memOk (s : State) (m : Nat) (is : List Nat) (hs : s.MemOk) :
    (State.countMacs s m is).MemOk := by
  simp (maxDischargeDepth := 40) +contextual [State.countMacs, memOk_foldl, hs]
@[simp] theorem State.rxFrame_memOk (s : State) (m : Nat) (len : Nat) (mcast : Bool) (is : List Nat) (hs : s.MemOk) :
    (State.rxFrame s m len mcast is).MemOk := by
  simp (maxDischargeDepth := 40) [State.rxFrame, hs]
@[simp] theorem State.txFrames_memOk (s : State) (m : Nat) (n : Nat) (len : Nat) (hs : s.MemOk) :
    (State.txFrames s m n len).MemOk := by
  simp (maxDischargeDepth := 40) [State.txFrames, hs]
@[simp] theorem State.discardFrame_memOk (s : State) (m : Nat) (f : Bytes) (fcsOk : Bool) (hs : s.MemOk) :
    (State.discardFrame s m f fcsOk).MemOk := by
  simp (maxDischargeDepth := 40) [State.discardFrame, hs]
@[simp] theorem State.holdTx_memOk (s : State) (m : Nat) (old : Tbl Nat) (hs : s.MemOk) :
    (State.holdTx s m old).MemOk := by
  unfold State.holdTx; dsimp only; (repeat' split) <;> simp (maxDischargeDepth := 40) [hs]
@[simp] theorem State.setPauses_memOk (s : State) (m : Nat) (ps : Tbl Nat) (hs : s.MemOk) :
    (State.setPauses s m ps).MemOk := by
  simp (maxDischargeDepth := 40) [State.setPauses, hs]
@[simp] theorem State.pauseMac_memOk (s : State) (m : Nat) (qs : List (Nat × Nat)) (hs : s.MemOk) :
    (State.pauseMac s m qs).MemOk := by
  simp (maxDischargeDepth := 40) [State.pauseMac, hs]
@[simp] theorem State.setPtp_memOk (s : State) (p : Ptp) (hs : s.MemOk) :
    (State.setPtp s p).MemOk := by
  simp (maxDischargeDepth := 40) [State.setPtp, hs]
@[simp] theorem State.planRefused_memOk (s : State) (g : GaugePlan) (why : Nat) (m : Nat) (hs : s.MemOk) :
    (State.planRefused s g why m).MemOk := by
  simp (maxDischargeDepth := 40) [State.planRefused, hs]
@[simp] theorem State.applyDelta_memOk (s : State) (rank : Nat) (m : Nat) (hs : s.MemOk) :
    (State.applyDelta s rank m).MemOk := by
  unfold State.applyDelta; dsimp only; (repeat' split) <;> simp (maxDischargeDepth := 40) [hs]
@[simp] theorem State.setWidth_memOk (s : State) (m lanes from' : Nat) (hs : s.MemOk) :
    (State.setWidth s m lanes from').MemOk := by
  simp (maxDischargeDepth := 40) [State.setWidth, hs]
@[simp] theorem State.rekey_memOk (s : State) (hs : s.MemOk) :
    (State.rekey s).MemOk := by
  simp (maxDischargeDepth := 40) +contextual [State.rekey, memOk_foldl, dieOk_foldl, cellarOk_foldl, hs]
@[simp] theorem State.sendCtlFrame_memOk (s : State) (m len : Nat) (f : TFrame) (hs : s.MemOk) :
    (State.sendCtlFrame s m len f).MemOk := by
  simp (maxDischargeDepth := 40) [State.sendCtlFrame, hs]
@[simp] theorem State.sendPooled1_memOk (s : State) (m : Nat) (p : Nat × CtlMsg) (hs : s.MemOk) :
    (State.sendPooled1 s m p).MemOk := by
  simp (maxDischargeDepth := 40) [State.sendPooled1, hs]
theorem State.sendPooled_memOk (m : Nat) (ps : List (Nat × CtlMsg)) (s : State) (hs : s.MemOk) : (State.sendPooled m ps s).1.MemOk := by
  induction ps generalizing s with
  | nil => exact hs
  | cons p ps ih =>
    unfold State.sendPooled
    split
    · exact ih _ (State.sendPooled1_memOk _ _ _ hs)
    · exact hs
@[simp] theorem State.flushCtl_memOk (s : State) (m : Nat) (hs : s.MemOk) :
    (State.flushCtl s m).MemOk := by
  unfold State.flushCtl; dsimp only
  split
  · simp (maxDischargeDepth := 40) [hs]
  · exact State.setMac_memOk _ _ _ (State.sendPooled_memOk m _ s hs)
@[simp] theorem State.txControls_memOk (s : State) (m : Nat) (ps : List (Nat × CtlMsg)) (hs : s.MemOk) :
    (State.txControls s m ps).MemOk := by
  simp (maxDischargeDepth := 40) [State.txControls, hs]
@[simp] theorem State.txControl_memOk (s : State) (m u : Nat) (x : CtlMsg) (hs : s.MemOk) :
    (State.txControl s m u x).MemOk := by
  simp (maxDischargeDepth := 40) [State.txControl, hs]
@[simp] theorem State.sealedFrame_memOk (s : State) (m u : Nat) (hs : s.MemOk) :
    (State.sealedFrame s m u).MemOk := by
  simp (maxDischargeDepth := 40) [State.sealedFrame, hs]
@[simp] theorem State.sendPtp_memOk (s : State) (m len : Nat) (hs : s.MemOk) :
    (State.sendPtp s m len).MemOk := by
  simp (maxDischargeDepth := 40) [State.sendPtp, hs]
@[simp] theorem State.countSent_memOk (s : State) (m : Nat) (x : Sent) (h : s.MemOk) :
    (State.countSent s m x).MemOk := by
  simp (maxDischargeDepth := 40) [State.countSent, h]
@[simp] theorem State.countPeck_memOk (s : State) (m : Nat) (hs : s.MemOk) :
    (State.countPeck s m).MemOk := by
  unfold State.countPeck; dsimp only
  split
  · exact hs
  · next p _ =>
    have h := memOk_foldl (fun (s : State) x => s.countSent m x) p.run.reverse s hs fun s x h => by simp (maxDischargeDepth := 40) [h]
    split <;> split <;> simp (maxDischargeDepth := 40) [h, -List.foldl_reverse]
@[simp] theorem State.failPort_memOk (s : State) (m : Nat) (hs : s.MemOk) :
    (State.failPort s m).MemOk := by
  unfold State.failPort; dsimp only
  split
  · exact hs
  · apply State.deviceEvent_memOk
    apply memOk_choice
    · apply State.absorbed_memOk
      apply State.deviceEvent_memOk
      split
      · exact memOk_foldl _ _ _ (by simp (maxDischargeDepth := 40) [hs]) fun s m h => by simp (maxDischargeDepth := 40) [h]
      · simp (maxDischargeDepth := 40) [hs]
    · simp (maxDischargeDepth := 40) [hs]
@[simp] theorem State.portFails_memOk (s : State) (m : Nat) (why : PortFault) (hs : s.MemOk) :
    (State.portFails s m why).MemOk := by
  simp (maxDischargeDepth := 40) [State.portFails, hs]
@[simp] theorem State.sendLldp_memOk (s : State) (m : Nat) (hs : s.MemOk) :
    (State.sendLldp s m).MemOk := by
  simp (maxDischargeDepth := 40) [State.sendLldp, hs]
@[simp] theorem State.spendCredits_memOk (s : State) (u : Nat) (spent : Tbl Nat) (hs : s.MemOk) :
    (State.spendCredits s u spent).MemOk := by
  simp (maxDischargeDepth := 40) [State.spendCredits, hs]
@[simp] theorem State.sendIn_memOk (s : State) (m u kind e : Nat) (p : PeckRoom) (hs : s.MemOk) :
    (State.sendIn s m u kind e p).1.MemOk := by
  simp (maxDischargeDepth := 40) [State.sendIn, hs]
@[simp] theorem State.sendControls_memOk (s : State) (m : Nat) (u : Nat) (h : s.MemOk) :
    (State.sendControls s m u).MemOk := by
  simp (maxDischargeDepth := 40) +contextual [State.sendControls, memOk_foldl, h]
@[simp] theorem State.unsend_memOk (s : State) (m : Nat) (x : Sent) (n : Nat) (h : s.MemOk) :
    (State.unsend s m x n).MemOk := by
  simp (maxDischargeDepth := 40) [State.unsend, h]
@[simp] theorem State.takeBack_memOk (s : State) (m : Nat) (xs : List Sent) (h : s.MemOk) : (s.takeBack m xs).1.MemOk := by
  induction xs generalizing s with
  | nil => exact h
  | cons x xs ih => unfold State.takeBack; dsimp only; (repeat' split) <;> simp [ih, h]
@[simp] theorem State.fillPeck_memOk (s : State) (m before : Nat) (hs : s.MemOk) :
    (State.fillPeck s m before).MemOk := by
  unfold State.fillPeck; dsimp only
  split
  · exact hs
  · split
    · exact hs
    · exact State.setMac_memOk _ _ _ (memOk_foldl_fst _ _ _ (State.takeBack_memOk _ _ _ hs) fun r x h => State.sendIn_memOk _ _ _ _ _ _ h)
@[simp] theorem State.repeck_memOk (s : State) (m : Nat) (hs : s.MemOk) :
    (State.repeck s m).MemOk := by
  unfold State.repeck; (repeat' split) <;> simp (maxDischargeDepth := 40) [hs]
@[simp] theorem State.haltPecks_memOk (s : State) (hs : s.MemOk) :
    (State.haltPecks s).MemOk := by
  unfold State.haltPecks
  refine memOk_foldl _ _ _ hs fun s m h => ?_
  split <;> simp (maxDischargeDepth := 40) [h]
@[simp] theorem State.paused_memOk (s : State) (m : Nat) (qs : List (Nat × Nat)) (h : s.MemOk) :
    (State.paused s m qs).MemOk := by
  simp (maxDischargeDepth := 40) [State.paused, h]
@[simp] theorem State.peckStart_memOk (s : State) (m i : Nat) (hs : s.MemOk) :
    (State.peckStart s m i).MemOk := by
  unfold State.peckStart; dsimp only; (repeat' split) <;> simp (maxDischargeDepth := 40) [hs]
@[simp] theorem State.peckEnd_memOk (s : State) (m : Nat) (hs : s.MemOk) :
    (State.peckEnd s m).MemOk := by
  unfold State.peckEnd; dsimp only; (repeat' split) <;> simp (maxDischargeDepth := 40) [hs]
@[simp] theorem State.gaugeTurn_memOk (s : State) (n : Nat) (hs : s.MemOk) :
    (State.gaugeTurn s n).MemOk := by
  unfold State.gaugeTurn; dsimp only
  split
  · exact hs
  · split
    · refine memOk_foldl _ _ _ (by simp (maxDischargeDepth := 40) [hs]) fun s m h => ?_
      apply State.setMac_memOk
      split
      · exact h
      · split <;> simp (maxDischargeDepth := 40) [h]
    · exact hs
@[simp] theorem State.rxMessage_memOk (s : State) (m : Nat) (u : Nat) (payload : Nat) (src : Option Nat) (hs : s.MemOk) :
    (State.rxMessage s m u payload src).1.MemOk := by
  simp (maxDischargeDepth := 40) [State.rxMessage, hs]
theorem State.received_memOk (s : State) (m u payload src : Nat) (act : State → State) (hs : s.MemOk)
    (ha : ∀ s, s.MemOk → (act s).MemOk) : (s.received m u payload src act).MemOk := by
  unfold State.received; dsimp only
  split
  · exact hs
  · split
    · exact ha _ (State.rxMessage_memOk _ _ _ _ _ hs)
    · exact State.rxMessage_memOk _ _ _ _ _ hs
@[simp] theorem State.ackRack_memOk (s : State) (u : Nat) (mine : RackSeg → Bool) (hs : s.MemOk) :
    (State.ackRack s u mine).MemOk := by
  simp (maxDischargeDepth := 40) +contextual [State.ackRack, memOk_foldl, dieOk_foldl, cellarOk_foldl, hs]
@[simp] theorem State.takeAck_memOk (s : State) (m u : Nat) (src : Peer) (kind status first more : Nat) (hs : s.MemOk) :
    (State.takeAck s m u src kind status first more).MemOk := by
  unfold State.takeAck; dsimp only; (repeat' split) <;> simp (maxDischargeDepth := 40) [hs]
@[simp] theorem State.collSegment_memOk (s : State) (u : Nat) (src : Nat) (p : Partial) (hs : s.MemOk) :
    (State.collSegment s u src p).MemOk := by
  simp (maxDischargeDepth := 40) [State.collSegment, hs]
@[simp] theorem State.repaired_memOk (s : State) (u : Nat) (h : s.MemOk) :
    (State.repaired s u).MemOk := by
  simp (maxDischargeDepth := 40) [State.repaired, h]
@[simp] theorem State.permuted_memOk (s : State) (u : Nat) (p : Partial) (hs : s.MemOk) :
    (State.permuted s u p).MemOk := by
  simp (maxDischargeDepth := 40) [State.permuted, hs]
@[simp] theorem State.segmentDone_memOk (s : State) (m u : Nat) (p : Partial) (hs : s.MemOk) :
    (State.segmentDone s m u p).MemOk := by
  unfold State.segmentDone; dsimp only; (repeat' split) <;> simp (maxDischargeDepth := 40) [hs]
@[simp] theorem State.staleAck_memOk (s : State) (m u src kind seq : Nat) (hs : s.MemOk) :
    (State.staleAck s m u src kind seq).MemOk := by
  simp (maxDischargeDepth := 40) [State.staleAck, hs]
@[simp] theorem State.dataFrame_memOk (s : State) (m : Nat) (h : BitVec 256) (payload : Bytes) (hs : s.MemOk) :
    (State.dataFrame s m h payload).MemOk := by
  simp (maxDischargeDepth := 40) [State.dataFrame, hs]
@[simp] theorem State.timedOut_memOk (s : State) (m : Nat) (hs : s.MemOk) :
    (State.timedOut s m).MemOk := by
  simp (maxDischargeDepth := 40) [State.timedOut, hs]
@[simp] theorem State.resendDue_memOk (s : State) (m u dest kind seq : Nat) (hs : s.MemOk) :
    (State.resendDue s m u dest kind seq).MemOk := by
  unfold State.resendDue; dsimp only; (repeat' split) <;> simp (maxDischargeDepth := 40) [hs]
@[simp] theorem State.dropPartial_memOk (s : State) (m : Nat) (u : Nat) (src : Nat) (kind : Nat) (seq : Nat) (hs : s.MemOk) :
    (State.dropPartial s m u src kind seq).MemOk := by
  unfold State.dropPartial; dsimp only; (repeat' split) <;> simp (maxDischargeDepth := 40) [hs]
@[simp] theorem State.setKeeper_memOk (s : State) (k : Nat) (x : Keeper) (hs : s.MemOk) :
    (State.setKeeper s k x).MemOk := by
  simp (maxDischargeDepth := 40) [State.setKeeper, hs]
@[simp] theorem State.hubSettle_memOk (s : State) (hs : s.MemOk) :
    (State.hubSettle s).MemOk := by
  simp (maxDischargeDepth := 40) [State.hubSettle, hs]
@[simp] theorem State.badFlit_memOk (s : State) (l : Nat) (dir : Nat) (g : Nat) (seq : Nat) (hs : s.MemOk) :
    (State.badFlit s l dir g seq).MemOk := by
  simp (maxDischargeDepth := 40) [State.badFlit, hs]
@[simp] theorem State.acceptFlit_memOk (s : State) (l dir g kind : Nat) (f : BitVec 64) (payload : Bytes) (hs : s.MemOk) :
    (State.acceptFlit s l dir g kind f payload).1.MemOk := by
  simp (maxDischargeDepth := 40) [State.acceptFlit, hs]
@[simp] theorem State.takeFlit_memOk (s : State) (l dir g kind : Nat) (f : BitVec 64) (payload : Bytes) (hs : s.MemOk) :
    (State.takeFlit s l dir g kind f payload).1.MemOk := by
  simp (maxDischargeDepth := 40) [State.takeFlit, hs]
@[simp] theorem State.returnCredits_memOk (s : State) (l : Nat) (dir : Nat) (g : Nat) (n : Nat) (u : Nat) (h : s.MemOk) :
    (State.returnCredits s l dir g n u).MemOk := by
  simp (maxDischargeDepth := 40) [State.returnCredits, h]
@[simp] theorem State.replayFrom_memOk (s : State) (l dir g q : Nat) (hs : s.MemOk) :
    (State.replayFrom s l dir g q).MemOk := by
  simp (maxDischargeDepth := 40) [State.replayFrom, hs]
@[simp] theorem State.transferFlit_memOk (s : State) (l : Nat) (dir : Nat) (tag : Nat) (hs : s.MemOk) :
    (State.transferFlit s l dir tag).MemOk := by
  simp (maxDischargeDepth := 40) [State.transferFlit, hs]
@[simp] theorem State.transferEnd_memOk (s : State) (l : Nat) (dir : Nat) (f : BitVec 64) (hs : s.MemOk) :
    (State.transferEnd s l dir f).MemOk := by
  simp (maxDischargeDepth := 40) [State.transferEnd, hs]
@[simp] theorem State.windowsBack_memOk (s : State) (u : Nat) (src : Nat) (dst : Nat) (wins : List Nat) (hs : s.MemOk) :
    (State.windowsBack s u src dst wins).MemOk := by
  simp (maxDischargeDepth := 40) [State.windowsBack, hs]
@[simp] theorem State.fenceStart_memOk (s : State) (n : Nat) (cause : Nat) (dark : Bool) (hs : s.MemOk) :
    (State.fenceStart s n cause dark).MemOk := by
  simp (maxDischargeDepth := 40) [State.fenceStart, hs]
@[simp] theorem State.checkControl_memOk (s : State) (n : Nat) (hs : s.MemOk) :
    (State.checkControl s n).MemOk := by
  simp (maxDischargeDepth := 40) [State.checkControl, hs]
@[simp] theorem State.checkControls_memOk (s : State) (hs : s.MemOk) :
    (State.checkControls s).MemOk := by
  simp (maxDischargeDepth := 40) +contextual [State.checkControls, memOk_foldl, dieOk_foldl, cellarOk_foldl, hs]
@[simp] theorem State.controlFlit_memOk (s : State) (l dir : Nat) (a b : Bytes) (hs : s.MemOk) :
    (State.controlFlit s l dir a b).MemOk := by
  unfold State.controlFlit; dsimp only
  split
  · simp (maxDischargeDepth := 40) [hs]
  · split
    · split <;> simp (maxDischargeDepth := 40) [hs]
    · simp (maxDischargeDepth := 40) [hs]
@[simp] theorem State.logLanes_memOk (s : State) (l dir g : Nat) (bad : BitVec 74) (new : List Nat) (hs : s.MemOk) :
    (State.logLanes s l dir g bad new).MemOk := by
  simp (maxDischargeDepth := 40) +contextual [State.logLanes, memOk_foldl, dieOk_foldl, cellarOk_foldl, hs]
@[simp] theorem State.linkShape_memOk (s : State) (l : Nat) (dir : Nat) (hs : s.MemOk) :
    (State.linkShape s l dir).MemOk := by
  simp (maxDischargeDepth := 40) [State.linkShape, hs]
@[simp] theorem State.laneTested_memOk (s : State) (l dir g : Nat) (bad : BitVec 74) (ns : Nat) (hs : s.MemOk) :
    (State.laneTested s l dir g bad ns).MemOk := by
  unfold State.laneTested; dsimp only
  split
  · exact hs
  · (repeat' split) <;> simp (maxDischargeDepth := 40) [hs]
@[simp] theorem State.learnIndex_memOk (s : State) (n : Nat) (h : Nat) (f : Found → Found) (hs : s.MemOk) :
    (State.learnIndex s n h f).MemOk := by
  unfold State.learnIndex; dsimp only; (repeat' split) <;> simp (maxDischargeDepth := 40) [hs]
@[simp] theorem State.identity_memOk (s : State) (n : Nat) (rec' : BitVec 512) (nonce : Bytes) (hs : s.MemOk) :
    (State.identity s n rec' nonce).MemOk := by
  simp (maxDischargeDepth := 40) [State.identity, hs]
@[simp] theorem State.gateRequest_memOk (s : State) (k : Nat) (power : Bool) (hs : s.MemOk) :
    (State.gateRequest s k power).MemOk := by
  simp (maxDischargeDepth := 40) [State.gateRequest, hs]
@[simp] theorem State.wakeDone_memOk (s : State) (k : Nat) (hs : s.MemOk) :
    (State.wakeDone s k).MemOk := by
  simp (maxDischargeDepth := 40) [State.wakeDone, hs]
@[simp] theorem State.bushelStart_memOk (s : State) (n : Nat) (hs : s.MemOk) :
    (State.bushelStart s n).MemOk := by
  simp (maxDischargeDepth := 40) +contextual [State.bushelStart, memOk_foldl, hs]
@[simp] theorem State.targetReached_memOk (s : State) (n : Nat) (hs : s.MemOk) :
    (State.targetReached s n).MemOk := by
  unfold State.targetReached; dsimp only; (repeat' split) <;> simp (maxDischargeDepth := 40) [hs]
@[simp] theorem State.switchDone_memOk (s : State) (n : Nat) (hs : s.MemOk) :
    (State.switchDone s n).MemOk := by
  unfold State.switchDone; dsimp only; (repeat' split) <;> simp (maxDischargeDepth := 40) [hs]
@[simp] theorem State.createCtxs_memOk (s : State) (u : Nat) (hs : s.MemOk) :
    (State.createCtxs s u).MemOk := by
  simp (maxDischargeDepth := 40) +contextual [State.createCtxs, memOk_foldl, hs]
@[simp] theorem State.refuseLoad_memOk (s : State) (u : Nat) (r : Refuse) (hs : s.MemOk) :
    (State.refuseLoad s u r).MemOk := by
  unfold State.refuseLoad; (repeat' split) <;> simp (maxDischargeDepth := 40) [hs]
@[simp] theorem State.checkPlan_memOk (s : State) (rank : Nat) (hs : s.MemOk) :
    (State.checkPlan s rank).MemOk := by
  unfold State.checkPlan; dsimp only; (repeat' split) <;> simp (maxDischargeDepth := 40) [hs]
@[simp] theorem State.tellLost_memOk (s : State) (u : Nat) (hs : s.MemOk) :
    (State.tellLost s u).MemOk := by
  simp (maxDischargeDepth := 40) [State.tellLost, hs]
@[simp] theorem State.loadJob_memOk (s : State) (u : Nat) (j : JobImage) (hs : s.MemOk) :
    (State.loadJob s u j).1.MemOk := by
  unfold State.loadJob; dsimp only; (repeat' split) <;> simp (maxDischargeDepth := 40) [hs]
@[simp] theorem State.giveSegment_memOk (s : State) (n u : Nat) (g : GradSegment) (h : s.MemOk) :
    (s.giveSegment n u g).MemOk := by
  have k := State.takeSegment_memOk s n u ((s.tun u).lastsDue n g.tensor) g h
  unfold State.giveSegment
  split <;> rename_i heq <;> rw [heq] at k <;> simp (maxDischargeDepth := 40) [k]
@[simp] theorem State.segmentArrives_memOk (s : State) (n : Nat) (u : Nat) (g : GradSegment) (hs : s.MemOk) :
    (State.segmentArrives s n u g).MemOk := by
  simp (maxDischargeDepth := 40) [State.segmentArrives, hs]
@[simp] theorem State.resumeStaged_memOk (s : State) (n : Nat) (u : Nat) (hs : s.MemOk) :
    (State.resumeStaged s n u).MemOk := by
  unfold State.resumeStaged; dsimp only; (repeat' split) <;> simp (maxDischargeDepth := 40) [hs]
@[simp] theorem State.releaseSums_memOk (s : State) (n : Nat) (u : Nat) (e : BitVec 512) (h : s.MemOk) :
    (State.releaseSums s n u e).MemOk := by
  simp (maxDischargeDepth := 40) [State.releaseSums, h]
@[simp] theorem State.sketchReturns_memOk (s : State) (n : Nat) (u : Nat) (entry : Nat) (others : List SketchPart) (h : s.MemOk) :
    (State.sketchReturns s n u entry others).MemOk := by
  unfold State.sketchReturns; dsimp only; (repeat' split) <;> simp (maxDischargeDepth := 40) [h]
@[simp] theorem State.voteGives_memOk (s : State) (u : Nat) (hs : s.MemOk) :
    (State.voteGives s u).MemOk := by
  simp (maxDischargeDepth := 40) [State.voteGives, hs]
@[simp] theorem State.voteIn_memOk (s : State) (u : Nat) (src : Nat) (v : VoteData) (hs : s.MemOk) :
    (State.voteIn s u src v).MemOk := by
  simp (maxDischargeDepth := 40) [State.voteIn, hs]
@[simp] theorem State.voteOut_memOk (s : State) (u : Nat) (v : VoteData) (hs : s.MemOk) :
    (State.voteOut s u v).MemOk := by
  unfold State.voteOut; dsimp only; (repeat' split) <;> simp (maxDischargeDepth := 40) [hs]
@[simp] theorem State.voteLate_memOk (s : State) (u : Nat) (hs : s.MemOk) :
    (State.voteLate s u).MemOk := by
  simp (maxDischargeDepth := 40) [State.voteLate, hs]
@[simp] theorem State.bungDue_memOk (s : State) (u : Nat) (hs : s.MemOk) :
    (State.bungDue s u).MemOk := by
  simp (maxDischargeDepth := 40) [State.bungDue, hs]
@[simp] theorem State.tellDie_memOk (s : State) (n : Nat) (u : Nat) (hs : s.MemOk) :
    (State.tellDie s n u).MemOk := by
  unfold State.tellDie; dsimp only; (repeat' split) <;> simp (maxDischargeDepth := 40) [hs]
@[simp] theorem State.digestIn_memOk (s : State) (u src step : Nat) (d : Bytes) (hs : s.MemOk) :
    (State.digestIn s u src step d).MemOk := by
  simp (maxDischargeDepth := 40) [State.digestIn, hs]
@[simp] theorem State.commitWord_memOk (s : State) (u : Nat) (w : BitVec 256) (hs : s.MemOk) :
    (State.commitWord s u w).MemOk := by
  simp (maxDischargeDepth := 40) [State.commitWord, hs]
@[simp] theorem State.granaryLate_memOk (s : State) (u : Nat) (hs : s.MemOk) :
    (State.granaryLate s u).MemOk := by
  unfold State.granaryLate; dsimp only; (repeat' split) <;> simp (maxDischargeDepth := 40) [hs]
@[simp] theorem State.moveOwn_memOk (s : State) (u : Nat) (rank : Nat) (j : JobImage) (n : Nat) (h : s.MemOk) :
    (State.moveOwn s u rank j n).MemOk := by
  simp (maxDischargeDepth := 40) +contextual [State.moveOwn, memOk_foldl, h]
@[simp] theorem State.reshardMove_memOk (s : State) (u : Nat) (pkg : LayoutPackage) (h : s.MemOk) :
    (State.reshardMove s u pkg).MemOk := by
  unfold State.reshardMove; dsimp only; (repeat' split) <;> simp (maxDischargeDepth := 40) +contextual [memOk_foldl, h]
@[simp] theorem State.reshardStep_memOk (s : State) (u : Nat) (hs : s.MemOk) :
    (State.reshardStep s u).MemOk := by
  unfold State.reshardStep; dsimp only; (repeat' split) <;> simp (maxDischargeDepth := 40) +contextual [hs]
theorem State.ptpIn_memOk (s : State) (m len : Nat) (dom : BitVec 8) (is : List Nat) (act : State → State) (hs : s.MemOk)
    (ha : ∀ s, s.MemOk → (act s).MemOk) : (s.ptpIn m len dom is act).MemOk := by
  unfold State.ptpIn; dsimp only
  split
  · exact hs
  · split
    · exact ha _ (State.rxFrame_memOk _ _ _ _ _ hs)
    · exact State.rxFrame_memOk _ _ _ _ _ hs
@[simp] theorem State.clockTo_memOk (s : State) (p : Ptp) (hs : s.MemOk) :
    (State.clockTo s p).MemOk := by
  simp (maxDischargeDepth := 40) +contextual [State.clockTo, memOk_foldl, dieOk_foldl, cellarOk_foldl, hs]
@[simp] theorem State.boot_memOk (s : State) (kind : Nat) (copy : Bool) (cause : Nat) (hs : s.MemOk) :
    (State.boot s kind copy cause).MemOk := by
  simp (maxDischargeDepth := 40) [State.boot, hs]
@[simp] theorem State.bootCut_memOk (s : State) (kind : Nat) (copy : Bool) (cause : Nat) (hs : s.MemOk) :
    (State.bootCut s kind copy cause).MemOk := by
  simp (maxDischargeDepth := 40) [State.bootCut, hs]
@[simp] theorem State.restoreEntry_memOk (s : State) (u : Nat) (l : RList) (j : JobImage) (o : Own) (hs : s.MemOk) :
    (State.restoreEntry s u l j o).MemOk := by
  simp (maxDischargeDepth := 40) +contextual [State.restoreEntry, memOk_foldl, hs]
@[simp] theorem State.refuseRestore_memOk (s : State) (u : Nat) (f : RFail) (hs : s.MemOk) :
    (State.refuseRestore s u f).MemOk := by
  simp (maxDischargeDepth := 40) [State.refuseRestore, hs]
@[simp] theorem State.supply_memOk (s : State) (u : Nat) (T : Nat) (objs : List RestoreObject) (pkg : LayoutPackage) (h : s.MemOk) :
    (State.supply s u T objs pkg).MemOk := by
  unfold State.supply; dsimp only; (repeat' split) <;> simp (maxDischargeDepth := 40) +contextual [memOk_foldl, h]
@[simp] theorem State.restore_memOk (s : State) (u : Nat) (T : Nat) (j : JobImage) (objs : List RestoreObject) (hs : s.MemOk) :
    (State.restore s u T j objs).MemOk := by
  unfold State.restore; dsimp only; (repeat' split) <;> simp (maxDischargeDepth := 40) +contextual [memOk_foldl, hs]
@[simp] theorem State.setTap_memOk (s : State) (t : Nat) (x : Tap) (hs : s.MemOk) :
    (State.setTap s t x).MemOk := by
  simp (maxDischargeDepth := 40) [State.setTap, hs]
@[simp] theorem State.tapFault_memOk (s : State) (t : Nat) (why : Nat) (hs : s.MemOk) :
    (State.tapFault s t why).MemOk := by
  unfold State.tapFault; dsimp only; (repeat' split) <;> simp (maxDischargeDepth := 40) [hs]
@[simp] theorem State.hostIndex_memOk (s : State) (t : Nat) (e : BitVec 1024) (hs : s.MemOk) :
    (State.hostIndex s t e).MemOk := by
  unfold State.hostIndex; (repeat' split) <;> simp (maxDischargeDepth := 40) [hs]
@[simp] theorem State.statusEntry_memOk (s : State) (u : Nat) (e : BitVec 1024) (hs : s.MemOk) :
    (State.statusEntry s u e).MemOk := by
  simp (maxDischargeDepth := 40) [State.statusEntry, hs]
@[simp] theorem State.useKind_memOk (s : State) (u : Nat) (k : Nat) (hs : s.MemOk) :
    (State.useKind s u k).MemOk := by
  unfold State.useKind; (repeat' split) <;> simp (maxDischargeDepth := 40) [hs]
@[simp] theorem State.tapApply_memOk (s : State) (t : Nat) (e : BitVec 1024) (hs : s.MemOk) :
    (State.tapApply s t e).MemOk := by
  unfold State.tapApply; dsimp only; (repeat' split) <;> simp (maxDischargeDepth := 40) [hs]
@[simp] theorem State.tapCheck_memOk (s : State) (t : Nat) (e : BitVec 1024) (hs : s.MemOk) :
    (State.tapCheck s t e).MemOk := by
  simp (maxDischargeDepth := 40) [State.tapCheck, hs]
@[simp] theorem State.tapTorn_memOk (s : State) (t : Nat) (hs : s.MemOk) :
    (State.tapTorn s t).MemOk := by
  simp (maxDischargeDepth := 40) [State.tapTorn, hs]
@[simp] theorem State.ringAdvance_memOk (s : State) (t : Nat) (a : Nat) (idx : Nat) (hs : s.MemOk) :
    (State.ringAdvance s t a idx).MemOk := by
  simp (maxDischargeDepth := 40) [State.ringAdvance, hs]
@[simp] theorem State.kindRefused_memOk (s : State) (u : Nat) (k : Nat) (hs : s.MemOk) :
    (State.kindRefused s u k).MemOk := by
  simp (maxDischargeDepth := 40) [State.kindRefused, hs]
@[simp] theorem State.stagePackage_memOk (s : State) (u : Nat) (pkg : LayoutPackage) (hs : s.MemOk) :
    (State.stagePackage s u pkg).MemOk := by
  simp (maxDischargeDepth := 40) [State.stagePackage, hs]
@[simp] theorem State.ringFails_memOk (s : State) (u : Nat) (hs : s.MemOk) :
    (State.ringFails s u).MemOk := by
  simp (maxDischargeDepth := 40) [State.ringFails, hs]
@[simp] theorem State.postOutput_memOk (s : State) (u : Nat) (hs : s.MemOk) :
    (State.postOutput s u).MemOk := by
  unfold State.postOutput; split <;> simp (maxDischargeDepth := 40) [hs]
@[simp] theorem State.closedStatus_memOk (s : State) (u : Nat) (hs : s.MemOk) :
    (State.closedStatus s u).MemOk := by
  unfold State.closedStatus; dsimp only; (repeat' split) <;> simp (maxDischargeDepth := 40) [hs]
@[simp] theorem State.windowWrite_memOk (s : State) (off : Nat) (n : Nat) (w : BitVec 64) (hs : s.MemOk) :
    (State.windowWrite s off n w).MemOk := by
  simp (maxDischargeDepth := 40) [State.windowWrite, hs]
@[simp] theorem stageRecord_memOk (u : Nat) (cmdSeq : BitVec 32) (ok : Bool) (why : Nat) (f : Tun → Tun) (s : State) (hs : s.MemOk) :
    (stageRecord u cmdSeq ok why f s).MemOk := by
  simp (maxDischargeDepth := 40) [stageRecord, hs]
@[simp] theorem Cellar.lose_memOk (c : Cellar) (a : Nat) (n : Nat) (hc : c.MemOk) :
    (Cellar.lose c a n).MemOk := by
  simp (maxDischargeDepth := 40) +contextual [Cellar.lose, Mem.wf_zeroRange, hc]
@[simp] theorem State.degrade_memOk (s : State) (pg : Nat) (pos : Nat) (hs : s.MemOk) :
    (State.degrade s pg pos).MemOk := by
  simp (maxDischargeDepth := 40) +contextual [State.degrade, memOk_foldl, cellarOk_foldl, hs]
@[simp] theorem State.interfaceFails_memOk (s : State) (i : Nat) (hs : s.MemOk) :
    (State.interfaceFails s i).MemOk := by
  simp (maxDischargeDepth := 40) +contextual [State.interfaceFails, memOk_foldl, hs]
@[simp] theorem State.countRebuilt_memOk (s : State) (pg : Nat) (k : Nat → Nat) (hs : s.MemOk) :
    (State.countRebuilt s pg k).MemOk := by
  simp (maxDischargeDepth := 40) +contextual [State.countRebuilt, memOk_foldl, hs]
@[simp] theorem State.retryFreezes_memOk (s : State) (pg : Nat) (h : s.MemOk) :
    (State.retryFreezes s pg).MemOk := by
  simp (maxDischargeDepth := 40) +contextual [State.retryFreezes, memOk_foldl, h]
@[simp] theorem State.rebuildGranule_memOk (s : State) (pg : Nat) (hs : s.MemOk) :
    (State.rebuildGranule s pg).MemOk := by
  simp (maxDischargeDepth := 40) [State.rebuildGranule, hs]
@[simp] theorem State.fenceRow_memOk (s : State) (n : Nat) (pos : Nat) (row : Nat) (hs : s.MemOk) :
    (State.fenceRow s n pos row).MemOk := by
  simp (maxDischargeDepth := 40) [State.fenceRow, hs]
@[simp] theorem State.localUe_memOk (s : State) (n : Nat) (u : Nat) (a : Nat) (r : RowRepair) (hs : s.MemOk) :
    (State.localUe s n u a r).MemOk := by
  simp (maxDischargeDepth := 40) +contextual [State.localUe, Mem.wf_zeroRange, hs]
@[simp] theorem State.noteMem_memOk (s : State) (n : Nat) (f : MemStat → MemStat) (hs : s.MemOk) :
    (State.noteMem s n f).MemOk := by
  simp (maxDischargeDepth := 40) [State.noteMem, hs]
@[simp] theorem State.cellarUe_memOk (s : State) (n : Nat) (u : Nat) (off : Nat) (second : Bool) (hs : s.MemOk) :
    (State.cellarUe s n u off second).MemOk := by
  unfold State.cellarUe; split <;> simp (maxDischargeDepth := 40) [hs]
@[simp] theorem State.refetch_memOk (s : State) (n : Nat) (u : Nat) (r : RowRepair) (fetch : Bool) (hs : s.MemOk) :
    (State.refetch s n u r fetch).MemOk := by
  simp (maxDischargeDepth := 40) [State.refetch, hs]
@[simp] theorem State.uncorrectable_memOk (s : State) (n : Nat) (u : Nat) (site : UeSite) (addr : Nat) (second : Bool) (hs : s.MemOk) :
    (State.uncorrectable s n u site addr second).MemOk := by
  unfold State.uncorrectable; (repeat' split) <;> simp (maxDischargeDepth := 40) [hs]
@[simp] theorem State.corrected_memOk (s : State) (n : Nat) (r : RowRepair) (hs : s.MemOk) :
    (State.corrected s n r).MemOk := by
  simp (maxDischargeDepth := 40) [State.corrected, hs]
@[simp] theorem Die.scrub_memOk (d : Die) (lvl : Nat) (hd : d.MemOk) :
    (Die.scrub d lvl).MemOk := by
  unfold Die.scrub; split <;> simp (maxDischargeDepth := 40) [hd]
@[simp] theorem Die.counted_memOk (d : Die) (hd : d.MemOk) :
    (Die.counted d).MemOk := by
  simp (maxDischargeDepth := 40) [Die.counted]
@[simp] theorem State.restarted_memOk (s : State) (hs : s.MemOk) :
    (State.restarted s).MemOk := by
  simp (maxDischargeDepth := 40) +contextual [State.restarted, diesOk_mapVals, hs]
@[simp] theorem State.startColumns_memOk (s : State) (c : FlashCopy) (f : StartFinds) (n : Nat) (hs : s.MemOk) :
    (State.startColumns s c f n).MemOk := by
  simp (maxDischargeDepth := 40) [State.startColumns, hs]
@[simp] theorem State.startLink_memOk (s : State) (c : FlashCopy) (f : StartFinds) (role : BitVec 64) (l dir : Nat) (h : s.MemOk) :
    (s.startLink c f role l dir).MemOk := by
  unfold State.startLink
  exact State.setLinkDir_memOk _ _ _ _ (memOk_foldl_fst _ _ _ h fun r x h => memOk_foldl _ _ _ h fun s x h => by simp [h])
@[simp] theorem State.startShape_memOk (s : State) (l : Nat) (dir : Nat) (hs : s.MemOk) :
    (State.startShape s l dir).MemOk := by
  simp (maxDischargeDepth := 40) [State.startShape, hs]
@[simp] theorem State.startInterface_memOk (s : State) (i : Nat) (hs : s.MemOk) :
    (State.startInterface s i).MemOk := by
  simp (maxDischargeDepth := 40) [State.startInterface, hs]
@[simp] theorem State.startRow_memOk (s : State) (known : List Nat) (r : Nat) (h : s.MemOk) :
    (State.startRow s known r).MemOk := by
  simp (maxDischargeDepth := 40) [State.startRow, h]
@[simp] theorem State.startRows_memOk (s : State) (c : FlashCopy) (f : StartFinds) (hs : s.MemOk) :
    (State.startRows s c f).MemOk := by
  simp (maxDischargeDepth := 40) +contextual [State.startRows, memOk_foldl, hs]
@[simp] theorem State.startDies_memOk (s : State) (c : FlashCopy) (f : StartFinds) (hs : s.MemOk) :
    (State.startDies s c f).MemOk := by
  unfold State.startDies; dsimp only
  refine memOk_foldl _ _ _ (by simp (maxDischargeDepth := 40) [hs]) fun s n h => ?_
  (repeat' split) <;> simp (maxDischargeDepth := 40) [h]
@[simp] theorem State.startLevel_memOk (s : State) (hs : s.MemOk) :
    (State.startLevel s).MemOk := by
  simp (maxDischargeDepth := 40) [State.startLevel, hs]
@[simp] theorem State.extendMr_memOk (s : State) (i : Nat) (d : Bytes) (hs : s.MemOk) :
    (State.extendMr s i d).MemOk := by
  simp (maxDischargeDepth := 40) [State.extendMr, hs]
@[simp] theorem State.measureStart_memOk (s : State) (c : FlashCopy) (hs : s.MemOk) :
    (State.measureStart s c).MemOk := by
  simp (maxDischargeDepth := 40) +contextual [State.measureStart, memOk_foldl, hs]
@[simp] theorem State.startNet_memOk (s : State) (c : FlashCopy) (f : StartFinds) (hs : s.MemOk) :
    (State.startNet s c f).MemOk := by
  unfold State.startNet; dsimp only; (repeat' split) <;> simp (maxDischargeDepth := 40) +contextual [memOk_foldl, hs]
@[simp] theorem State.startFind_memOk (s : State) (x : FlashCopy) (f : StartFinds) (hs : s.MemOk) :
    (State.startFind s x f).MemOk := by
  simp (maxDischargeDepth := 40) +contextual [State.startFind, memOk_foldl, dieOk_foldl, cellarOk_foldl, hs]
@[simp] theorem State.startLoad_memOk (s : State) (c : Bool) (x : FlashCopy) (h : s.MemOk) : (s.startLoad c x).MemOk := h
@[simp] theorem State.startEnd_memOk (s : State) (c : Bool) (h : s.MemOk) : (s.startEnd c).MemOk := by
  unfold State.startEnd
  simp (maxDischargeDepth := 40) [h]
@[simp] theorem State.startTell_memOk (s : State) (h : s.MemOk) : s.startTell.MemOk :=
  memOk_foldl _ _ _ h fun s u h => by split <;> simp [h]
/-- A start that completes keeps the form. -/
theorem State.startOn_memOk (s s' : State) (c : Bool) (f : StartFinds) (hs : s.MemOk) (h : s.startOn c f = some s') : s'.MemOk := by
  unfold State.startOn at h
  dsimp only at h
  split at h
  · cases h
  · cases h
    simp (maxDischargeDepth := 40) [hs]
@[simp] theorem State.steep_memOk (s : State) (cause : Nat) (hs : s.MemOk) :
    (State.steep s cause).MemOk := by
  simp (maxDischargeDepth := 40) +contextual [State.steep, memOk_foldl, dieOk_foldl, cellarOk_foldl, hs]
@[simp] theorem State.startFailed_memOk (s : State) (c : Bool) (cause : Nat) (hs : s.MemOk) :
    (State.startFailed s c cause).MemOk := by
  simp (maxDischargeDepth := 40) [State.startFailed, hs]
@[simp] theorem State.withS_memOk (s : State) (hs : s.MemOk) :
    (State.withS s).MemOk := by
  simp (maxDischargeDepth := 40) [State.withS, hs]
@[simp] theorem State.startCopy_memOk (s : State) (c : Bool) (rest : List Bool) (f : StartFinds) (hs : s.MemOk) :
    (State.startCopy s c rest f).1.MemOk := by
  unfold State.startCopy
  split
  · simp (maxDischargeDepth := 40) [hs]
  · split
    · simp (maxDischargeDepth := 40) [hs]
    · split
      · simp (maxDischargeDepth := 40) [hs]
      · split
        · simp (maxDischargeDepth := 40) [hs]
        · exact State.startOn_memOk _ _ _ _ hs ‹_›
@[simp] theorem State.startOnce_memOk (s : State) (f : StartFinds) (hs : s.MemOk) :
    (State.startOnce s f).1.MemOk := by
  unfold State.startOnce; dsimp only; (repeat' split) <;> simp (maxDischargeDepth := 40) [hs]
@[simp] theorem startLoop_memOk (n : Nat) (f : StartFinds) (s : State) (h : s.MemOk) : (startLoop n f s).MemOk := by
  induction n generalizing s with
  | zero => exact h
  | succ n ih =>
    unfold startLoop
    have k := State.startOnce_memOk s f h
    generalize s.startOnce f = r at k ⊢
    obtain ⟨s', b⟩ := r
    cases b <;> simp_all
@[simp] theorem State.start_memOk (s : State) (f : StartFinds) (hs : s.MemOk) :
    (State.start s f).MemOk := by
  simp (maxDischargeDepth := 40) [State.start, hs]
@[simp] theorem State.restart_memOk (s : State) (f : StartFinds) (hs : s.MemOk) :
    (State.restart s f).MemOk := by
  simp (maxDischargeDepth := 40) [State.restart, hs]
@[simp] theorem State.startLate_memOk (s : State) (hs : s.MemOk) :
    (State.startLate s).MemOk := by
  simp (maxDischargeDepth := 40) [State.startLate, hs]
@[simp] theorem State.flashWrite_memOk (s : State) (c : Bool) (x : FlashCopy) (hs : s.MemOk) :
    (State.flashWrite s c x).MemOk := by
  simp (maxDischargeDepth := 40) [State.flashWrite, hs]
@[simp] theorem State.carrierFit_memOk (s : State) (mv : Nat) (f : StartFinds) (hs : s.MemOk) :
    (State.carrierFit s mv f).MemOk := by
  simp (maxDischargeDepth := 40) [State.carrierFit, hs]
@[simp] theorem State.sawInput_memOk (s : State) (mv : Nat) (hs : s.MemOk) :
    (State.sawInput s mv).MemOk := by
  simp (maxDischargeDepth := 40) [State.sawInput, hs]
@[simp] theorem State.estop_memOk (s : State) (cause : Nat) (h : s.MemOk) :
    (State.estop s cause).MemOk := by
  simp (maxDischargeDepth := 40) [State.estop, h]
@[simp] theorem State.answer_memOk (s : State) (bs : Bytes) (hs : s.MemOk) :
    (State.answer s bs).MemOk := by
  simp (maxDischargeDepth := 40) [State.answer, hs]
@[simp] theorem State.spdmError_memOk (s : State) (hs : s.MemOk) :
    (State.spdmError s).MemOk := by
  simp (maxDischargeDepth := 40) [State.spdmError, hs]
theorem State.respond_memOk (s : State) (ok : Bool) (f : State → State) (h : s.MemOk) (hf : (f s).MemOk) :
    (s.respond ok f).MemOk := by
  unfold State.respond
  (repeat' split) <;> simp [h, hf]
@[simp] theorem State.setSession_memOk (s : State) (i : Nat) (x : Session) (hs : s.MemOk) :
    (State.setSession s i x).MemOk := by
  simp (maxDischargeDepth := 40) [State.setSession, hs]
@[simp] theorem State.openSession_memOk (s : State) (i : Nat) (nonce : Bytes) (hs : s.MemOk) :
    (State.openSession s i nonce).MemOk := by
  simp (maxDischargeDepth := 40) [State.openSession, hs]
@[simp] theorem State.takeSecret_memOk (s : State) (u : Nat) (ts : Bytes) (imports : List Bytes) (sigOk : Bool) (hs : s.MemOk) :
    (State.takeSecret s u ts imports sigOk).MemOk := by
  simp (maxDischargeDepth := 40) [State.takeSecret, hs]
@[simp] theorem State.vecDone_memOk (s : State) (n : Nat) (v : Nat) (hs : s.MemOk) :
    (State.vecDone s n v).MemOk := by
  unfold State.vecDone; dsimp only; (repeat' split) <;> simp (maxDischargeDepth := 40) [hs]

@[simp] theorem State.withFetchWord_memOk (s : State) (nbits w : Nat) (hs : s.MemOk) :
    (State.withFetchWord s nbits w).MemOk := by
  unfold State.withFetchWord; (repeat' split) <;> simp (maxDischargeDepth := 40) [hs]
end Sys2Proof.Machine
end

