-- ==== Sys2Proof/Laws/Domains.lean ====
section
/-! SUPPORT. The keepers of the dies under what a slice does outside its die: no event, stop, step close or close of a
bucket changes the power state of a domain. -/

namespace Sys2Proof.Machine

/-- The keepers of a die. -/
def Die.doms (d : Die) : Tbl Keeper := d.keepers
/-- The keepers of the dies. -/
structure Domains where
  of : Nat → Tbl Keeper
/-- The keepers of a table of dies. -/
def dieDomains (t : Tbl Die) : Domains := ⟨fun n => (Tbl.get {} t n).doms⟩
/-- The keepers of the dies of the device. -/
def State.domains (s : State) : Domains := dieDomains s.dies

@[simp] theorem State.domains_apply (s : State) (n : Nat) : (s.die n).doms = s.domains.of n := id rfl
@[simp] theorem Die.doms_mk (a b c d e f g h i j k l m n o p q r s t u v w x y z a1 a2 a3 a4) :
    Die.doms (Die.mk a b c d e f g h i j k l m n o p q r s t u v w x y z a1 a2 a3 a4) = a := id rfl
@[simp] theorem Die.doms_fold (d : Die) : d.keepers = d.doms := id rfl
@[simp] theorem State.domains_mk (a b c d e f g h i j k l m n o) :
    State.domains (State.mk a b c d e f g h i j k l m n o) = dieDomains d := id rfl
@[simp] theorem State.domains_dies (s : State) : dieDomains s.dies = s.domains := id rfl

theorem domains_foldl {α : Type} (f : State → α → State) (l : List α) (s : State)
    (h : ∀ s x, (f s x).domains = s.domains) : (l.foldl f s).domains = s.domains := by
  induction l generalizing s with
  | nil => rfl
  | cons x l ih => rw [List.foldl_cons, ih, h]
theorem doms_foldl {α : Type} (f : Die → α → Die) (l : List α) (d : Die)
    (h : ∀ d x, (f d x).doms = d.doms) : (l.foldl f d).doms = d.doms := by
  induction l generalizing d with
  | nil => rfl
  | cons x l ih => rw [List.foldl_cons, ih, h]
@[simp] theorem State.setDie_domains (s : State) (n : Nat) (d : Die) (h : d.doms = s.domains.of n) : (s.setDie n d).domains = s.domains := by
  refine congrArg Domains.mk (funext fun m => ?_)
  by_cases hm : m = n
  · subst hm
    exact (congrArg Die.doms (Tbl.get_put_same ({} : Die) s.dies m d)).trans h
  · exact congrArg Die.doms (Tbl.get_put_other ({} : Die) s.dies d hm)
@[simp] theorem domains_ite (c : Prop) [Decidable c] (a b s : State) :
    (if c then a else b).domains = s.domains ↔ (c → a.domains = s.domains) ∧ (¬c → b.domains = s.domains) := by split <;> simp [*]
@[simp] theorem doms_ite (c : Prop) [Decidable c] (a b d : Die) :
    (if c then a else b).doms = d.doms ↔ (c → a.doms = d.doms) ∧ (¬c → b.doms = d.doms) := by split <;> simp [*]
/-- The same over a pair whose state part keeps them. -/
theorem domains_foldl_fst {α β : Type} (f : State × β → α → State × β) (l : List α) (r : State × β)
    (h : ∀ r x, (f r x).1.domains = r.1.domains) : (l.foldl f r).1.domains = r.1.domains := by
  induction l generalizing r with
  | nil => rfl
  | cons x l ih => rw [List.foldl_cons, ih, h]

@[simp] theorem Die.setCtx_doms (d : Die) (x1 : Nat) (x2 : Ctx) :
    (Die.setCtx d x1 x2).doms = d.doms := by
  simp (maxDischargeDepth := 40) [Die.setCtx]
@[simp] theorem State.setTun_domains (s : State) (x1 : Nat) (x2 : Tun) :
    (State.setTun s x1 x2).domains = s.domains := by
  simp (maxDischargeDepth := 40) [State.setTun]
@[simp] theorem State.setCtx_domains (s : State) (x1 : Nat) (x2 : Nat) (x3 : Ctx) :
    (State.setCtx s x1 x2 x3).domains = s.domains := by
  simp (maxDischargeDepth := 40) [State.setCtx]
@[simp] theorem State.draw_domains (s : State) :
    (State.draw s).domains = s.domains := by
  simp (maxDischargeDepth := 40) [State.draw]
@[simp] theorem State.setEvents_domains (s : State) (u : Nat) (r : Ring) : (s.setEvents u r).domains = s.domains := rfl
@[simp] theorem State.setDeviceEvents_domains (s : State) (r : Ring) : (s.setDeviceEvents r).domains = s.domains := rfl
@[simp] theorem State.eventBytes_domains (s : State) (x1 : Nat) (x2 : Nat) (x3 : Bytes) :
    (State.eventBytes s x1 x2 x3).domains = s.domains := by
  simp (maxDischargeDepth := 40) [State.eventBytes]
@[simp] theorem State.event_domains (s : State) (x1 : Nat) (x2 : Nat) (x3 : (List Nat)) :
    (State.event s x1 x2 x3).domains = s.domains := by
  simp (maxDischargeDepth := 40) [State.event]
@[simp] theorem State.deviceEventBytes_domains (s : State) (x1 : Nat) (x2 : Bytes) :
    (State.deviceEventBytes s x1 x2).domains = s.domains := by
  simp (maxDischargeDepth := 40) [State.deviceEventBytes]
@[simp] theorem State.spoil_domains (s : State) (x1 : Nat) (x2 : Nat) :
    (State.spoil s x1 x2).domains = s.domains := by
  simp (maxDischargeDepth := 40) [State.spoil]
@[simp] theorem State.stopTun_domains (s : State) (x1 : Nat) :
    (State.stopTun s x1).domains = s.domains := by
  simp (maxDischargeDepth := 40) [State.stopTun, domains_foldl]
@[simp] theorem State.programFault_domains (s : State) (n : Nat) (u : Nat) (f : ProgFault) :
    (State.programFault s n u f).domains = s.domains := by
  simp (maxDischargeDepth := 40) [State.programFault]
@[simp] theorem State.countFault_domains (s : State) (x1 : Nat) (x2 : Nat) (x3 : Nat) (x4 : Nat) :
    (State.countFault s x1 x2 x3 x4).domains = s.domains := by
  simp (maxDischargeDepth := 40) [State.countFault]
@[simp] theorem State.fault_domains (s : State) (x1 : Nat) (x2 : Nat) (x3 : Nat) (x4 : Nat) :
    (State.fault s x1 x2 x3 x4).domains = s.domains := by
  unfold State.fault; dsimp only; (repeat' split) <;> simp (maxDischargeDepth := 40)
@[simp] theorem State.fillStripes_domains (s : State) (x1 : Nat) :
    (State.fillStripes s x1).domains = s.domains := by
  simp (maxDischargeDepth := 40) [State.fillStripes, domains_foldl]
@[simp] theorem State.stepClosed_domains (s : State) (x1 : Nat) (x2 : Nat) (x3 : Bool) :
    (State.stepClosed s x1 x2 x3).domains = s.domains := by
  simp (maxDischargeDepth := 40) [State.stepClosed]
@[simp] theorem State.flushSketch_domains (s : State) (n u b : Nat) : (s.flushSketch n u b).domains = s.domains := by
  unfold State.flushSketch
  cases (s.tun u).sketchColl b with
  | none => rfl
  | some p =>
    exact domains_foldl _ _ _ fun s r => domains_foldl _ _ _ fun s p => by
      dsimp only; (repeat' split) <;> simp
@[simp] theorem State.releaseBucket_domains (s : State) (x1 : Nat) (x2 : Nat) :
    (State.releaseBucket s x1 x2).domains = s.domains := by
  simp (maxDischargeDepth := 40) [State.releaseBucket]
@[simp] theorem State.bucketMarker_domains (s : State) (x1 : Nat) (x2 : Nat) :
    (State.bucketMarker s x1 x2).domains = s.domains := by
  simp (maxDischargeDepth := 40) [State.bucketMarker]
@[simp] theorem State.bucketClosed_domains (s : State) (x1 : Nat) (x2 : Nat) (x3 : Nat) :
    (State.bucketClosed s x1 x2 x3).domains = s.domains := by
  simp (maxDischargeDepth := 40) [State.bucketClosed]
theorem State.issued_domains (s : State) (n u : Nat) (sl : Slice) (voids far : List Nat) (nonfinite : Bool) (h : ctlSeal sl = false) :
    (s.issued n u sl voids far nonfinite).domains = s.domains := by
  unfold State.issued
  extract_lets t again t1 t2 t3 s1 s2 s3 s4 s5 s6
  have h2 : s2.domains = s.domains := (domains_foldl _ _ _ fun s m => by simp).trans (by simp [s1])
  have h3 : s3.domains = s2.domains := by unfold s3; split <;> simp
  have h4 : s4.domains = s3.domains := by unfold s4; split <;> simp
  have h5 : s5.domains = s4.domains := by unfold s5; split <;> simp
  have h6 : s6.domains = s5.domains := by unfold s6; split <;> simp
  rw [← h2, ← h3, ← h4, ← h5, ← h6, h]
  rfl

end Sys2Proof.Machine
end

