-- ==== Sys2Proof/Laws/Frame.lean ====
section
/-! SUPPORT. What no operation of the block changes: the queue, the tun layout in force and the two copies of the flash
image. One lemma for each operation over State; the start, a loss of power and a write of the flash, which change some of
these, are in FrameStart.lean. -/

namespace Sys2Proof.Machine

/-- The queue, the layout in force and the two copies of the flash image. -/
def State.kept (s : State) : List Instr × LayoutRecord × FlashCopy × FlashCopy :=
  (s.pending, s.layout, s.flash.copyA, s.flash.copyB)

@[simp] theorem State.kept_mk (a b c d e f g h i j k l m n o) :
    State.kept (State.mk a b c d e f g h i j k l m n o) = (a, g, k.copyA, k.copyB) := rfl

@[simp] theorem State.kept_fold (s : State) : (s.pending, s.layout, s.flash.copyA, s.flash.copyB) = s.kept := rfl

/-- A fold of an operation that keeps them keeps them. -/
@[simp] theorem kept_foldl {α : Type} (f : State → α → State) (l : List α) (s : State)
    (h : ∀ s x, (f s x).kept = s.kept) : (l.foldl f s).kept = s.kept := by
  induction l generalizing s with
  | nil => rfl
  | cons x l ih => rw [List.foldl_cons, ih, h]
/-- The same over a pair whose state part keeps them. -/
theorem kept_foldl_fst {α β : Type} (f : State × β → α → State × β) (l : List α) (r : State × β)
    (h : ∀ r x, (f r x).1.kept = r.1.kept) : (l.foldl f r).1.kept = r.1.kept := by
  induction l generalizing r with
  | nil => rfl
  | cons x l ih => rw [List.foldl_cons, ih, h]

@[simp] theorem State.setDie_kept (s : State) (n : Nat) (d : Die) :
    (State.setDie s n d).kept = s.kept := by simp [State.setDie]
@[simp] theorem State.setTun_kept (s : State) (u : Nat) (t : Tun) :
    (State.setTun s u t).kept = s.kept := by simp [State.setTun]
@[simp] theorem State.setCtx_kept (s : State) (n : Nat) (u : Nat) (c : Ctx) :
    (State.setCtx s n u c).kept = s.kept := by simp [State.setCtx]
/-- What the repair log and the boot ring keep of the flash: its two copies. -/
def Flash.copies (f : Flash) : FlashCopy × FlashCopy := (f.copyA, f.copyB)
theorem Flash.setHalf_copies (f : Flash) (b : Bool) (h : LogHalf) : (f.setHalf b h).copies = f.copies := by
  cases b <;> rfl
theorem Flash.append_copies (f : Flash) (b : Bool) (e : RepairEntry) : (f.append b e).copies = f.copies := Flash.setHalf_copies ..
theorem Flash.compact_copies (f : Flash) : f.compact.copies = f.copies := by
  unfold Flash.compact
  split
  · rfl
  · exact Flash.setHalf_copies f _ _
theorem Flash.headerLast_copies (f : Flash) : f.headerLast.copies = f.copies := by
  unfold Flash.headerLast
  split
  · exact Flash.setHalf_copies f _ _
  · rfl
theorem Flash.log_copies (f : Flash) (e : RepairEntry) : (f.log e).copies = f.copies := by
  unfold Flash.log
  dsimp only
  rw [Flash.headerLast_copies, Flash.compact_copies, Flash.append_copies]
  split
  · exact Flash.append_copies ..
  · rfl
/-- Either branch of a choice. -/
theorem kept_choice {c : Prop} [Decidable c] {a b s : State} (ha : a.kept = s.kept) (hb : b.kept = s.kept) :
    (if c then a else b).kept = s.kept := by
  split <;> assumption
@[simp] theorem State.setMac_kept (s : State) (m : Nat) (x : Mac) :
    (State.setMac s m x).kept = s.kept := by
  simp [State.setMac]
@[simp] theorem State.setLinkDir_kept (s : State) (l dir : Nat) (x : LinkDir) :
    (State.setLinkDir s l dir x).kept = s.kept := by
  simp [State.setLinkDir]
@[simp] theorem State.setFound_kept (s : State) (n : Nat) (x : Found) :
    (State.setFound s n x).kept = s.kept := by
  simp [State.setFound]
@[simp] theorem State.setLay_kept (s : State) (u : Nat) (l : Option (BitVec 1024)) :
    (State.setLay s u l).kept = s.kept := by
  simp (maxDischargeDepth := 40) [State.setLay]
@[simp] theorem State.draw_kept (s : State) :
    (State.draw s).kept = s.kept := by
  simp [State.draw]
@[simp] theorem State.random_kept (s : State) :
    (State.random s).2.kept = s.kept := by
  simp [State.random]
@[simp] theorem State.setEvents_kept (s : State) (u : Nat) (r : Ring) :
    (State.setEvents s u r).kept = s.kept := by
  simp (maxDischargeDepth := 40) [State.setEvents]
@[simp] theorem State.eventBytes_kept (s : State) (u code : Nat) (args : Bytes) :
    (State.eventBytes s u code args).kept = s.kept := by
  simp [State.eventBytes]
@[simp] theorem State.eventsBack_kept (s : State) (u : Nat) :
    (State.eventsBack s u).kept = s.kept := by
  simp (maxDischargeDepth := 40) [State.eventsBack]
@[simp] theorem State.event_kept (s : State) (u code : Nat) (args : List Nat) :
    (State.event s u code args).kept = s.kept := by
  simp [State.event]
@[simp] theorem State.setDeviceEvents_kept (s : State) (r : Ring) :
    (State.setDeviceEvents s r).kept = s.kept := by
  simp (maxDischargeDepth := 40) [State.setDeviceEvents]
@[simp] theorem State.deviceEventBytes_kept (s : State) (code : Nat) (args : Bytes) :
    (State.deviceEventBytes s code args).kept = s.kept := by
  simp [State.deviceEventBytes]
@[simp] theorem State.deviceEventsBack_kept (s : State) :
    (State.deviceEventsBack s).kept = s.kept := by
  simp (maxDischargeDepth := 40) [State.deviceEventsBack]
@[simp] theorem State.deviceEvent_kept (s : State) (code : Nat) (args : List Nat) :
    (State.deviceEvent s code args).kept = s.kept := by
  simp [State.deviceEvent]
@[simp] theorem State.commandDone_kept (s : State) (u : Nat) (cmdSeq : BitVec 32) (status : Nat) :
    (State.commandDone s u cmdSeq status).kept = s.kept := by
  simp [State.commandDone]
@[simp] theorem State.spoil_kept (s : State) (n u : Nat) :
    (State.spoil s n u).kept = s.kept := by
  unfold State.spoil; split <;> simp
@[simp] theorem State.spoilAll_kept (s : State) (u : Nat) :
    (State.spoilAll s u).kept = s.kept := by
  simp [State.spoilAll]
@[simp] theorem State.stopTun_kept (s : State) (u : Nat) :
    (State.stopTun s u).kept = s.kept := by
  unfold State.stopTun; dsimp only; (repeat' split) <;> simp
@[simp] theorem State.stopAll_kept (s : State) :
    (State.stopAll s).kept = s.kept := by
  simp [State.stopAll]
@[simp] theorem State.stopAllNow_kept (s : State) :
    (State.stopAllNow s).kept = s.kept := by
  simp [State.stopAllNow]
@[simp] theorem State.programFault_kept (s : State) (n u : Nat) (f : ProgFault) :
    (State.programFault s n u f).kept = s.kept := by
  simp [State.programFault]
@[simp] theorem State.countFault_kept (s : State) (cls die unit intNs : Nat) :
    (State.countFault s cls die unit intNs).kept = s.kept := by
  simp [State.countFault]
@[simp] theorem State.fault_kept (s : State) (cls die unit intNs : Nat) :
    (State.fault s cls die unit intNs).kept = s.kept := by
  unfold State.fault; dsimp only; (repeat' split) <;> simp
@[simp] theorem State.stopOnDie_kept (s : State) (n : Nat) :
    (State.stopOnDie s n).kept = s.kept := by
  unfold State.stopOnDie; (repeat' split) <;> simp [apply_ite]
@[simp] theorem State.completeToken_kept (s : State) (n u tok : Nat) (remote : Bool) :
    (State.completeToken s n u tok remote).kept = s.kept := by
  unfold State.completeToken; dsimp only; (repeat' split) <;> simp
@[simp] theorem State.putOut_kept (s : State) (n : Nat) (r : DieOut) :
    (State.putOut s n r).kept = s.kept := by
  unfold State.putOut; split <;> simp (maxDischargeDepth := 40)
@[simp] theorem State.owe_kept (s : State) (n u win writer : Nat) :
    (State.owe s n u win writer).kept = s.kept := by
  simp [State.owe]
@[simp] theorem State.writeLocal_kept (s : State) (n : Nat) (ws : List (Nat × Bytes)) :
    (State.writeLocal s n ws).kept = s.kept := by
  simp [State.writeLocal]
@[simp] theorem State.setGroup_kept (s : State) (pg : Nat) (g : ParityGroup) :
    (State.setGroup s pg g).kept = s.kept := by
  simp [State.setGroup]
@[simp] theorem State.openStripe_kept (s : State) (l : Loc) :
    (State.openStripe s l).kept = s.kept := by
  unfold State.openStripe; dsimp only; (repeat' split) <;> simp
@[simp] theorem State.cellarWrite_kept (s : State) (u n off : Nat) (bs : Bytes) :
    (State.cellarWrite s u n off bs).kept = s.kept := by
  unfold State.cellarWrite
  extract_lets key whole s1 s2 a b
  have h1 : s1.kept = s.kept := kept_foldl _ _ _ fun s o => by split <;> rfl
  have h2 : s2.kept = s1.kept := kept_foldl _ _ _ fun s p => by split <;> rfl
  rw [kept_foldl _ _ _ fun s i => by (repeat' split) <;> simp, h2, h1]
@[simp] theorem State.fillStripes_kept (s : State) (u : Nat) :
    (State.fillStripes s u).kept = s.kept := by
  unfold State.fillStripes; (repeat' split) <;> simp [apply_ite]
@[simp] theorem State.holdWrite_kept (s : State) (n u : Nat) (ls : List Loc) :
    (State.holdWrite s n u ls).kept = s.kept := by
  unfold State.holdWrite; (repeat' split) <;> simp [apply_ite]
@[simp] theorem State.retryWrites_kept (s : State) :
    (State.retryWrites s).kept = s.kept := by
  unfold State.retryWrites; exact kept_foldl _ _ _ fun s x => by (repeat' split) <;> simp (maxDischargeDepth := 40) 
@[simp] theorem State.remoteWrite_kept (s : State) (m u n off : Nat) (bs : Bytes) :
    (State.remoteWrite s m u n off bs).kept = s.kept := by
  unfold State.remoteWrite; dsimp only; (repeat' split) <;> simp (maxDischargeDepth := 40) 
@[simp] theorem State.heldReads_kept (s : State) (m u n off len : Nat) :
    (State.heldReads s m u n off len).kept = s.kept := by
  unfold State.heldReads; dsimp only; (repeat' split) <;> simp (maxDischargeDepth := 40) 
@[simp] theorem State.noteReads_kept (s : State) (u n off len : Nat) :
    (State.noteReads s u n off len).kept = s.kept := by
  unfold State.noteReads; dsimp only; (repeat' split) <;> simp
@[simp] theorem State.fillTunRings_kept (s : State) (u : Nat) :
    (State.fillTunRings s u).kept = s.kept := by
  unfold State.fillTunRings; split <;> simp
@[simp] theorem State.handOver_kept (s : State) (n u : Nat) (x : RackSeg) :
    (State.handOver s n u x).kept = s.kept := by
  simp (maxDischargeDepth := 40) [State.handOver]
@[simp] theorem State.hubRack_kept (s : State) (u : Nat) (x : RackSeg) :
    (State.hubRack s u x).kept = s.kept := by
  simp (maxDischargeDepth := 40) [State.hubRack]
@[simp] theorem State.takeBuffered_kept (s : State) (n u : Nat) :
    (State.takeBuffered s n u).kept = s.kept := by
  unfold State.takeBuffered; dsimp only; (repeat' split) <;> simp (maxDischargeDepth := 40)
@[simp] theorem State.setCoder_kept (s : State) (n u : Nat) (k : Coder) :
    (State.setCoder s n u k).kept = s.kept := by
  simp [State.setCoder]
@[simp] theorem State.sendRack_kept (s : State) (n u : Nat) (f : RkFields) (plain : Bytes) :
    (State.sendRack s n u f plain).kept = s.kept := by
  simp [State.sendRack]
@[simp] theorem State.closeCoder_kept (s : State) (n u : Nat) :
    (State.closeCoder s n u).kept = s.kept := by
  unfold State.closeCoder; dsimp only; (repeat' split) <;> simp
@[simp] theorem State.codeBlock_kept (s : State) (n u entry first : Nat) (xor : Bytes) (last : Bool) :
    (State.codeBlock s n u entry first xor last).kept = s.kept := by
  unfold State.codeBlock; dsimp only; (repeat' split) <;> simp
@[simp] theorem State.codeUnchanged_kept (s : State) (n u entry first k blocks : Nat) :
    (s.codeUnchanged n u entry first k blocks).kept = s.kept := by
  induction k generalizing s first blocks with
  | zero => rfl
  | succ k ih => cases blocks <;> simp [State.codeUnchanged, ih]
@[simp] theorem State.ackOne_kept (s : State) (u : Nat) (x : RackSeg) :
    (State.ackOne s u x).kept = s.kept := by
  simp [State.ackOne]
@[simp] theorem State.abandonRack_kept (s : State) (u : Nat) :
    (State.abandonRack s u).kept = s.kept := by
  simp [State.abandonRack]
@[simp] theorem State.sendHistory_kept (s : State) (u : Nat) :
    (State.sendHistory s u).kept = s.kept := by
  simp [State.sendHistory]
@[simp] theorem State.setUpd_kept (s : State) (n u : Nat) (x : UpdCtx) :
    (State.setUpd s n u x).kept = s.kept := by
  simp [State.setUpd]
@[simp] theorem State.lateRead_kept (s : State) (n u entry b : Nat) (payload : CaskPiece → Bytes) :
    (State.lateRead s n u entry b payload).kept = s.kept := by
  unfold State.lateRead; dsimp only; (repeat' split) <;> simp
@[simp] theorem State.lateSlot_kept (s : State) (n u entry : Nat) (payload : CaskPiece → Bytes) :
    (State.lateSlot s n u entry payload).kept = s.kept := by
  simp [State.lateSlot]
@[simp] theorem State.noteBlock_kept (s : State) (n u : Nat) (e : BitVec 512) (b : Nat) :
    (State.noteBlock s n u e b).kept = s.kept := by
  simp (maxDischargeDepth := 40) [State.noteBlock]
@[simp] theorem State.updateBlock_kept (s : State) (n u entry b : Nat) (gs : List Word32) (last : Bool) :
    (State.updateBlock s n u entry b gs last).kept = s.kept := by
  unfold State.updateBlock; dsimp only; (repeat' split) <;> simp
@[simp] theorem State.blockAcked_kept (s : State) (n u entry b : Nat) :
    (State.blockAcked s n u entry b).kept = s.kept := by
  unfold State.blockAcked; dsimp only; (repeat' split) <;> simp
@[simp] theorem State.forwardGranary_kept (s : State) (n u entry : Nat) (e : BitVec 512) (g : GradSegment) (blocks : List Nat) :
    (State.forwardGranary s n u entry e g blocks).kept = s.kept := by
  simp [State.forwardGranary]
@[simp] theorem State.forwardDone_kept (s : State) (n u : Nat) :
    (State.forwardDone s n u).kept = s.kept := by
  unfold State.forwardDone; dsimp only; (repeat' split) <;> simp (maxDischargeDepth := 40)
@[simp] theorem State.noteSegWait_kept (s : State) (n u why : Nat) :
    (State.noteSegWait s n u why).kept = s.kept := by
  simp (maxDischargeDepth := 40) [State.noteSegWait]
@[simp] theorem State.applyBlocks_kept (s : State) (n u : Nat) (g : GradSegment) (p : Nat × BitVec 512) (bs : List Nat) :
    (s.applyBlocks n u g p bs).1.kept = s.kept := by
  induction bs generalizing s with
  | nil => rfl
  | cons b bs ih => unfold State.applyBlocks; (repeat' split) <;> simp [ih]
@[simp] theorem State.applyEntry_kept (s : State) (n u : Nat) (g : GradSegment) (p : Nat × BitVec 512) :
    (State.applyEntry s n u g p).1.kept = s.kept := by
  unfold State.applyEntry
  extract_lets e x bs keys k st s1
  have h1 : s1.kept = s.kept := State.setUpd_kept ..
  (repeat' split) <;> simp [h1]
@[simp] theorem State.applyEntries_kept (s : State) (n u : Nat) (g : GradSegment) (ps : List (Nat × BitVec 512)) :
    (s.applyEntries n u g ps).1.kept = s.kept := by
  induction ps generalizing s with
  | nil => rfl
  | cons p ps ih =>
    have k := State.applyEntry_kept s n u g p
    unfold State.applyEntries
    split <;> rename_i heq <;> rw [heq] at k
    · exact k
    · exact (ih _).trans k
@[simp] theorem State.discardSegment_kept (s : State) (n u : Nat) (g : GradSegment) (ps : List (Nat × BitVec 512)) :
    (State.discardSegment s n u g ps).kept = s.kept := by
  simp (maxDischargeDepth := 40) [State.discardSegment]
@[simp] theorem State.contradicted_kept (s : State) (n u : Nat) (g : GradSegment) (ps : List (Nat × BitVec 512)) :
    (State.contradicted s n u g ps).kept = s.kept := by
  unfold State.contradicted; split <;> simp (maxDischargeDepth := 40)
@[simp] theorem State.takeSegment_kept (s : State) (n u due : Nat) (g : GradSegment) :
    (State.takeSegment s n u due g).1.kept = s.kept := by
  unfold State.takeSegment
  extract_lets x ps seen given r y0 y1 emb y2 s1
  have hr : r.1.kept = s.kept := by unfold r; split <;> simp
  have h1 : s1.kept = s.kept := (State.setUpd_kept ..).trans hr
  clear_value s1 r
  (repeat' split) <;> simp [hr, h1]
@[simp] theorem State.foldSketch.factorSegments_kept (s : State) (n u tensor : Nat) (bs : Bytes) (first k : Nat) :
    (State.foldSketch.factorSegments s n u tensor bs first k).kept = s.kept := by
  induction k generalizing s bs first with
  | zero => rfl
  | succ k ih => unfold State.foldSketch.factorSegments; split <;> simp [ih]
@[simp] theorem State.foldSketch_kept (s : State) (n u entry : Nat) (sums : List Word32 × Word32) :
    (State.foldSketch s n u entry sums).kept = s.kept := by
  unfold State.foldSketch
  dsimp only
  rw [State.foldSketch.factorSegments_kept]
  split <;> simp (maxDischargeDepth := 40)
@[simp] theorem State.freezeEntry_kept (s : State) (n u g entry : Nat) :
    (State.freezeEntry s n u g entry).kept = s.kept := by
  simp (maxDischargeDepth := 40) [State.freezeEntry]
@[simp] theorem State.freezeCopies_kept (s : State) (n u : Nat) :
    (State.freezeCopies s n u).kept = s.kept := by
  unfold State.freezeCopies
  extract_lets g r
  have h : r.1.kept = s.kept := kept_foldl_fst _ _ _ fun r entry => by dsimp only; (repeat' split) <;> simp
  clear_value r
  simp [h]
@[simp] theorem State.rackFrozen_kept (s : State) (n u : Nat) :
    (State.rackFrozen s n u).kept = s.kept := by
  unfold State.rackFrozen; (repeat' split) <;> simp [apply_ite]
@[simp] theorem State.stepClosed_kept (s : State) (n u : Nat) (nonfinite : Bool) :
    (State.stepClosed s n u nonfinite).kept = s.kept := by
  unfold State.stepClosed; dsimp only; (repeat' split) <;> simp
@[simp] theorem State.giveVote_kept (s : State) (u : Nat) :
    (State.giveVote s u).kept = s.kept := by
  simp [State.giveVote]
@[simp] theorem State.takeGravity_kept (s : State) (u : Nat) (v : VoteData) :
    (State.takeGravity s u v).kept = s.kept := by
  simp [State.takeGravity]
@[simp] theorem State.voteSpoiled_kept (s : State) (u : Nat) (nf : Bool) :
    (State.voteSpoiled s u nf).kept = s.kept := by
  unfold State.voteSpoiled; dsimp only; (repeat' split) <;> simp
@[simp] theorem State.startLag_kept (s : State) (u : Nat) :
    (State.startLag s u).kept = s.kept := by
  unfold State.startLag; dsimp only; (repeat' split) <;> simp (maxDischargeDepth := 40)
@[simp] theorem State.voteDelivered_kept (s : State) (u : Nat) (v : VoteData) :
    (State.voteDelivered s u v).kept = s.kept := by
  unfold State.voteDelivered; split <;> simp
@[simp] theorem State.silentEvents_kept (s : State) (u step : Nat) :
    (State.silentEvents s u step).kept = s.kept := by
  unfold State.silentEvents; (repeat' split) <;> simp [apply_ite]
@[simp] theorem State.planCasks_kept (s : State) (u attempt : Nat) :
    (State.planCasks s u attempt).kept = s.kept := by
  simp [State.planCasks]
@[simp] theorem State.sendLayout_kept (s : State) (u : Nat) (shards : List (BitVec 256)) :
    (State.sendLayout s u shards).kept = s.kept := by
  simp [State.sendLayout]
@[simp] theorem State.noteSlots_kept (s : State) (n u : Nat) :
    (State.noteSlots s n u).kept = s.kept := by
  simp (maxDischargeDepth := 40) [State.noteSlots]
@[simp] theorem State.keepPieces_kept (s : State) (u : Nat) :
    (State.keepPieces s u).kept = s.kept := by
  simp (maxDischargeDepth := 40) [State.keepPieces]
@[simp] theorem State.relay_kept (s : State) (u : Nat) (pkg : LayoutPackage) :
    (State.relay s u pkg).kept = s.kept := by
  unfold State.relay; dsimp only
  split <;> (try rw [State.stopTun_kept]) <;> rw [State.setTun_kept] <;>
    exact (kept_foldl _ _ _ fun s n => by simp (maxDischargeDepth := 40)).trans ((kept_foldl _ _ _ fun s n => by simp (maxDischargeDepth := 40)).trans
      ((kept_foldl _ _ _ fun s n => by simp (maxDischargeDepth := 40)).trans (by simp (maxDischargeDepth := 40))))
@[simp] theorem State.watchBung_kept (s : State) (u step : Nat) :
    (State.watchBung s u step).kept = s.kept := by
  simp (maxDischargeDepth := 40) [State.watchBung]
@[simp] theorem State.endRacking_kept (s : State) (u : Nat) (hist : Bool) :
    (State.endRacking s u hist).kept = s.kept := by
  unfold State.endRacking; split <;> simp (maxDischargeDepth := 40)
@[simp] theorem State.digestStep_kept (s : State) (u step : Nat) (on : Bool) :
    (State.digestStep s u step on).kept = s.kept := by
  unfold State.digestStep; split <;> simp (maxDischargeDepth := 40)
@[simp] theorem State.driveBung_kept (s : State) (u : Nat) :
    (State.driveBung s u).kept = s.kept := by
  unfold State.driveBung; dsimp only; (repeat' split) <;> simp (maxDischargeDepth := 40) 
@[simp] theorem State.outcomeClean_kept (s : State) (n u : Nat) :
    (State.outcomeClean s n u).kept = s.kept := by
  simp [State.outcomeClean]
@[simp] theorem State.outcomeSpoiled_kept (s : State) (n u : Nat) :
    (State.outcomeSpoiled s n u).kept = s.kept := by
  simp [State.outcomeSpoiled]
@[simp] theorem State.putRecords_kept (s : State) (u n : Nat) (ws : List PermWrite) :
    (State.putRecords s u n ws).kept = s.kept := by
  simp (maxDischargeDepth := 40) [State.putRecords]
@[simp] theorem State.reloadFactors_kept (s : State) (n u : Nat) :
    (State.reloadFactors s n u).kept = s.kept := by
  simp (maxDischargeDepth := 40) [State.reloadFactors]
@[simp] theorem State.compareDigests_kept (s : State) (u : Nat) :
    (State.compareDigests s u).kept = s.kept := by
  unfold State.compareDigests; dsimp only; (repeat' split) <;> simp (maxDischargeDepth := 40) 
@[simp] theorem State.setDebt_kept (s : State) (n u x : Nat) :
    (State.setDebt s n u x).kept = s.kept := by
  simp [State.setDebt]
@[simp] theorem State.setSlice_kept (s : State) (n : Nat) (x : SliceState) :
    (State.setSlice s n x).kept = s.kept := by
  simp [State.setSlice]
@[simp] theorem State.switchIn_kept (s : State) (n u i start nominal target : Nat) :
    (State.switchIn s n u i start nominal target).kept = s.kept := by
  unfold State.switchIn
  extract_lets d0 d1 d2 sl
  simp
@[simp] theorem State.idleDie_kept (s : State) (n i nominal : Nat) :
    (State.idleDie s n i nominal).kept = s.kept := by
  simp [State.idleDie]
@[simp] theorem State.runPooled_kept (s : State) (n start last : Nat) (l : List (Nat × Nat × Nat)) :
    (s.runPooled n start last l).kept = s.kept := by
  induction l generalizing s with
  | nil => simp [State.runPooled]
  | cons x l ih => unfold State.runPooled; dsimp only; (repeat' split) <;> simp [ih]
@[simp] theorem State.runSealed_kept (s : State) (n base start : Nat) (l : List (Nat × Nat)) (i : Nat) :
    (State.runSealed s n base start l i).kept = s.kept := by
  unfold State.runSealed; (repeat' split) <;> simp
@[simp] theorem State.runPlan_kept (s : State) (n base start i : Nat) :
    (State.runPlan s n base start i).kept = s.kept := by
  unfold State.runPlan; split <;> simp
@[simp] theorem State.nextSlice_kept (s : State) (n stop : Nat) :
    (State.nextSlice s n stop).kept = s.kept := by
  unfold State.nextSlice; dsimp only; (repeat' split) <;> simp
@[simp] theorem State.sliceStop_kept (s : State) (n u stop : Nat) :
    (State.sliceStop s n u stop).kept = s.kept := by
  unfold State.sliceStop; dsimp only; (repeat' split) <;> simp
@[simp] theorem State.sealPassed_kept (s : State) (n u : Nat) :
    (State.sealPassed s n u).kept = s.kept := by
  unfold State.sealPassed; dsimp only; (repeat' split) <;> simp
@[simp] theorem State.bushelOn_kept (s : State) (n k : Nat) :
    (State.bushelOn s n k).kept = s.kept := by
  unfold State.bushelOn; dsimp only; (repeat' split) <;> simp
@[simp] theorem State.sealedEnd_kept (s : State) (n : Nat) :
    (State.sealedEnd s n).kept = s.kept := by
  unfold State.sealedEnd; dsimp only; (repeat' split) <;> simp
@[simp] theorem State.logRepair_kept (s : State) (type : Nat) (body : BitVec 192) :
    (State.logRepair s type body).kept = s.kept := by
  exact congrArg (fun c : FlashCopy × FlashCopy => (s.pending, s.layout, c.1, c.2)) (Flash.log_copies _ _)
@[simp] theorem State.queueRow_kept (s : State) (n : Nat) (r : RowRepair) :
    (State.queueRow s n r).kept = s.kept := by
  unfold State.queueRow; dsimp only; (repeat' split) <;> simp
@[simp] theorem State.copyRows_kept (s : State) (n u : Nat) :
    (State.copyRows s n u).kept = s.kept := by
  unfold State.copyRows; dsimp only; (repeat' split) <;> simp
@[simp] theorem State.noteUe_kept (s : State) (u key : Nat) :
    (State.noteUe s u key).1.kept = s.kept := by
  simp [State.noteUe]
@[simp] theorem State.sendPages_kept (s : State) (n : Nat) (j : MovJob) :
    (State.sendPages s n j).kept = s.kept := by
  unfold State.sendPages; dsimp only; (repeat' split) <;> simp (maxDischargeDepth := 40)
@[simp] theorem State.fillPages_kept (s : State) :
    (State.fillPages s).kept = s.kept := by
  simp (maxDischargeDepth := 40) [State.fillPages]
@[simp] theorem State.retile_kept (s : State) (n : Nat) (j : MovJob) :
    (State.retile s n j).kept = s.kept := by
  simp [State.retile]
@[simp] theorem State.copyLines_kept (s : State) (n : Nat) (j : MovJob) :
    (State.copyLines s n j).kept = s.kept := by
  unfold State.copyLines; dsimp only; (repeat' split) <;> simp
@[simp] theorem State.noteSource_kept (s : State) (n : Nat) (j : MovJob) :
    (State.noteSource s n j).kept = s.kept := by
  unfold State.noteSource; dsimp only; (repeat' split) <;> simp
@[simp] theorem State.movTokens_kept (s : State) (n : Nat) (j : MovJob) :
    (State.movTokens s n j).kept = s.kept := by
  unfold State.movTokens; dsimp only; (repeat' split) <;> simp
@[simp] theorem State.deliverFar_kept (s : State) (n u slot : Nat) :
    (State.deliverFar s n u slot).kept = s.kept := by
  unfold State.deliverFar; (repeat' split) <;> simp
@[simp] theorem State.movComplete_kept (s : State) (n u slot : Nat) :
    (State.movComplete s n u slot).kept = s.kept := by
  unfold State.movComplete; dsimp only; (repeat' split) <;> simp
@[simp] theorem State.hostFails_kept (s : State) (n u place unit : Nat) :
    (State.hostFails s n u place unit).kept = s.kept := by
  unfold State.hostFails; dsimp only; (repeat' split) <;> simp (maxDischargeDepth := 40)
@[simp] theorem State.forwardReturn_kept (s : State) (n u : Nat) :
    (State.forwardReturn s n u).kept = s.kept := by
  unfold State.forwardReturn; dsimp only
  split
  · rfl
  · split <;> simp (maxDischargeDepth := 40)
@[simp] theorem State.flushReturn_kept (s : State) (n u slot : Nat) :
    (State.flushReturn s n u slot).kept = s.kept := by
  unfold State.flushReturn; (repeat' split) <;> simp
@[simp] theorem State.noteHeldPages_kept (s : State) (u : Nat) :
    (State.noteHeldPages s u).kept = s.kept := by
  unfold State.noteHeldPages; split <;> simp
@[simp] theorem State.pageReturn_kept (s : State) (n u slot page : Nat) (ct : Bytes) (tagRec : BitVec 256) (err : Bool) :
    (State.pageReturn s n u slot page ct tagRec err).kept = s.kept := by
  unfold State.pageReturn; dsimp only; (repeat' split) <;> simp
@[simp] theorem State.contribute_kept (s : State) (n u c : Nat) (xs : List (Nat × Nat)) :
    (State.contribute s n u c xs).1.kept = s.kept := by
  unfold State.contribute; dsimp only; (repeat' split) <;> simp
@[simp] theorem State.flushSketch_kept (s : State) (n u b : Nat) :
    (State.flushSketch s n u b).kept = s.kept := by
  unfold State.flushSketch
  cases (s.tun u).sketchColl b with
  | none => rfl
  | some p =>
    exact kept_foldl _ _ _ fun s r => kept_foldl _ _ _ fun s p => by
      dsimp only; (repeat' split) <;> simp
@[simp] theorem State.moveOut_kept (s : State) (u c first : Nat) (codes scales : List Nat) (bs : Nat) :
    (State.moveOut s u c first codes scales bs).kept = s.kept := by
  simp [State.moveOut]
@[simp] theorem State.regenerate_kept (s : State) (n u entry base first count : Nat) :
    (State.regenerate s n u entry base first count).1.kept = s.kept := by
  simp [State.regenerate]
@[simp] theorem State.pieceTaken_kept (s : State) (n u : Nat) (j : MovJob) (start k : Nat) :
    (State.pieceTaken s n u j start k).1.kept = s.kept := by
  unfold State.pieceTaken; dsimp only; (repeat' split) <;> simp
@[simp] theorem State.releaseBucket_kept (s : State) (u b : Nat) :
    (State.releaseBucket s u b).kept = s.kept := by
  unfold State.releaseBucket; dsimp only; (repeat' split) <;> simp
@[simp] theorem State.bucketMarker_kept (s : State) (u b : Nat) :
    (State.bucketMarker s u b).kept = s.kept := by
  unfold State.bucketMarker; dsimp only; (repeat' split) <;> simp
@[simp] theorem State.bucketClosed_kept (s : State) (n u b : Nat) :
    (State.bucketClosed s n u b).kept = s.kept := by
  simp [State.bucketClosed]
@[simp] theorem State.slotTake_kept (s : State) (n u slot : Nat) :
    (State.slotTake s n u slot).kept = s.kept := by
  unfold State.slotTake
  cases (s.die n).mov u slot with
  | none => rfl
  | some j =>
    dsimp only
    split
    · rfl
    · split
      · exact (State.setTun_kept ..).trans (State.draw_kept s)
      · split
        · rfl
        · split
          · rename_i heq
            have k := (congrArg (fun r => r.1.kept) heq).symm.trans ((State.pieceTaken_kept ..).trans (State.noteSource_kept ..))
            simp at k
            simp [k]
          · rename_i heq
            have k := (congrArg (fun r => r.1.kept) heq).symm.trans ((State.pieceTaken_kept ..).trans (State.noteSource_kept ..))
            simp at k
            clear heq
            (repeat' split) <;> simp [k]
@[simp] theorem State.deliverSeg_kept (s : State) (u : Nat) (r : BitVec 128) (e : BitVec 256) (x : Seg) :
    (State.deliverSeg s u r e x).kept = s.kept := by
  simp [State.deliverSeg]
@[simp] theorem State.deliver_kept (s : State) (u rec : Nat) :
    (State.deliver s u rec).kept = s.kept := by
  unfold State.deliver; dsimp only; (repeat' split) <;> simp
@[simp] theorem State.segmentIn_kept (s : State) (u c src round first : Nat) (codes scales rows : List Nat) (nf last : Bool) (bs : Nat) :
    (State.segmentIn s u c src round first codes scales rows nf last bs).kept = s.kept := by
  unfold State.segmentIn; dsimp only; (repeat' split) <;> simp
@[simp] theorem State.noteStall_kept (s : State) (n u : Nat) (sl : Slice) (w : Wait) :
    (State.noteStall s n u sl w).kept = s.kept := by
  unfold State.noteStall; dsimp only; (repeat' split) <;> simp
@[simp] theorem State.waitCycle_kept (s : State) (n u : Nat) (w : Wait) :
    (State.waitCycle s n u w).kept = s.kept := by
  simp [State.waitCycle]
@[simp] theorem State.issued_kept (s : State) (n u : Nat) (sl : Slice) (voids far : List Nat) (nonfinite : Bool) :
    (State.issued s n u sl voids far nonfinite).kept = s.kept := by
  unfold State.issued
  extract_lets t again t1 t2 t3 s1 s2 s3 s4 s5 s6
  have h2 : s2.kept = s.kept := (kept_foldl _ _ _ fun s m => by simp).trans (by simp [s1])
  have h3 : s3.kept = s2.kept := by unfold s3; split <;> simp
  have h4 : s4.kept = s3.kept := by unfold s4; split <;> simp
  have h5 : s5.kept = s4.kept := by unfold s5; split <;> simp
  have h6 : s6.kept = s5.kept := by unfold s6; split <;> simp
  rw [← h2, ← h3, ← h4, ← h5, ← h6]
  split <;> simp
@[simp] theorem State.issueNow_kept (s : State) (n u : Nat) (sl : Slice) :
    (State.issueNow s n u sl).kept = s.kept := by
  unfold State.issueNow; split <;> simp
@[simp] theorem State.sliceCommand_kept (s : State) (n : Nat) (names : Slice → Bool) :
    (State.sliceCommand s n names).kept = s.kept := by
  unfold State.sliceCommand; dsimp only; (repeat' split) <;> simp
@[simp] theorem State.logArray_kept (s : State) (n : Nat) :
    (State.logArray s n).kept = s.kept := by
  simp [State.logArray]
@[simp] theorem State.suspend_kept (s : State) (n : Nat) :
    (State.suspend s n).kept = s.kept := by
  unfold State.suspend; split <;> simp
@[simp] theorem State.suspendDies_kept (s : State) (us : List Nat) :
    (State.suspendDies s us).kept = s.kept := by
  simp (maxDischargeDepth := 40) [State.suspendDies]
@[simp] theorem State.columnStops_kept (s : State) (n col row : Nat) :
    (State.columnStops s n col row).kept = s.kept := by
  unfold State.columnStops; dsimp only; (repeat' split) <;> simp
@[simp] theorem State.arrayLost_kept (s : State) (n unit : Nat) :
    (State.arrayLost s n unit).kept = s.kept := by
  unfold State.arrayLost; dsimp only; (repeat' split) <;> simp
@[simp] theorem State.columnTested_kept (s : State) (n col : Nat) (ok : Bool) :
    (State.columnTested s n col ok).kept = s.kept := by
  unfold State.columnTested; dsimp only; (repeat' split) <;> simp
@[simp] theorem State.delayedEnds_kept (s : State) (n b : Nat) :
    (State.delayedEnds s n b).kept = s.kept := by
  unfold State.delayedEnds; split <;> simp
@[simp] theorem State.idleGates_kept (s : State) (n cycles : Nat) (kind : GateReq) :
    (State.idleGates s n cycles kind).kept = s.kept := by
  unfold State.idleGates; dsimp only; (repeat' split) <;> simp
@[simp] theorem State.ackRing_kept (s : State) (u k idx : Nat) :
    (State.ackRing s u k idx).kept = s.kept := by
  unfold State.ackRing; dsimp only; (repeat' split) <;> simp
@[simp] theorem State.sendCommit_kept (s : State) (u : Nat) :
    (State.sendCommit s u).kept = s.kept := by
  unfold State.sendCommit; dsimp only; (repeat' split) <;> simp
@[simp] theorem State.putSlot_kept (s : State) (u : Nat) (x : RackSeg) :
    (State.putSlot s u x).kept = s.kept := by
  simp [State.putSlot]
@[simp] theorem State.commitPiece_kept (s : State) (u : Nat) (p : CaskPiece) :
    (State.commitPiece s u p).kept = s.kept := by
  simp [State.commitPiece]
@[simp] theorem State.endEvaluation_kept (s : State) (u : Nat) (c : EvalCask) :
    (State.endEvaluation s u c).kept = s.kept := by
  simp [State.endEvaluation]
@[simp] theorem State.sendChunk_kept (s : State) (u : Nat) (p : CaskPiece) :
    (State.sendChunk s u p).kept = s.kept := by
  simp [State.sendChunk]
@[simp] theorem State.evalLocal_kept (s : State) (u : Nat) :
    (State.evalLocal s u).kept = s.kept := by
  unfold State.evalLocal
  split
  · rfl
  · exact kept_foldl _ _ _ fun s x => by simp
@[simp] theorem State.caskRead_kept (s : State) (n u : Nat) :
    (State.caskRead s n u).kept = s.kept := by
  unfold State.caskRead; dsimp only; (repeat' split) <;> simp
@[simp] theorem State.measure_kept (s : State) (i : Nat) (bs : Bytes) :
    (State.measure s i bs).kept = s.kept := by
  simp [State.measure]
@[simp] theorem State.sigFailed_kept (s : State) :
    (State.sigFailed s).kept = s.kept := by
  simp [State.sigFailed]
@[simp] theorem State.tearDownTun_kept (s : State) (u : Nat) :
    (State.tearDownTun s u).kept = s.kept := by
  simp [State.tearDownTun]
@[simp] theorem State.tampered_kept (s : State) :
    (State.tampered s).kept = s.kept := by
  unfold State.tampered
  extract_lets s1 s2 a
  have h2 : s2.kept = s1.kept := kept_foldl _ _ _ fun s u => rfl
  rw [State.fault_kept, State.kept_mk]
  exact h2.trans (State.stopAll_kept s)
@[simp] theorem State.expose_kept (s : State) (pg : Nat) :
    (State.expose s pg).kept = s.kept := by
  simp [State.expose]
@[simp] theorem State.groupLost_kept (s : State) (pg die unit : Nat) :
    (State.groupLost s pg die unit).kept = s.kept := by
  simp [State.groupLost]
@[simp] theorem State.linkOff_kept (s : State) (l : Nat) :
    (State.linkOff s l).kept = s.kept := by
  simp [State.linkOff]
@[simp] theorem State.darkGroup_kept (s : State) (n : Nat) :
    (State.darkGroup s n).kept = s.kept := by
  unfold State.darkGroup; (repeat' split) <;> simp
@[simp] theorem State.loseDie_kept (s : State) (n cause : Nat) (dark : Bool) :
    (State.loseDie s n cause dark).kept = s.kept := by
  unfold State.loseDie; (repeat' split) <;> simp
@[simp] theorem State.commitStops_kept (s : State) (unit : Nat) :
    (State.commitStops s unit).kept = s.kept := by
  simp [State.commitStops]
@[simp] theorem State.commitLost_kept (s : State) (unit : Nat) :
    (State.commitLost s unit).kept = s.kept := by
  unfold State.commitLost; split <;> simp
@[simp] theorem State.absorbed_kept (s : State) (cls die unit : Nat) :
    (State.absorbed s cls die unit).kept = s.kept := by
  simp [State.absorbed]
@[simp] theorem State.handle_kept (s : State) (cls die unit : Nat) (u : Option Nat) :
    (State.handle s cls die unit u).kept = s.kept := by
  unfold State.handle; (repeat' split) <;> simp
@[simp] theorem State.handleHeld_kept (s : State) (r : HeldReport) :
    (State.handleHeld s r).kept = s.kept := by
  unfold State.handleHeld; (repeat' split) <;> simp
@[simp] theorem State.report_kept (s : State) (owner unit cls : Nat) (u : Option Nat) :
    (State.report s owner unit cls u).kept = s.kept := by
  unfold State.report; dsimp only; (repeat' split) <;> simp
@[simp] theorem State.hubEngines_kept (s : State) (f : Keeper → Keeper) :
    (State.hubEngines s f).kept = s.kept := by
  simp [State.hubEngines]
@[simp] theorem State.dropCoders_kept (s : State) (n : Nat) :
    (State.dropCoders s n).kept = s.kept := by
  simp (maxDischargeDepth := 40) [State.dropCoders]
@[simp] theorem State.emergencyStop_kept (s : State) (cause : Nat) :
    (State.emergencyStop s cause).kept = s.kept := by
  unfold State.emergencyStop; (repeat' split) <;> simp [apply_ite]
@[simp] theorem State.voidMovs_kept (s : State) (n : Nat) :
    (State.voidMovs s n).kept = s.kept := by
  simp [State.voidMovs]
@[simp] theorem State.voidVecs_kept (s : State) (n u : Nat) :
    (State.voidVecs s n u).kept = s.kept := by
  unfold State.voidVecs
  exact kept_foldl _ _ _ fun s x => by (repeat' split) <;> simp
@[simp] theorem State.resumeDie_kept (s : State) (n ns : Nat) :
    (State.resumeDie s n ns).kept = s.kept := by
  unfold State.resumeDie; dsimp only; (repeat' split) <;> simp
@[simp] theorem State.releaseStop_kept (s : State) (ns : Nat) (byBmc : Bool) :
    (State.releaseStop s ns byBmc).kept = s.kept := by
  unfold State.releaseStop; (repeat' split) <;> simp [apply_ite]
@[simp] theorem State.enterDeepIdle_kept (s : State) :
    (State.enterDeepIdle s).kept = s.kept := by
  unfold State.enterDeepIdle; split <;> simp
@[simp] theorem State.leaveDeepIdle_kept (s : State) :
    (State.leaveDeepIdle s).kept = s.kept := by
  unfold State.leaveDeepIdle; split <;> simp
@[simp] theorem State.pullPrepare_kept (s : State) :
    (State.pullPrepare s).kept = s.kept := by
  unfold State.pullPrepare; split <;> simp
@[simp] theorem State.countMac_kept (s : State) (m i n : Nat) :
    (State.countMac s m i n).kept = s.kept := by
  unfold State.countMac; dsimp only; (repeat' split) <;> simp
@[simp] theorem State.countMacs_kept (s : State) (m : Nat) (is : List Nat) :
    (State.countMacs s m is).kept = s.kept := by
  simp [State.countMacs]
@[simp] theorem State.rxFrame_kept (s : State) (m len : Nat) (mcast : Bool) (is : List Nat) :
    (State.rxFrame s m len mcast is).kept = s.kept := by
  simp [State.rxFrame]
@[simp] theorem State.txFrames_kept (s : State) (m n len : Nat) :
    (State.txFrames s m n len).kept = s.kept := by
  simp [State.txFrames]
@[simp] theorem State.discardFrame_kept (s : State) (m : Nat) (f : Bytes) (fcsOk : Bool) :
    (State.discardFrame s m f fcsOk).kept = s.kept := by
  unfold State.discardFrame; dsimp only; (repeat' split) <;> simp
@[simp] theorem State.holdTx_kept (s : State) (m : Nat) (old : Tbl Nat) :
    (State.holdTx s m old).kept = s.kept := by
  unfold State.holdTx; dsimp only; (repeat' split) <;> simp (maxDischargeDepth := 40) 
@[simp] theorem State.setPauses_kept (s : State) (m : Nat) (ps : Tbl Nat) :
    (State.setPauses s m ps).kept = s.kept := by
  unfold State.setPauses; dsimp only; (repeat' split) <;> simp
@[simp] theorem State.pauseMac_kept (s : State) (m : Nat) (qs : List (Nat × Nat)) :
    (State.pauseMac s m qs).kept = s.kept := by
  simp [State.pauseMac]
@[simp] theorem State.setPtp_kept (s : State) (p : Ptp) :
    (State.setPtp s p).kept = s.kept := by
  simp [State.setPtp]
@[simp] theorem State.planRefused_kept (s : State) (g : GaugePlan) (why m : Nat) :
    (State.planRefused s g why m).kept = s.kept := by
  simp [State.planRefused]
@[simp] theorem State.applyDelta_kept (s : State) (rank m : Nat) :
    (State.applyDelta s rank m).kept = s.kept := by
  unfold State.applyDelta; dsimp only; (repeat' split) <;> simp
@[simp] theorem State.setWidth_kept (s : State) (m lanes from' : Nat) :
    (State.setWidth s m lanes from').kept = s.kept := by
  unfold State.setWidth; dsimp only; (repeat' split) <;> simp
@[simp] theorem State.rekey_kept (s : State) :
    (State.rekey s).kept = s.kept := by
  simp (maxDischargeDepth := 40) [State.rekey]
@[simp] theorem State.sendCtlFrame_kept (s : State) (m len : Nat) (f : TFrame) :
    (State.sendCtlFrame s m len f).kept = s.kept := by
  simp (maxDischargeDepth := 40) [State.sendCtlFrame]
@[simp] theorem State.sendPooled1_kept (s : State) (m : Nat) (p : Nat × CtlMsg) :
    (State.sendPooled1 s m p).kept = s.kept := by
  simp (maxDischargeDepth := 40) [State.sendPooled1]
theorem State.sendPooled_kept (m : Nat) (ps : List (Nat × CtlMsg)) (s : State) : (State.sendPooled m ps s).1.kept = s.kept := by
  induction ps generalizing s with
  | nil => rfl
  | cons p ps ih =>
    unfold State.sendPooled
    split
    · exact (ih _).trans (State.sendPooled1_kept _ _ _)
    · rfl
@[simp] theorem State.flushCtl_kept (s : State) (m : Nat) :
    (State.flushCtl s m).kept = s.kept := by
  unfold State.flushCtl; dsimp only
  split
  · simp (maxDischargeDepth := 40)
  · exact (State.setMac_kept _ _ _).trans (State.sendPooled_kept m _ s)
@[simp] theorem State.txControls_kept (s : State) (m : Nat) (ps : List (Nat × CtlMsg)) :
    (State.txControls s m ps).kept = s.kept := by
  simp (maxDischargeDepth := 40) [State.txControls]
@[simp] theorem State.txControl_kept (s : State) (m u : Nat) (x : CtlMsg) :
    (State.txControl s m u x).kept = s.kept := by
  simp (maxDischargeDepth := 40) [State.txControl]
@[simp] theorem State.sealedFrame_kept (s : State) (m u : Nat) :
    (State.sealedFrame s m u).kept = s.kept := by
  unfold State.sealedFrame; dsimp only; (repeat' split) <;> simp (maxDischargeDepth := 40) 
@[simp] theorem State.sendPtp_kept (s : State) (m len : Nat) :
    (State.sendPtp s m len).kept = s.kept := by
  unfold State.sendPtp; (repeat' split) <;> simp (maxDischargeDepth := 40) 
@[simp] theorem State.countSent_kept (s : State) (m : Nat) (x : Sent) :
    (State.countSent s m x).kept = s.kept := by
  unfold State.countSent; (repeat' split) <;> simp (maxDischargeDepth := 40)
@[simp] theorem State.countPeck_kept (s : State) (m : Nat) :
    (State.countPeck s m).kept = s.kept := by
  unfold State.countPeck; dsimp only
  split
  · rfl
  · next p _ =>
    have h := kept_foldl (fun (s : State) x => s.countSent m x) p.run.reverse s fun s x => by simp (maxDischargeDepth := 40)
    split <;> split <;> simp (maxDischargeDepth := 40) [h, -List.foldl_reverse]
@[simp] theorem State.failPort_kept (s : State) (m : Nat) :
    (State.failPort s m).kept = s.kept := by
  unfold State.failPort; dsimp only
  split
  · rfl
  · rw [State.deviceEvent_kept]
    apply kept_choice
    · rw [State.absorbed_kept, State.deviceEvent_kept]
      split
      · exact (kept_foldl _ _ _ fun s m => by simp (maxDischargeDepth := 40)).trans (by simp (maxDischargeDepth := 40))
      · simp (maxDischargeDepth := 40)
    · simp (maxDischargeDepth := 40)
@[simp] theorem State.portFails_kept (s : State) (m : Nat) (why : PortFault) :
    (State.portFails s m why).kept = s.kept := by
  unfold State.portFails; (repeat' split) <;> simp (maxDischargeDepth := 40) 
@[simp] theorem State.sendLldp_kept (s : State) (m : Nat) :
    (State.sendLldp s m).kept = s.kept := by
  unfold State.sendLldp; dsimp only; (repeat' split) <;> simp (maxDischargeDepth := 40) 
@[simp] theorem State.spendCredits_kept (s : State) (u : Nat) (spent : Tbl Nat) :
    (State.spendCredits s u spent).kept = s.kept := by
  simp [State.spendCredits]
@[simp] theorem State.sendIn_kept (s : State) (m u kind e : Nat) (p : PeckRoom) :
    (State.sendIn s m u kind e p).1.kept = s.kept := by
  unfold State.sendIn; split <;> simp
@[simp] theorem State.sendControls_kept (s : State) (m u : Nat) :
    (State.sendControls s m u).kept = s.kept := by
  unfold State.sendControls; split <;> simp (maxDischargeDepth := 40)
@[simp] theorem State.unsend_kept (s : State) (m : Nat) (x : Sent) (n : Nat) :
    (State.unsend s m x n).kept = s.kept := by
  simp (maxDischargeDepth := 40) [State.unsend]
@[simp] theorem State.takeBack_kept (s : State) (m : Nat) (xs : List Sent) : (s.takeBack m xs).1.kept = s.kept := by
  induction xs generalizing s with
  | nil => rfl
  | cons x xs ih => unfold State.takeBack; dsimp only; (repeat' split) <;> simp [ih]
@[simp] theorem State.fillPeck_kept (s : State) (m before : Nat) :
    (State.fillPeck s m before).kept = s.kept := by
  unfold State.fillPeck; dsimp only
  split
  · rfl
  · split
    · rfl
    · exact (State.setMac_kept _ _ _).trans ((kept_foldl_fst _ _ _ fun r x => State.sendIn_kept _ _ _ _ _ _).trans (State.takeBack_kept _ _ _))
@[simp] theorem State.repeck_kept (s : State) (m : Nat) :
    (State.repeck s m).kept = s.kept := by
  unfold State.repeck
  split <;> simp
@[simp] theorem State.haltPecks_kept (s : State) :
    (State.haltPecks s).kept = s.kept := by
  unfold State.haltPecks
  refine kept_foldl _ _ _ fun s m => ?_
  split <;> simp (maxDischargeDepth := 40)
@[simp] theorem State.paused_kept (s : State) (m : Nat) (qs : List (Nat × Nat)) :
    (State.paused s m qs).kept = s.kept := by
  unfold State.paused; dsimp only; (repeat' split) <;> simp (maxDischargeDepth := 40)
@[simp] theorem State.peckStart_kept (s : State) (m i : Nat) :
    (State.peckStart s m i).kept = s.kept := by
  unfold State.peckStart; dsimp only; (repeat' split) <;> simp
@[simp] theorem State.peckEnd_kept (s : State) (m : Nat) :
    (State.peckEnd s m).kept = s.kept := by
  unfold State.peckEnd; dsimp only; (repeat' split) <;> simp
@[simp] theorem State.gaugeTurn_kept (s : State) (n : Nat) :
    (State.gaugeTurn s n).kept = s.kept := by
  unfold State.gaugeTurn; dsimp only
  split
  · rfl
  · split
    · refine (kept_foldl _ _ _ fun s m => ?_).trans (by simp (maxDischargeDepth := 40))
      rw [State.setMac_kept]
      split
      · rfl
      · split <;> simp (maxDischargeDepth := 40)
    · rfl
@[simp] theorem State.rxMessage_kept (s : State) (m u payload : Nat) (src : Option Nat) :
    (State.rxMessage s m u payload src).1.kept = s.kept := by
  simp [State.rxMessage]
theorem State.received_kept (s : State) (m u payload src : Nat) (act : State → State) (ha : ∀ s, (act s).kept = s.kept) :
    (s.received m u payload src act).kept = s.kept := by
  unfold State.received; dsimp only
  split
  · rfl
  · split
    · exact (ha _).trans (State.rxMessage_kept _ _ _ _ _)
    · exact State.rxMessage_kept _ _ _ _ _
@[simp] theorem State.ackRack_kept (s : State) (u : Nat) (mine : RackSeg → Bool) :
    (State.ackRack s u mine).kept = s.kept := by
  simp [State.ackRack]
@[simp] theorem State.takeAck_kept (s : State) (m u : Nat) (src : Peer) (kind status first more : Nat) :
    (State.takeAck s m u src kind status first more).kept = s.kept := by
  unfold State.takeAck; (repeat' split) <;> simp
@[simp] theorem State.collSegment_kept (s : State) (u src : Nat) (p : Partial) :
    (State.collSegment s u src p).kept = s.kept := by
  unfold State.collSegment; dsimp only; (repeat' split) <;> simp
@[simp] theorem State.repaired_kept (s : State) (u : Nat) :
    (State.repaired s u).kept = s.kept := by
  unfold State.repaired; dsimp only; (repeat' split) <;> simp (maxDischargeDepth := 40)
@[simp] theorem State.permuted_kept (s : State) (u : Nat) (p : Partial) :
    (State.permuted s u p).kept = s.kept := by
  unfold State.permuted; dsimp only; (repeat' split) <;> simp (maxDischargeDepth := 40)
@[simp] theorem State.segmentDone_kept (s : State) (m u : Nat) (p : Partial) :
    (State.segmentDone s m u p).kept = s.kept := by
  unfold State.segmentDone; dsimp only; (repeat' split) <;> simp (maxDischargeDepth := 40)
@[simp] theorem State.staleAck_kept (s : State) (m u src kind seq : Nat) :
    (State.staleAck s m u src kind seq).kept = s.kept := by
  simp (maxDischargeDepth := 40) [State.staleAck]
@[simp] theorem State.dataFrame_kept (s : State) (m : Nat) (h : BitVec 256) (payload : Bytes) :
    (State.dataFrame s m h payload).kept = s.kept := by
  unfold State.dataFrame; dsimp only; (repeat' split) <;> simp
@[simp] theorem State.timedOut_kept (s : State) (m : Nat) :
    (State.timedOut s m).kept = s.kept := by
  unfold State.timedOut; dsimp only; (repeat' split) <;> simp (maxDischargeDepth := 40) 
@[simp] theorem State.resendDue_kept (s : State) (m u dest kind seq : Nat) :
    (State.resendDue s m u dest kind seq).kept = s.kept := by
  unfold State.resendDue; dsimp only; (repeat' split) <;> simp
@[simp] theorem State.dropPartial_kept (s : State) (m u src kind seq : Nat) :
    (State.dropPartial s m u src kind seq).kept = s.kept := by
  unfold State.dropPartial; dsimp only; (repeat' split) <;> simp
@[simp] theorem State.setKeeper_kept (s : State) (k : Nat) (x : Keeper) :
    (State.setKeeper s k x).kept = s.kept := by
  unfold State.setKeeper; split <;> simp
@[simp] theorem State.hubSettle_kept (s : State) :
    (State.hubSettle s).kept = s.kept := by
  simp [State.hubSettle]
@[simp] theorem State.badFlit_kept (s : State) (l dir g seq : Nat) :
    (State.badFlit s l dir g seq).kept = s.kept := by
  unfold State.badFlit; dsimp only; (repeat' split) <;> simp
@[simp] theorem State.acceptFlit_kept (s : State) (l dir g kind : Nat) (f : BitVec 64) (payload : Bytes) :
    (State.acceptFlit s l dir g kind f payload).1.kept = s.kept := by
  unfold State.acceptFlit; dsimp only; (repeat' split) <;> simp
@[simp] theorem State.takeFlit_kept (s : State) (l dir g kind : Nat) (f : BitVec 64) (payload : Bytes) :
    (State.takeFlit s l dir g kind f payload).1.kept = s.kept := by
  unfold State.takeFlit; (repeat' split) <;> simp (maxDischargeDepth := 40) 
@[simp] theorem State.returnCredits_kept (s : State) (l dir g n u : Nat) :
    (State.returnCredits s l dir g n u).kept = s.kept := by
  simp [State.returnCredits]
@[simp] theorem State.replayFrom_kept (s : State) (l dir g q : Nat) :
    (State.replayFrom s l dir g q).kept = s.kept := by
  simp [State.replayFrom]
@[simp] theorem State.transferFlit_kept (s : State) (l dir tag : Nat) :
    (State.transferFlit s l dir tag).kept = s.kept := by
  simp [State.transferFlit]
@[simp] theorem State.transferEnd_kept (s : State) (l dir : Nat) (f : BitVec 64) :
    (State.transferEnd s l dir f).kept = s.kept := by
  unfold State.transferEnd; dsimp only; (repeat' split) <;> simp (maxDischargeDepth := 40)
@[simp] theorem State.windowsBack_kept (s : State) (u src dst : Nat) (wins : List Nat) :
    (State.windowsBack s u src dst wins).kept = s.kept := by
  unfold State.windowsBack; split <;> simp
@[simp] theorem State.fenceStart_kept (s : State) (n cause : Nat) (dark : Bool) :
    (State.fenceStart s n cause dark).kept = s.kept := by
  unfold State.fenceStart; split <;> simp
@[simp] theorem State.checkControl_kept (s : State) (n : Nat) :
    (State.checkControl s n).kept = s.kept := by
  unfold State.checkControl; (repeat' split) <;> simp (maxDischargeDepth := 40) 
@[simp] theorem State.checkControls_kept (s : State) :
    (State.checkControls s).kept = s.kept := by
  simp (maxDischargeDepth := 40) [State.checkControls]
@[simp] theorem State.controlFlit_kept (s : State) (l dir : Nat) (a b : Bytes) :
    (State.controlFlit s l dir a b).kept = s.kept := by
  unfold State.controlFlit; dsimp only
  split
  · simp (maxDischargeDepth := 40)
  · split
    · split <;> simp (maxDischargeDepth := 40)
    · simp (maxDischargeDepth := 40)
@[simp] theorem State.logLanes_kept (s : State) (l dir g : Nat) (bad : BitVec 74) (new : List Nat) :
    (State.logLanes s l dir g bad new).kept = s.kept := by
  simp (maxDischargeDepth := 40) [State.logLanes]
@[simp] theorem State.linkShape_kept (s : State) (l dir : Nat) :
    (State.linkShape s l dir).kept = s.kept := by
  unfold State.linkShape; dsimp only; (repeat' split) <;> simp
@[simp] theorem State.laneTested_kept (s : State) (l dir g : Nat) (bad : BitVec 74) (ns : Nat) :
    (State.laneTested s l dir g bad ns).kept = s.kept := by
  unfold State.laneTested; dsimp only
  split
  · rfl
  · (repeat' split) <;> simp (maxDischargeDepth := 40)
@[simp] theorem State.learnIndex_kept (s : State) (n : Nat) (h : Nat) (f : Found → Found) :
    (State.learnIndex s n h f).kept = s.kept := by
  unfold State.learnIndex; dsimp only; (repeat' split) <;> simp
@[simp] theorem State.identity_kept (s : State) (n : Nat) (rec' : BitVec 512) (nonce : Bytes) :
    (State.identity s n rec' nonce).kept = s.kept := by
  unfold State.identity; dsimp only; (repeat' split) <;> simp
@[simp] theorem State.gateRequest_kept (s : State) (k : Nat) (power : Bool) :
    (State.gateRequest s k power).kept = s.kept := by
  unfold State.gateRequest; dsimp only; (repeat' split) <;> simp
@[simp] theorem State.wakeDone_kept (s : State) (k : Nat) :
    (State.wakeDone s k).kept = s.kept := by
  unfold State.wakeDone; dsimp only; (repeat' split) <;> simp
@[simp] theorem State.bushelStart_kept (s : State) (n : Nat) :
    (State.bushelStart s n).kept = s.kept := by
  unfold State.bushelStart; dsimp only; (repeat' split) <;> simp
@[simp] theorem State.targetReached_kept (s : State) (n : Nat) :
    (State.targetReached s n).kept = s.kept := by
  unfold State.targetReached; dsimp only; (repeat' split) <;> simp
@[simp] theorem State.switchDone_kept (s : State) (n : Nat) :
    (State.switchDone s n).kept = s.kept := by
  unfold State.switchDone; dsimp only; (repeat' split) <;> simp
@[simp] theorem State.createCtxs_kept (s : State) (u : Nat) :
    (State.createCtxs s u).kept = s.kept := by
  simp [State.createCtxs]
@[simp] theorem State.refuseLoad_kept (s : State) (u : Nat) (r : Refuse) :
    (State.refuseLoad s u r).kept = s.kept := by
  unfold State.refuseLoad; (repeat' split) <;> simp
@[simp] theorem State.checkPlan_kept (s : State) (rank : Nat) :
    (State.checkPlan s rank).kept = s.kept := by
  unfold State.checkPlan; dsimp only; (repeat' split) <;> simp (maxDischargeDepth := 40) 
@[simp] theorem State.tellLost_kept (s : State) (u : Nat) :
    (State.tellLost s u).kept = s.kept := by
  unfold State.tellLost; (repeat' split) <;> simp (maxDischargeDepth := 40) 
@[simp] theorem State.loadJob_kept (s : State) (u : Nat) (j : JobImage) :
    (State.loadJob s u j).1.kept = s.kept := by
  unfold State.loadJob; dsimp only; (repeat' split) <;> simp
@[simp] theorem State.giveSegment_kept (s : State) (n u : Nat) (g : GradSegment) :
    (State.giveSegment s n u g).kept = s.kept := by
  have k := State.takeSegment_kept s n u ((s.tun u).lastsDue n g.tensor) g
  unfold State.giveSegment
  split <;> rename_i heq <;> rw [heq] at k <;> simp [k]
@[simp] theorem State.segmentArrives_kept (s : State) (n u : Nat) (g : GradSegment) :
    (State.segmentArrives s n u g).kept = s.kept := by
  unfold State.segmentArrives; dsimp only; (repeat' split) <;> simp
@[simp] theorem State.resumeStaged_kept (s : State) (n u : Nat) :
    (State.resumeStaged s n u).kept = s.kept := by
  unfold State.resumeStaged; dsimp only; (repeat' split) <;> simp
@[simp] theorem State.releaseSums_kept (s : State) (n u : Nat) (e : BitVec 512) :
    (State.releaseSums s n u e).kept = s.kept := by
  unfold State.releaseSums; split <;> simp (maxDischargeDepth := 40)
@[simp] theorem State.sketchReturns_kept (s : State) (n u entry : Nat) (others : List SketchPart) :
    (State.sketchReturns s n u entry others).kept = s.kept := by
  unfold State.sketchReturns; dsimp only; (repeat' split) <;> simp
@[simp] theorem State.voteGives_kept (s : State) (u : Nat) :
    (State.voteGives s u).kept = s.kept := by
  unfold State.voteGives; dsimp only; (repeat' split) <;> simp
@[simp] theorem State.voteIn_kept (s : State) (u src : Nat) (v : VoteData) :
    (State.voteIn s u src v).kept = s.kept := by
  unfold State.voteIn; dsimp only; (repeat' split) <;> simp
@[simp] theorem State.voteOut_kept (s : State) (u : Nat) (v : VoteData) :
    (State.voteOut s u v).kept = s.kept := by
  unfold State.voteOut; dsimp only; (repeat' split) <;> simp
@[simp] theorem State.voteLate_kept (s : State) (u : Nat) :
    (State.voteLate s u).kept = s.kept := by
  unfold State.voteLate; dsimp only; (repeat' split) <;> simp
@[simp] theorem State.bungDue_kept (s : State) (u : Nat) :
    (State.bungDue s u).kept = s.kept := by
  unfold State.bungDue; dsimp only; (repeat' split) <;> simp
@[simp] theorem State.tellDie_kept (s : State) (n u : Nat) :
    (State.tellDie s n u).kept = s.kept := by
  unfold State.tellDie; dsimp only; (repeat' split) <;> simp
@[simp] theorem State.digestIn_kept (s : State) (u src step : Nat) (d : Bytes) :
    (State.digestIn s u src step d).kept = s.kept := by
  unfold State.digestIn; dsimp only; (repeat' split) <;> simp
@[simp] theorem State.commitWord_kept (s : State) (u : Nat) (w : BitVec 256) :
    (State.commitWord s u w).kept = s.kept := by
  unfold State.commitWord; dsimp only; (repeat' split) <;> simp
@[simp] theorem State.granaryLate_kept (s : State) (u : Nat) :
    (State.granaryLate s u).kept = s.kept := by
  unfold State.granaryLate; dsimp only; (repeat' split) <;> simp
@[simp] theorem State.moveOwn_kept (s : State) (u rank : Nat) (j : JobImage) (n : Nat) :
    (State.moveOwn s u rank j n).kept = s.kept := by
  simp (maxDischargeDepth := 40) [State.moveOwn]
@[simp] theorem State.reshardMove_kept (s : State) (u : Nat) (pkg : LayoutPackage) :
    (State.reshardMove s u pkg).kept = s.kept := by
  unfold State.reshardMove
  extract_lets t rank j
  split
  · exact kept_foldl _ _ _ fun s n => by dsimp only; split <;> simp
  · rw [State.fillStripes_kept, State.setTun_kept]
    exact (kept_foldl _ _ _ fun s n => by simp).trans (State.setTun_kept ..)
@[simp] theorem State.reshardStep_kept (s : State) (u : Nat) :
    (State.reshardStep s u).kept = s.kept := by
  unfold State.reshardStep; dsimp only; (repeat' split) <;> simp
theorem State.ptpIn_kept (s : State) (m len : Nat) (dom : BitVec 8) (is : List Nat) (act : State → State)
    (ha : ∀ s, (act s).kept = s.kept) : (s.ptpIn m len dom is act).kept = s.kept := by
  unfold State.ptpIn; dsimp only
  split
  · rfl
  · split
    · exact (ha _).trans (State.rxFrame_kept _ _ _ _ _)
    · exact State.rxFrame_kept _ _ _ _ _
@[simp] theorem State.clockTo_kept (s : State) (p : Ptp) :
    (State.clockTo s p).kept = s.kept := by
  unfold State.clockTo; dsimp only; (repeat' split) <;> simp (maxDischargeDepth := 40) 
@[simp] theorem State.boot_kept (s : State) (kind : Nat) (copy : Bool) (cause : Nat) :
    (State.boot s kind copy cause).kept = s.kept := by
  rfl
@[simp] theorem State.bootCut_kept (s : State) (kind : Nat) (copy : Bool) (cause : Nat) :
    (State.bootCut s kind copy cause).kept = s.kept := by
  rfl
@[simp] theorem State.restoreEntry_kept (s : State) (u : Nat) (l : RList) (j : JobImage) (o : Own) :
    (State.restoreEntry s u l j o).kept = s.kept := by
  unfold State.restoreEntry; dsimp only; (repeat' split) <;> simp
@[simp] theorem State.refuseRestore_kept (s : State) (u : Nat) (f : RFail) :
    (State.refuseRestore s u f).kept = s.kept := by
  simp [State.refuseRestore]
@[simp] theorem State.supply_kept (s : State) (u T : Nat) (objs : List RestoreObject) (pkg : LayoutPackage) :
    (State.supply s u T objs pkg).kept = s.kept := by
  unfold State.supply
  extract_lets t rank j0 j l due needs own s1
  have h1 : s1.kept = s.kept := kept_foldl _ _ _ fun s q => by
    dsimp only
    have h : ∀ (l : List Nat) (f : State → Nat → State), (∀ s b, (f s b).kept = s.kept) → (l.foldl f s).kept = s.kept := fun l f h => kept_foldl _ _ _ h
    split
    · rw [State.putRecords_kept]; exact h _ _ fun s b => by split <;> simp
    · exact h _ _ fun s b => by split <;> simp
  clear_value s1
  split
  · rfl
  · split <;> simp [h1]
@[simp] theorem State.restore_kept (s : State) (u T : Nat) (j : JobImage) (objs : List RestoreObject) :
    (State.restore s u T j objs).kept = s.kept := by
  unfold State.restore; dsimp only; (repeat' split) <;> simp
@[simp] theorem State.setTap_kept (s : State) (t : Nat) (x : Tap) :
    (State.setTap s t x).kept = s.kept := by
  simp [State.setTap]
@[simp] theorem State.tapFault_kept (s : State) (t why : Nat) :
    (State.tapFault s t why).kept = s.kept := by
  unfold State.tapFault; dsimp only; (repeat' split) <;> simp
@[simp] theorem State.hostIndex_kept (s : State) (t : Nat) (e : BitVec 1024) :
    (State.hostIndex s t e).kept = s.kept := by
  unfold State.hostIndex; (repeat' split) <;> simp
@[simp] theorem State.statusEntry_kept (s : State) (u : Nat) (e : BitVec 1024) :
    (State.statusEntry s u e).kept = s.kept := by
  simp [State.statusEntry]
@[simp] theorem State.useKind_kept (s : State) (u k : Nat) :
    (State.useKind s u k).kept = s.kept := by
  unfold State.useKind; (repeat' split) <;> simp
@[simp] theorem State.tapApply_kept (s : State) (t : Nat) (e : BitVec 1024) :
    (State.tapApply s t e).kept = s.kept := by
  unfold State.tapApply; dsimp only; (repeat' split) <;> simp
@[simp] theorem State.tapCheck_kept (s : State) (t : Nat) (e : BitVec 1024) :
    (State.tapCheck s t e).kept = s.kept := by
  unfold State.tapCheck; dsimp only; (repeat' split) <;> simp
@[simp] theorem State.tapTorn_kept (s : State) (t : Nat) :
    (State.tapTorn s t).kept = s.kept := by
  unfold State.tapTorn; dsimp only; (repeat' split) <;> simp
@[simp] theorem State.ringAdvance_kept (s : State) (t a idx : Nat) :
    (State.ringAdvance s t a idx).kept = s.kept := by
  unfold State.ringAdvance; dsimp only; (repeat' split) <;> simp
@[simp] theorem State.kindRefused_kept (s : State) (u k : Nat) :
    (State.kindRefused s u k).kept = s.kept := by
  simp [State.kindRefused]
@[simp] theorem State.stagePackage_kept (s : State) (u : Nat) (pkg : LayoutPackage) :
    (State.stagePackage s u pkg).kept = s.kept := by
  unfold State.stagePackage; dsimp only; (repeat' split) <;> simp
@[simp] theorem State.ringFails_kept (s : State) (u : Nat) :
    (State.ringFails s u).kept = s.kept := by
  simp (maxDischargeDepth := 40) [State.ringFails]
@[simp] theorem State.postOutput_kept (s : State) (u : Nat) :
    (State.postOutput s u).kept = s.kept := by
  unfold State.postOutput; dsimp only; (repeat' split) <;> simp
@[simp] theorem State.closedStatus_kept (s : State) (u : Nat) :
    (State.closedStatus s u).kept = s.kept := by
  unfold State.closedStatus; dsimp only; (repeat' split) <;> simp
@[simp] theorem State.windowWrite_kept (s : State) (off n : Nat) (w : BitVec 64) :
    (State.windowWrite s off n w).kept = s.kept := by
  unfold State.windowWrite; dsimp only; (repeat' split) <;> simp
@[simp] theorem State.degrade_kept (s : State) (pg pos : Nat) :
    (State.degrade s pg pos).kept = s.kept := by
  simp [State.degrade]
@[simp] theorem State.interfaceFails_kept (s : State) (i : Nat) :
    (State.interfaceFails s i).kept = s.kept := by
  unfold State.interfaceFails; dsimp only; (repeat' split) <;> simp
@[simp] theorem State.countRebuilt_kept (s : State) (pg : Nat) (k : Nat → Nat) :
    (State.countRebuilt s pg k).kept = s.kept := by
  simp [State.countRebuilt]
@[simp] theorem State.retryFreezes_kept (s : State) (pg : Nat) :
    (State.retryFreezes s pg).kept = s.kept := by
  unfold State.retryFreezes; (repeat' split) <;> simp [apply_ite]
@[simp] theorem State.rebuildGranule_kept (s : State) (pg : Nat) :
    (State.rebuildGranule s pg).kept = s.kept := by
  unfold State.rebuildGranule; dsimp only; (repeat' split) <;> simp
@[simp] theorem State.fenceRow_kept (s : State) (n pos row : Nat) :
    (State.fenceRow s n pos row).kept = s.kept := by
  unfold State.fenceRow; dsimp only; (repeat' split) <;> simp
@[simp] theorem State.localUe_kept (s : State) (n u a : Nat) (r : RowRepair) :
    (State.localUe s n u a r).kept = s.kept := by
  unfold State.localUe; dsimp only; (repeat' split) <;> simp
@[simp] theorem State.noteMem_kept (s : State) (n : Nat) (f : MemStat → MemStat) :
    (State.noteMem s n f).kept = s.kept := by
  simp [State.noteMem]
@[simp] theorem State.cellarUe_kept (s : State) (n u off : Nat) (second : Bool) :
    (State.cellarUe s n u off second).kept = s.kept := by
  unfold State.cellarUe; dsimp only; (repeat' split) <;> simp
@[simp] theorem State.refetch_kept (s : State) (n u : Nat) (r : RowRepair) (fetch : Bool) :
    (State.refetch s n u r fetch).kept = s.kept := by
  unfold State.refetch; dsimp only; (repeat' split) <;> simp
@[simp] theorem State.uncorrectable_kept (s : State) (n u : Nat) (site : UeSite) (addr : Nat) (second : Bool) :
    (State.uncorrectable s n u site addr second).kept = s.kept := by
  unfold State.uncorrectable; dsimp only; (repeat' split) <;> simp
@[simp] theorem State.corrected_kept (s : State) (n : Nat) (r : RowRepair) :
    (State.corrected s n r).kept = s.kept := by
  unfold State.corrected; dsimp only; (repeat' split) <;> simp
@[simp] theorem State.startColumns_kept (s : State) (c : FlashCopy) (f : StartFinds) (n : Nat) :
    (State.startColumns s c f n).kept = s.kept := by
  unfold State.startColumns; dsimp only; (repeat' split) <;> simp
@[simp] theorem State.startShape_kept (s : State) (l dir : Nat) :
    (State.startShape s l dir).kept = s.kept := by
  unfold State.startShape; dsimp only; (repeat' split) <;> simp
@[simp] theorem State.startInterface_kept (s : State) (i : Nat) :
    (State.startInterface s i).kept = s.kept := by
  unfold State.startInterface; dsimp only; (repeat' split) <;> simp
@[simp] theorem State.startRow_kept (s : State) (known : List Nat) (r : Nat) :
    (State.startRow s known r).kept = s.kept := by
  unfold State.startRow; dsimp only; (repeat' split) <;> simp
@[simp] theorem State.startRows_kept (s : State) (c : FlashCopy) (f : StartFinds) :
    (State.startRows s c f).kept = s.kept := by
  unfold State.startRows; (repeat' split) <;> simp [apply_ite]
@[simp] theorem State.startDies_kept (s : State) (c : FlashCopy) (f : StartFinds) :
    (State.startDies s c f).kept = s.kept := by
  unfold State.startDies; dsimp only
  refine (kept_foldl _ _ _ fun s n => ?_).trans (by simp (maxDischargeDepth := 40))
  (repeat' split) <;> simp (maxDischargeDepth := 40)
@[simp] theorem State.startLevel_kept (s : State) :
    (State.startLevel s).kept = s.kept := by
  simp (maxDischargeDepth := 40) [State.startLevel]
@[simp] theorem State.extendMr_kept (s : State) (i : Nat) (d : Bytes) :
    (State.extendMr s i d).kept = s.kept := by
  simp [State.extendMr]
@[simp] theorem State.measureStart_kept (s : State) (c : FlashCopy) :
    (State.measureStart s c).kept = s.kept := by
  simp [State.measureStart]
@[simp] theorem State.startNet_kept (s : State) (c : FlashCopy) (f : StartFinds) :
    (State.startNet s c f).kept = s.kept := by
  unfold State.startNet; dsimp only; (repeat' split) <;> simp
@[simp] theorem State.steep_kept (s : State) (cause : Nat) :
    (State.steep s cause).kept = s.kept := by
  simp [State.steep]
@[simp] theorem State.withS_kept (s : State) :
    (State.withS s).kept = s.kept := by
  simp (maxDischargeDepth := 40) [State.withS]
@[simp] theorem State.sawInput_kept (s : State) (mv : Nat) :
    (State.sawInput s mv).kept = s.kept := by
  simp [State.sawInput]
@[simp] theorem State.estop_kept (s : State) (cause : Nat) :
    (State.estop s cause).kept = s.kept := by
  unfold State.estop; split <;> simp (maxDischargeDepth := 40)
@[simp] theorem State.answer_kept (s : State) (bs : Bytes) :
    (State.answer s bs).kept = s.kept := by
  simp [State.answer]
@[simp] theorem State.spdmError_kept (s : State) :
    (State.spdmError s).kept = s.kept := by
  simp [State.spdmError]
@[simp] theorem State.setSession_kept (s : State) (i : Nat) (x : Session) :
    (State.setSession s i x).kept = s.kept := by
  simp [State.setSession]
@[simp] theorem State.openSession_kept (s : State) (i : Nat) (nonce : Bytes) :
    (State.openSession s i nonce).kept = s.kept := by
  simp [State.openSession]
@[simp] theorem State.takeSecret_kept (s : State) (u : Nat) (ts : Bytes) (imports : List Bytes) (sigOk : Bool) :
    (State.takeSecret s u ts imports sigOk).kept = s.kept := by
  unfold State.takeSecret; dsimp only; (repeat' split) <;> simp
@[simp] theorem State.vecDone_kept (s : State) (n v : Nat) :
    (State.vecDone s n v).kept = s.kept := by
  unfold State.vecDone; dsimp only; (repeat' split) <;> simp
end Sys2Proof.Machine
end

