-- ==== Sys2Proof/Laws/FrameStart.lean ====
section
/-! SUPPORT. What a start, a loss of power and a write of the flash keep: the queue, by every one of them; the flash
copies, by all but the write; and what they leave in the layout. -/

namespace Sys2Proof.Machine

/-- The queue and the two flash copies. -/
def State.carried (s : State) : List Instr × FlashCopy × FlashCopy := (s.pending, s.flash.copyA, s.flash.copyB)

/-- What keeps the queue, the layout and the copies keeps the queue and the copies. -/
theorem State.carried_of_kept {s t : State} (h : s.kept = t.kept) : s.carried = t.carried := by
  exact congrArg (fun x => (x.1, x.2.2)) h

@[simp] theorem State.carried_mk (a b c d e f g h i j k l m n o) :
    State.carried (State.mk a b c d e f g h i j k l m n o) = (a, k.copyA, k.copyB) := rfl

@[simp] theorem State.carried_fold (s : State) : (s.pending, s.flash.copyA, s.flash.copyB) = s.carried := rfl

/-- A fold of an operation that carries them carries them. -/
theorem carried_foldl {α : Type} (f : State → α → State) (l : List α) (s : State)
    (h : ∀ s x, (f s x).carried = s.carried) : (l.foldl f s).carried = s.carried := by
  induction l generalizing s with
  | nil => rfl
  | cons x l ih => rw [List.foldl_cons, ih, h]

@[simp] theorem State.powerOff_carried (s : State) : s.powerOff.carried = s.carried := rfl
@[simp] theorem State.restarted_carried (s : State) : s.restarted.carried = s.carried := rfl

@[simp] theorem State.startLink_kept (s : State) (c : FlashCopy) (f : StartFinds) (role : BitVec 64) (l dir : Nat) :
    (s.startLink c f role l dir).kept = s.kept := by
  unfold State.startLink
  extract_lets known r n
  have h : r.1.kept = s.kept :=
    kept_foldl_fst _ _ _ fun r x => (State.draw_kept _).trans (State.logLanes_kept ..)
  rw [State.setLinkDir_kept, h]

/-- The layout a flash image gives, where the records say which rows are fenced from allocation (R174). -/
def imageLayout (rows : List Nat) (x : FlashCopy) : LayoutRecord :=
  { tuns := x.layTuns.mapVals (shrinkEntry (fencedRows rows)), runs := x.layRuns, plans := x.layPlans }

@[simp] theorem State.startFind_kept (s : State) (x : FlashCopy) (f : StartFinds) : (s.startFind x f).kept = s.kept := by
  unfold State.startFind
  extract_lets role k s1 s2 dirs s3 s4 s5
  rw [State.startRows_kept, show s5.kept = s4.kept from kept_foldl _ _ _ fun s n => State.startColumns_kept ..,
    show s4.kept = s3.kept from (State.startLevel_kept _).trans ((State.checkControls_kept _).trans
      (kept_foldl _ _ _ fun s p => State.startShape_kept ..)),
    show s3.kept = s2.kept from kept_foldl _ _ _ fun s p => State.startLink_kept ..,
    show s2.kept = s1.kept from State.startDies_kept ..]
  rfl

@[simp] theorem State.startLoad_kept (s : State) (c : Bool) (x : FlashCopy) :
    (s.startLoad c x).kept = (s.pending, imageLayout (s.rowRecords x) x, s.flash.copyA, s.flash.copyB) := rfl

@[simp] theorem State.startEnd_kept (s : State) (c : Bool) : (s.startEnd c).kept = s.kept := by
  unfold State.startEnd
  dsimp only
  rw [State.boot_kept, State.kept_mk, State.kept_fold, State.draw_kept, State.extendMr_kept, State.measure_kept]

@[simp] theorem State.startTell_kept (s : State) : s.startTell.kept = s.kept :=
  kept_foldl _ _ _ fun s u => by split <;> simp

/-- A start that completes on a copy: the layout is the copy's, the queue and the copies are kept (R362). -/
theorem State.startOn_kept (s s' : State) (c : Bool) (f : StartFinds) (h : s.startOn c f = some s') :
    ∃ rows : List Nat, s'.kept = (s.pending, imageLayout rows (s.flash.copy c), s.flash.copyA, s.flash.copyB) := by
  unfold State.startOn at h
  dsimp only at h
  split at h
  · cases h
  · have e := (Option.some.inj h).symm
    have k := ((State.measureStart_kept ((s.startFind (s.flash.copy c) f).startNet (s.flash.copy c) f) (s.flash.copy c)).trans
      (State.startNet_kept ..)).trans (State.startFind_kept s (s.flash.copy c) f)
    rw [e, State.startTell_kept, State.startEnd_kept, State.startLoad_kept]
    exact ⟨_, congrArg (fun p => (p.1, imageLayout _ (s.flash.copy c), p.2.2)) k⟩

theorem State.startOn_carried (s s' : State) (c : Bool) (f : StartFinds) (h : s.startOn c f = some s') :
    s'.carried = s.carried :=
  (State.startOn_kept s s' c f h).elim fun _ e => congrArg (fun x => (x.1, x.2.2)) e

@[simp] theorem State.startFailed_carried (s : State) (c : Bool) (cause : Nat) : (s.startFailed c cause).carried = s.carried := by
  unfold State.startFailed
  dsimp only
  rw [State.carried_mk, State.carried_fold, State.restarted_carried]
  exact State.carried_of_kept (State.boot_kept s 3 c cause)

/-- The first copy that passes the check, or the failure of the start, carries them. -/
@[simp] theorem State.startCopy_carried (s : State) (c : Bool) (rest : List Bool) (f : StartFinds) :
    (s.startCopy c rest f).1.carried = s.carried := by
  unfold State.startCopy
  split
  · exact State.startFailed_carried ..
  · split
    · exact State.startFailed_carried ..
    · split
      · exact State.startFailed_carried ..
      · split
        · exact State.startFailed_carried ..
        · exact State.startOn_carried _ _ _ _ ‹_›

/-- One attempt of a start carries the queue and the copies, whichever way it ends. -/
@[simp] theorem State.startOnce_carried (s : State) (f : StartFinds) : (s.startOnce f).1.carried = s.carried := by
  unfold State.startOnce
  extract_lets e s1 a h b s2 p s3
  clear_value a h b
  have e2 : s2.carried = s.carried := rfl
  have e3 : s3.carried = s.carried := rfl
  split
  · exact e2
  · split
    · exact (State.carried_of_kept (State.steep_kept ..)).trans e2
    · split
      · exact (State.carried_of_kept (State.steep_kept ..)).trans e3
      · split
        · exact (State.startFailed_carried ..).trans ((State.carried_of_kept (State.boot_kept ..)).trans e3)
        · dsimp only
          split
          · exact (State.powerOff_carried _).trans ((State.carried_of_kept (State.boot_kept ..)).trans e3)
          · exact (State.powerOff_carried _).trans ((State.carried_of_kept (State.bootCut_kept ..)).trans e3)
        · exact (State.startCopy_carried ..).trans ((State.carried_of_kept (State.boot_kept ..)).trans e3)

@[simp] theorem startLoop_carried (n : Nat) (f : StartFinds) (s : State) : (startLoop n f s).carried = s.carried := by
  induction n generalizing s with
  | zero => simp [startLoop]
  | succ n ih =>
    unfold startLoop
    have h := State.startOnce_carried s f
    generalize s.startOnce f = r at h ⊢
    obtain ⟨s', b⟩ := r
    cases b <;> simp_all

@[simp] theorem State.start_carried (s : State) (f : StartFinds) : (s.start f).carried = s.carried := startLoop_carried ..
@[simp] theorem State.restart_carried (s : State) (f : StartFinds) : (s.restart f).carried = s.carried := by
  unfold State.restart; simp

@[simp] theorem State.carrierFit_carried (s : State) (mv : Nat) (f : StartFinds) : (s.carrierFit mv f).carried = s.carried := by
  unfold State.carrierFit
  split
  · rfl
  · dsimp only
    split
    · rw [State.start_carried]; rfl
    · simp

@[simp] theorem State.startLate_carried (s : State) : s.startLate.carried = s.carried := by
  unfold State.startLate
  split
  · rfl
  · dsimp only
    rw [State.startFailed_carried, State.carried_of_kept (State.boot_kept ..)]
    rfl

end Sys2Proof.Machine
end

