-- ==== Sys2Proof/Laws/Programs.lean ====
section
/-! SUPPORT. What the hub and the time slices leave of a tun's program on its dies: everything in the context but
whether the tun is stopped, its spoil flag, the wait for its next slice's fetch and its stall counters other than
CDS_ISSUED. -/

namespace Sys2Proof.Machine

/-- A context without its stop, its spoil flag, its fetch wait and its stall counters but for the slices issued. -/
def Ctx.prog (c : Ctx) : Ctx := { c with stopped := false, spoil := false, fetchWait := 0, stall := { issued := c.stall.issued } }
/-- The programs of a die, by tun. -/
structure DiePrograms where
  of : Nat → Ctx
/-- The programs of the device, by die and tun. -/
structure Programs where
  of : Nat → DiePrograms
/-- The programs of a table of contexts. -/
def ctxProgs (t : Tbl Ctx) : DiePrograms := ⟨fun u => (Tbl.get {} t u).prog⟩
/-- The programs of a die's tuns. -/
def Die.progs (d : Die) : DiePrograms := ctxProgs d.ctxs
/-- The programs of a table of dies. -/
def dieProgs (t : Tbl Die) : Programs := ⟨fun n => (Tbl.get {} t n).progs⟩
/-- The programs of the device. -/
def State.progs (s : State) : Programs := dieProgs s.dies

@[simp] theorem Ctx.prog_stopped (c : Ctx) (b : Bool) : Ctx.prog { c with stopped := b } = c.prog := id rfl
@[simp] theorem Ctx.prog_spoil (c : Ctx) (b : Bool) : Ctx.prog { c with spoil := b } = c.prog := id rfl
@[simp] theorem Ctx.prog_fetchWait (c : Ctx) (n : Nat) : Ctx.prog { c with fetchWait := n } = c.prog := id rfl
@[simp] theorem Ctx.prog_stall (c : Ctx) (x : Stall) (h : x.issued = c.stall.issued) : Ctx.prog { c with stall := x } = c.prog := by
  unfold Ctx.prog; simp [h]
@[simp] theorem Die.progs_apply (d : Die) (u : Nat) : (d.ctx u).prog = d.progs.of u := id rfl
@[simp] theorem State.progs_apply (s : State) (n : Nat) : (s.die n).progs = s.progs.of n := id rfl
@[simp] theorem State.progs_ctx (s : State) (n u : Nat) : (s.ctx n u).prog = (s.progs.of n).of u := id rfl
@[simp] theorem Die.progs_mk (a b c d e f g h i j k l m n o p q r s t u v w x y z a1 a2 a3 a4) :
    Die.progs (Die.mk a b c d e f g h i j k l m n o p q r s t u v w x y z a1 a2 a3 a4) = ctxProgs d := id rfl
@[simp] theorem Die.progs_ctxs (d : Die) : ctxProgs d.ctxs = d.progs := id rfl
@[simp] theorem State.progs_mk (a b c d e f g h i j k l m n o) :
    State.progs (State.mk a b c d e f g h i j k l m n o) = dieProgs d := id rfl
@[simp] theorem State.progs_dies (s : State) : dieProgs s.dies = s.progs := id rfl

theorem progs_foldl {α : Type} (f : State → α → State) (l : List α) (s : State)
    (h : ∀ s x, (f s x).progs = s.progs) : (l.foldl f s).progs = s.progs := by
  induction l generalizing s with
  | nil => rfl
  | cons x l ih => rw [List.foldl_cons, ih, h]
theorem dieProgs_foldl {α : Type} (f : Die → α → Die) (l : List α) (d : Die)
    (h : ∀ d x, (f d x).progs = d.progs) : (l.foldl f d).progs = d.progs := by
  induction l generalizing d with
  | nil => rfl
  | cons x l ih => rw [List.foldl_cons, ih, h]
@[simp] theorem Die.setCtx_progs (d : Die) (u : Nat) (c : Ctx) (h : c.prog = d.progs.of u) : (d.setCtx u c).progs = d.progs := by
  refine congrArg DiePrograms.mk (funext fun v => ?_)
  by_cases hv : v = u
  · subst hv
    exact (congrArg Ctx.prog (Tbl.get_put_same ({} : Ctx) d.ctxs v c)).trans h
  · exact congrArg Ctx.prog (Tbl.get_put_other ({} : Ctx) d.ctxs c hv)
@[simp] theorem State.setDie_progs (s : State) (n : Nat) (d : Die) (h : d.progs = s.progs.of n) : (s.setDie n d).progs = s.progs := by
  refine congrArg Programs.mk (funext fun m => ?_)
  by_cases hm : m = n
  · subst hm
    exact (congrArg Die.progs (Tbl.get_put_same ({} : Die) s.dies m d)).trans h
  · exact congrArg Die.progs (Tbl.get_put_other ({} : Die) s.dies d hm)
@[simp] theorem State.setCtx_progs (s : State) (n u : Nat) (c : Ctx) (h : c.prog = (s.progs.of n).of u) : (s.setCtx n u c).progs = s.progs :=
  State.setDie_progs _ _ _ (Die.setCtx_progs _ _ _ h)
@[simp] theorem progs_ite (c : Prop) [Decidable c] (a b s : State) :
    (if c then a else b).progs = s.progs ↔ (c → a.progs = s.progs) ∧ (¬c → b.progs = s.progs) := by split <;> simp [*]
@[simp] theorem dieProgs_ite (c : Prop) [Decidable c] (a b d : Die) :
    (if c then a else b).progs = d.progs ↔ (c → a.progs = d.progs) ∧ (¬c → b.progs = d.progs) := by split <;> simp [*]
/-- The same over a pair whose state part keeps them. -/
theorem progs_foldl_fst {α β : Type} (f : State × β → α → State × β) (l : List α) (r : State × β)
    (h : ∀ r x, (f r x).1.progs = r.1.progs) : (l.foldl f r).1.progs = r.1.progs := by
  induction l generalizing r with
  | nil => rfl
  | cons x l ih => rw [List.foldl_cons, ih, h]
/-- Either branch of a choice. -/
theorem progs_choice {c : Prop} [Decidable c] {a b s : State} (ha : a.progs = s.progs) (hb : b.progs = s.progs) :
    (if c then a else b).progs = s.progs := by
  split <;> assumption
@[simp] theorem Die.setBank_progs (d : Die) (b : Nat) (x : Bank) :
    (Die.setBank d b x).progs = d.progs := by
  simp (maxDischargeDepth := 40) [Die.setBank]
@[simp] theorem Die.setVec_progs (d : Die) (u : Nat) (x : List VecJob) :
    (Die.setVec d u x).progs = d.progs := by
  simp (maxDischargeDepth := 40) [Die.setVec]
@[simp] theorem Die.wakeAll_progs (d : Die) (ks : List Nat) :
    (Die.wakeAll d ks).progs = d.progs := by
  simp (maxDischargeDepth := 40) [Die.wakeAll]
@[simp] theorem Die.putTile_progs (d : Die) (t : Tile) :
    (Die.putTile d t).progs = d.progs := by
  simp (maxDischargeDepth := 40) [Die.putTile]
@[simp] theorem issuePass_progs (sh : Share) (u : Nat) (d : Die) (c : Ctx) (s : Slice) :
    (issuePass sh u d c s).1.progs = d.progs := by
  simp (maxDischargeDepth := 40) [issuePass]
@[simp] theorem issuePreload_progs (sh : Share) (u : Nat) (d : Die) (c : Ctx) (s : Slice) :
    (issuePreload sh u d c s).progs = d.progs := by
  simp (maxDischargeDepth := 40) [issuePreload]
@[simp] theorem issueVec_progs (sh : Share) (tun : Nat) (d : Die) (c : Ctx) (s : Slice) (u pos : Nat) (bank : Bank) (expD : Option Int) (tile : Tile) (f : Nat) :
    (issueVec sh tun d c s u pos bank expD tile f).progs = d.progs := by
  simp (maxDischargeDepth := 40) [issueVec]
@[simp] theorem issueDrainTile_progs (sh : Share) (u : Nat) (d : Die) (c : Ctx) (s : Slice) (pos0 pos1 : Nat) :
    (issueDrainTile sh u d c s pos0 pos1).1.progs = d.progs := by
  simp (maxDischargeDepth := 40) [issueDrainTile]
@[simp] theorem issueWork_progs (sh : Share) (u : Nat) (d : Die) (c : Ctx) (s : Slice) :
    (issueWork sh u d c s).1.progs = d.progs := by
  unfold issueWork; dsimp only; (repeat' split) <;> simp (maxDischargeDepth := 40)
@[simp] theorem Die.hints_progs (d : Die) (kept : List Nat) (s : Slice) :
    (Die.hints d kept s).progs = d.progs := by
  unfold Die.hints; dsimp only; rw [dieProgs_foldl _ _ _ (fun s x => by (repeat' split) <;> simp (maxDischargeDepth := 40))] <;> simp (maxDischargeDepth := 40)
@[simp] theorem Die.gateAtSeal_progs (d : Die) (kept : List Nat) :
    (Die.gateAtSeal d kept).progs = d.progs := by
  simp (maxDischargeDepth := 40) [Die.gateAtSeal]
@[simp] theorem Die.dropTile_progs (d : Die) (t : Tile) :
    (Die.dropTile d t).progs = d.progs := by
  simp (maxDischargeDepth := 40) [Die.dropTile]
@[simp] theorem Die.upTo_progs (d : Die) (c : Nat) :
    (Die.upTo d c).progs = d.progs := by
  simp (maxDischargeDepth := 40) [Die.upTo]
@[simp] theorem Die.passEnds_progs (d : Die) (b : Nat) :
    (Die.passEnds d b).progs = d.progs := by
  simp (maxDischargeDepth := 40) [Die.passEnds]
@[simp] theorem redrain_progs (sh : Share) (d : Die) (c : Ctx) (t : Tile) (e : LogEntry) (bank : Bank) (f : Nat) :
    (redrain sh d c t e bank f).progs = d.progs := by
  simp (maxDischargeDepth := 40) [redrain]
@[simp] theorem Die.rebuild_progs (sh : Share) (d : Die) (t : Tile) (times : List (Nat × LogEntry × Nat)) :
    (Die.rebuild sh d t times).progs = d.progs := by
  unfold Die.rebuild; dsimp only; (repeat' split) <;> simp (maxDischargeDepth := 40)
@[simp] theorem Die.replay_progs (d : Die) (shOf : List (Nat × Share)) :
    (Die.replay d shOf).progs = d.progs := by
  simp (maxDischargeDepth := 40) [Die.replay, dieProgs_foldl]
@[simp] theorem Die.dropOpenJobs_progs (d : Die) :
    (Die.dropOpenJobs d).progs = d.progs := by
  simp (maxDischargeDepth := 40) [Die.dropOpenJobs]
@[simp] theorem Die.gateSpares_progs (d : Die) :
    (Die.gateSpares d).progs = d.progs := by
  simp (maxDischargeDepth := 40) [Die.gateSpares]
@[simp] theorem Die.columnFault_progs (d : Die) (now col row : Nat) :
    (Die.columnFault d now col row).progs = d.progs := by
  simp (maxDischargeDepth := 40) [Die.columnFault]
@[simp] theorem Die.faultOver_progs (d : Die) (now : Nat) (f : ColFault) (rest : List ColFault) (shOf : List (Nat × Share)) :
    (Die.faultOver d now f rest shOf).progs = d.progs := by
  simp (maxDischargeDepth := 40) [Die.faultOver]
@[simp] theorem Die.fenceArray_progs (d : Die) (mismatch : Bool) :
    (Die.fenceArray d mismatch).progs = d.progs := by
  simp (maxDischargeDepth := 40) [Die.fenceArray]
@[simp] theorem Die.columnTest_progs (d : Die) (now col : Nat) (pass : Bool) (shOf : List (Nat × Share)) :
    (Die.columnTest d now col pass shOf).1.progs = d.progs := by
  unfold Die.columnTest; (repeat' split) <;> simp (maxDischargeDepth := 40)
@[simp] theorem State.setTun_progs (s : State) (u : Nat) (t : Tun) :
    (State.setTun s u t).progs = s.progs := by
  simp (maxDischargeDepth := 40) [State.setTun]
@[simp] theorem State.setMac_progs (s : State) (m : Nat) (x : Mac) :
    (State.setMac s m x).progs = s.progs := by
  simp (maxDischargeDepth := 40) [State.setMac]
@[simp] theorem State.setLinkDir_progs (s : State) (l dir : Nat) (x : LinkDir) :
    (State.setLinkDir s l dir x).progs = s.progs := by
  simp (maxDischargeDepth := 40) [State.setLinkDir]
@[simp] theorem State.setFound_progs (s : State) (n : Nat) (x : Found) :
    (State.setFound s n x).progs = s.progs := by
  simp (maxDischargeDepth := 40) [State.setFound]
@[simp] theorem State.setLay_progs (s : State) (u : Nat) (l : Option (BitVec 1024)) :
    (State.setLay s u l).progs = s.progs := by
  simp (maxDischargeDepth := 40) [State.setLay]
@[simp] theorem State.draw_progs (s : State) :
    (State.draw s).progs = s.progs := by
  simp (maxDischargeDepth := 40) [State.draw]
@[simp] theorem State.random_progs (s : State) :
    (State.random s).2.progs = s.progs := by
  simp (maxDischargeDepth := 40) [State.random]
@[simp] theorem State.setEvents_progs (s : State) (u : Nat) (r : Ring) :
    (State.setEvents s u r).progs = s.progs := by
  simp (maxDischargeDepth := 40) [State.setEvents]
@[simp] theorem State.eventBytes_progs (s : State) (u code : Nat) (args : Bytes) :
    (State.eventBytes s u code args).progs = s.progs := by
  simp (maxDischargeDepth := 40) [State.eventBytes]
@[simp] theorem State.eventsBack_progs (s : State) (u : Nat) :
    (State.eventsBack s u).progs = s.progs := by
  simp (maxDischargeDepth := 40) [State.eventsBack]
@[simp] theorem State.event_progs (s : State) (u code : Nat) (args : List Nat) :
    (State.event s u code args).progs = s.progs := by
  simp (maxDischargeDepth := 40) [State.event]
@[simp] theorem State.setDeviceEvents_progs (s : State) (r : Ring) :
    (State.setDeviceEvents s r).progs = s.progs := by
  simp (maxDischargeDepth := 40) [State.setDeviceEvents]
@[simp] theorem State.deviceEventBytes_progs (s : State) (code : Nat) (args : Bytes) :
    (State.deviceEventBytes s code args).progs = s.progs := by
  simp (maxDischargeDepth := 40) [State.deviceEventBytes]
@[simp] theorem State.deviceEventsBack_progs (s : State) :
    (State.deviceEventsBack s).progs = s.progs := by
  simp (maxDischargeDepth := 40) [State.deviceEventsBack]
@[simp] theorem State.deviceEvent_progs (s : State) (code : Nat) (args : List Nat) :
    (State.deviceEvent s code args).progs = s.progs := by
  simp (maxDischargeDepth := 40) [State.deviceEvent]
@[simp] theorem State.commandDone_progs (s : State) (u : Nat) (cmdSeq : BitVec 32) (status : Nat) :
    (State.commandDone s u cmdSeq status).progs = s.progs := by
  simp (maxDischargeDepth := 40) [State.commandDone]
@[simp] theorem State.spoil_progs (s : State) (n u : Nat) :
    (State.spoil s n u).progs = s.progs := by
  simp (maxDischargeDepth := 40) [State.spoil]
@[simp] theorem State.spoilAll_progs (s : State) (u : Nat) :
    (State.spoilAll s u).progs = s.progs := by
  simp (maxDischargeDepth := 40) [State.spoilAll, progs_foldl]
@[simp] theorem State.stopTun_progs (s : State) (u : Nat) :
    (State.stopTun s u).progs = s.progs := by
  simp (maxDischargeDepth := 40) [State.stopTun, progs_foldl]
@[simp] theorem State.stopAll_progs (s : State) :
    (State.stopAll s).progs = s.progs := by
  simp (maxDischargeDepth := 40) [State.stopAll, progs_foldl]
@[simp] theorem State.stopAllNow_progs (s : State) :
    (State.stopAllNow s).progs = s.progs := by
  simp (maxDischargeDepth := 40) [State.stopAllNow]
@[simp] theorem State.programFault_progs (s : State) (n u : Nat) (f : ProgFault) :
    (State.programFault s n u f).progs = s.progs := by
  simp (maxDischargeDepth := 40) [State.programFault]
@[simp] theorem State.countFault_progs (s : State) (cls die unit intNs : Nat) :
    (State.countFault s cls die unit intNs).progs = s.progs := by
  simp (maxDischargeDepth := 40) [State.countFault]
@[simp] theorem State.fault_progs (s : State) (cls die unit intNs : Nat) :
    (State.fault s cls die unit intNs).progs = s.progs := by
  unfold State.fault; dsimp only; (repeat' split) <;> simp (maxDischargeDepth := 40)
@[simp] theorem State.stopOnDie_progs (s : State) (n : Nat) :
    (State.stopOnDie s n).progs = s.progs := by
  simp (maxDischargeDepth := 40) [State.stopOnDie, progs_foldl]
@[simp] theorem State.putOut_progs (s : State) (n : Nat) (r : DieOut) (h : r.1.progs = s.progs.of n) :
    (s.putOut n r).progs = s.progs := by
  unfold State.putOut
  split <;> simp [h]
@[simp] theorem State.writeLocal_progs (s : State) (n : Nat) (ws : List (Nat × Bytes)) :
    (State.writeLocal s n ws).progs = s.progs := by
  simp (maxDischargeDepth := 40) [State.writeLocal]
@[simp] theorem State.setGroup_progs (s : State) (pg : Nat) (g : ParityGroup) :
    (State.setGroup s pg g).progs = s.progs := by
  simp (maxDischargeDepth := 40) [State.setGroup]
@[simp] theorem State.openStripe_progs (s : State) (l : Loc) :
    (State.openStripe s l).progs = s.progs := by
  simp (maxDischargeDepth := 40) [State.openStripe]
@[simp] theorem State.cellarWrite_progs (s : State) (u n off : Nat) (bs : Bytes) :
    (State.cellarWrite s u n off bs).progs = s.progs := by
  unfold State.cellarWrite
  extract_lets key whole s1 s2 a b
  have h1 : s1.progs = s.progs := progs_foldl _ _ _ fun s o => by split <;> rfl
  have h2 : s2.progs = s1.progs := progs_foldl _ _ _ fun s p => by split <;> rfl
  rw [progs_foldl _ _ _ fun s i => by (repeat' split) <;> simp, h2, h1]
@[simp] theorem State.fillStripes_progs (s : State) (u : Nat) :
    (State.fillStripes s u).progs = s.progs := by
  simp (maxDischargeDepth := 40) [State.fillStripes, progs_foldl]
@[simp] theorem State.holdWrite_progs (s : State) (n u : Nat) (ls : List Loc) :
    (State.holdWrite s n u ls).progs = s.progs := by
  simp (maxDischargeDepth := 40) [State.holdWrite, progs_foldl]
@[simp] theorem State.retryWrites_progs (s : State) :
    (State.retryWrites s).progs = s.progs := by
  simp (maxDischargeDepth := 40) +contextual [State.retryWrites, progs_foldl, dieProgs_foldl]
@[simp] theorem State.remoteWrite_progs (s : State) (m u n off : Nat) (bs : Bytes) :
    (State.remoteWrite s m u n off bs).progs = s.progs := by
  simp (maxDischargeDepth := 40) [State.remoteWrite]
@[simp] theorem State.heldReads_progs (s : State) (m u n off len : Nat) :
    (State.heldReads s m u n off len).progs = s.progs := by
  simp (maxDischargeDepth := 40) [State.heldReads]
@[simp] theorem State.noteReads_progs (s : State) (u n off len : Nat) :
    (State.noteReads s u n off len).progs = s.progs := by
  simp (maxDischargeDepth := 40) [State.noteReads]
@[simp] theorem State.fillTunRings_progs (s : State) (u : Nat) :
    (State.fillTunRings s u).progs = s.progs := by
  simp (maxDischargeDepth := 40) [State.fillTunRings]
@[simp] theorem State.handOver_progs (s : State) (n u : Nat) (x : RackSeg) :
    (State.handOver s n u x).progs = s.progs := by
  simp (maxDischargeDepth := 40) [State.handOver]
@[simp] theorem State.hubRack_progs (s : State) (u : Nat) (x : RackSeg) :
    (State.hubRack s u x).progs = s.progs := by
  simp (maxDischargeDepth := 40) [State.hubRack]
@[simp] theorem State.takeBuffered_progs (s : State) (n u : Nat) :
    (State.takeBuffered s n u).progs = s.progs := by
  simp (maxDischargeDepth := 40) [State.takeBuffered]
@[simp] theorem State.ackOne_progs (s : State) (u : Nat) (x : RackSeg) :
    (State.ackOne s u x).progs = s.progs := by
  simp (maxDischargeDepth := 40) [State.ackOne]
@[simp] theorem State.sendHistory_progs (s : State) (u : Nat) :
    (State.sendHistory s u).progs = s.progs := by
  simp (maxDischargeDepth := 40) [State.sendHistory, progs_foldl]
@[simp] theorem State.lateRead_progs (s : State) (n u entry b : Nat) (payload : CaskPiece → Bytes) :
    (State.lateRead s n u entry b payload).progs = s.progs := by
  simp (maxDischargeDepth := 40) [State.lateRead]
@[simp] theorem State.lateSlot_progs (s : State) (n u entry : Nat) (payload : CaskPiece → Bytes) :
    (State.lateSlot s n u entry payload).progs = s.progs := by
  simp (maxDischargeDepth := 40) [State.lateSlot]
@[simp] theorem State.noteBlock_progs (s : State) (n u : Nat) (e : BitVec 512) (b : Nat) :
    (State.noteBlock s n u e b).progs = s.progs := by
  simp (maxDischargeDepth := 40) +contextual [State.noteBlock, progs_foldl, dieProgs_foldl]
@[simp] theorem State.contradicted_progs (s : State) (n u : Nat) (g : GradSegment) (ps : List (Nat × BitVec 512)) :
    (State.contradicted s n u g ps).progs = s.progs := by
  simp (maxDischargeDepth := 40) [State.contradicted]
@[simp] theorem State.stepClosed_progs (s : State) (n u : Nat) (nonfinite : Bool) :
    (State.stepClosed s n u nonfinite).progs = s.progs := by
  simp (maxDischargeDepth := 40) [State.stepClosed]
@[simp] theorem State.giveVote_progs (s : State) (u : Nat) :
    (State.giveVote s u).progs = s.progs := by
  simp (maxDischargeDepth := 40) [State.giveVote, progs_foldl]
@[simp] theorem State.takeGravity_progs (s : State) (u : Nat) (v : VoteData) :
    (State.takeGravity s u v).progs = s.progs := by
  simp (maxDischargeDepth := 40) [State.takeGravity]
@[simp] theorem State.startLag_progs (s : State) (u : Nat) :
    (State.startLag s u).progs = s.progs := by
  simp (maxDischargeDepth := 40) [State.startLag]
@[simp] theorem State.planCasks_progs (s : State) (u attempt : Nat) :
    (State.planCasks s u attempt).progs = s.progs := by
  simp (maxDischargeDepth := 40) [State.planCasks]
@[simp] theorem State.sendLayout_progs (s : State) (u : Nat) (shards : List (BitVec 256)) :
    (State.sendLayout s u shards).progs = s.progs := by
  simp (maxDischargeDepth := 40) [State.sendLayout, progs_foldl]
@[simp] theorem State.noteSlots_progs (s : State) (n u : Nat) :
    (State.noteSlots s n u).progs = s.progs := by
  simp (maxDischargeDepth := 40) +contextual [State.noteSlots, progs_foldl, dieProgs_foldl]
@[simp] theorem Die.clearBanks_progs (d : Die) (u : Nat) :
    (Die.clearBanks d u).progs = d.progs := by
  simp (maxDischargeDepth := 40) [Die.clearBanks]
@[simp] theorem Die.freshStream_progs (d : Die) (u : Nat) :
    (Die.freshStream d u).progs = d.progs := by
  simp (maxDischargeDepth := 40) [Die.freshStream]
@[simp] theorem State.keepPieces_progs (s : State) (u : Nat) :
    (State.keepPieces s u).progs = s.progs := by
  simp (maxDischargeDepth := 40) [State.keepPieces]
@[simp] theorem State.digestStep_progs (s : State) (u step : Nat) (on : Bool) :
    (State.digestStep s u step on).progs = s.progs := by
  simp (maxDischargeDepth := 40) [State.digestStep]
@[simp] theorem State.putRecords_progs (s : State) (u n : Nat) (ws : List PermWrite) :
    (State.putRecords s u n ws).progs = s.progs := by
  simp (maxDischargeDepth := 40) [State.putRecords, progs_foldl]
@[simp] theorem State.compareDigests_progs (s : State) (u : Nat) :
    (State.compareDigests s u).progs = s.progs := by
  simp (maxDischargeDepth := 40) +contextual [State.compareDigests, progs_foldl, dieProgs_foldl]
@[simp] theorem State.setDebt_progs (s : State) (n u x : Nat) :
    (State.setDebt s n u x).progs = s.progs := by
  simp (maxDischargeDepth := 40) [State.setDebt]
@[simp] theorem State.setSlice_progs (s : State) (n : Nat) (x : SliceState) :
    (State.setSlice s n x).progs = s.progs := by
  simp (maxDischargeDepth := 40) [State.setSlice]
@[simp] theorem Die.clearLeft_progs (d : Die) (u : Nat) :
    (Die.clearLeft d u).progs = d.progs := by
  simp (maxDischargeDepth := 40) [Die.clearLeft]
@[simp] theorem State.switchIn_progs (s : State) (n u i start nominal target : Nat) :
    (State.switchIn s n u i start nominal target).progs = s.progs := by
  simp (maxDischargeDepth := 40) [State.switchIn]
@[simp] theorem State.idleDie_progs (s : State) (n i nominal : Nat) :
    (State.idleDie s n i nominal).progs = s.progs := by
  simp (maxDischargeDepth := 40) [State.idleDie]
@[simp] theorem State.runPooled_progs (s : State) (n start last : Nat) (l : List (Nat × Nat × Nat)) :
    (s.runPooled n start last l).progs = s.progs := by
  induction l generalizing s with
  | nil => simp [State.runPooled]
  | cons x l ih => unfold State.runPooled; dsimp only; (repeat' split) <;> simp [ih]
@[simp] theorem State.runSealed_progs (s : State) (n base start : Nat) (l : List (Nat × Nat)) (i : Nat) :
    (State.runSealed s n base start l i).progs = s.progs := by
  unfold State.runSealed; split <;> simp (maxDischargeDepth := 40)
@[simp] theorem State.runPlan_progs (s : State) (n base start i : Nat) :
    (State.runPlan s n base start i).progs = s.progs := by
  simp (maxDischargeDepth := 40) [State.runPlan]
@[simp] theorem State.nextSlice_progs (s : State) (n stop : Nat) :
    (State.nextSlice s n stop).progs = s.progs := by
  simp (maxDischargeDepth := 40) [State.nextSlice]
@[simp] theorem State.sliceStop_progs (s : State) (n u stop : Nat) :
    (State.sliceStop s n u stop).progs = s.progs := by
  simp (maxDischargeDepth := 40) [State.sliceStop]
@[simp] theorem State.sealPassed_progs (s : State) (n u : Nat) :
    (State.sealPassed s n u).progs = s.progs := by
  simp (maxDischargeDepth := 40) [State.sealPassed]
@[simp] theorem State.bushelOn_progs (s : State) (n k : Nat) :
    (State.bushelOn s n k).progs = s.progs := by
  simp (maxDischargeDepth := 40) [State.bushelOn]
@[simp] theorem State.sealedEnd_progs (s : State) (n : Nat) :
    (State.sealedEnd s n).progs = s.progs := by
  unfold State.sealedEnd; dsimp only; (repeat' split) <;> simp (maxDischargeDepth := 40)
@[simp] theorem State.logRepair_progs (s : State) (type : Nat) (body : BitVec 192) :
    (State.logRepair s type body).progs = s.progs := by
  simp (maxDischargeDepth := 40) [State.logRepair]
@[simp] theorem State.queueRow_progs (s : State) (n : Nat) (r : RowRepair) :
    (State.queueRow s n r).progs = s.progs := by
  simp (maxDischargeDepth := 40) [State.queueRow]
@[simp] theorem State.copyRows_progs (s : State) (n u : Nat) :
    (State.copyRows s n u).progs = s.progs := by
  simp (maxDischargeDepth := 40) [State.copyRows, progs_foldl]
@[simp] theorem State.noteUe_progs (s : State) (u key : Nat) :
    (State.noteUe s u key).1.progs = s.progs := by
  simp (maxDischargeDepth := 40) [State.noteUe]
@[simp] theorem Die.putMov_progs (d : Die) (j : MovJob) :
    (Die.putMov d j).progs = d.progs := by
  simp (maxDischargeDepth := 40) [Die.putMov]
@[simp] theorem Die.dropMov_progs (d : Die) (u slot : Nat) :
    (Die.dropMov d u slot).progs = d.progs := by
  simp (maxDischargeDepth := 40) [Die.dropMov]
@[simp] theorem State.sendPages_progs (s : State) (n : Nat) (j : MovJob) :
    (State.sendPages s n j).progs = s.progs := by
  simp (maxDischargeDepth := 40) [State.sendPages]
@[simp] theorem State.fillPages_progs (s : State) :
    (State.fillPages s).progs = s.progs := by
  simp (maxDischargeDepth := 40) [State.fillPages, progs_foldl]
@[simp] theorem State.retile_progs (s : State) (n : Nat) (j : MovJob) :
    (State.retile s n j).progs = s.progs := by
  simp (maxDischargeDepth := 40) [State.retile]
@[simp] theorem State.copyLines_progs (s : State) (n : Nat) (j : MovJob) :
    (State.copyLines s n j).progs = s.progs := by
  unfold State.copyLines; dsimp only; (repeat' split) <;> simp (maxDischargeDepth := 40) [progs_foldl]
@[simp] theorem State.noteSource_progs (s : State) (n : Nat) (j : MovJob) :
    (State.noteSource s n j).progs = s.progs := by
  simp (maxDischargeDepth := 40) [State.noteSource, progs_foldl]
@[simp] theorem State.hostFails_progs (s : State) (n u place unit : Nat) :
    (State.hostFails s n u place unit).progs = s.progs := by
  simp (maxDischargeDepth := 40) [State.hostFails]
@[simp] theorem State.noteHeldPages_progs (s : State) (u : Nat) :
    (State.noteHeldPages s u).progs = s.progs := by
  simp (maxDischargeDepth := 40) [State.noteHeldPages]
@[simp] theorem State.pageReturn_progs (s : State) (n u slot page : Nat) (ct : Bytes) (tagRec : BitVec 256) (err : Bool) :
    (State.pageReturn s n u slot page ct tagRec err).progs = s.progs := by
  unfold State.pageReturn; dsimp only; (repeat' split) <;> simp (maxDischargeDepth := 40) +contextual [progs_foldl, dieProgs_foldl]
@[simp] theorem State.contribute_progs (s : State) (n u c : Nat) (xs : List (Nat × Nat)) :
    (State.contribute s n u c xs).1.progs = s.progs := by
  unfold State.contribute; dsimp only; (repeat' split) <;> simp (maxDischargeDepth := 40)
@[simp] theorem State.flushSketch_progs (s : State) (n u b : Nat) :
    (State.flushSketch s n u b).progs = s.progs := by
  unfold State.flushSketch
  cases (s.tun u).sketchColl b with
  | none => rfl
  | some p =>
    exact progs_foldl _ _ _ fun s r => progs_foldl _ _ _ fun s p => by
      dsimp only; (repeat' split) <;> simp
@[simp] theorem State.moveOut_progs (s : State) (u c first : Nat) (codes scales : List Nat) (bs : Nat) :
    (State.moveOut s u c first codes scales bs).progs = s.progs := by
  simp (maxDischargeDepth := 40) [State.moveOut]
@[simp] theorem State.releaseBucket_progs (s : State) (u b : Nat) :
    (State.releaseBucket s u b).progs = s.progs := by
  simp (maxDischargeDepth := 40) [State.releaseBucket]
@[simp] theorem State.bucketMarker_progs (s : State) (u b : Nat) :
    (State.bucketMarker s u b).progs = s.progs := by
  simp (maxDischargeDepth := 40) [State.bucketMarker]
@[simp] theorem State.bucketClosed_progs (s : State) (n u b : Nat) :
    (State.bucketClosed s n u b).progs = s.progs := by
  simp (maxDischargeDepth := 40) [State.bucketClosed]
@[simp] theorem State.deliverSeg_progs (s : State) (u : Nat) (r : BitVec 128) (e : BitVec 256) (x : Seg) :
    (State.deliverSeg s u r e x).progs = s.progs := by
  simp (maxDischargeDepth := 40) [State.deliverSeg]
@[simp] theorem State.segmentIn_progs (s : State) (u c src round first : Nat) (codes scales rows : List Nat) (nf last : Bool) (bs : Nat) :
    (State.segmentIn s u c src round first codes scales rows nf last bs).progs = s.progs := by
  unfold State.segmentIn; dsimp only; (repeat' split) <;> simp (maxDischargeDepth := 40)
@[simp] theorem State.noteStall_progs (s : State) (n u : Nat) (sl : Slice) (w : Wait) :
    (State.noteStall s n u sl w).progs = s.progs := by
  simp (maxDischargeDepth := 40) [State.noteStall]
@[simp] theorem State.issued_progs (s : State) (n u : Nat) (sl : Slice) (voids far : List Nat) (nonfinite : Bool) :
    (State.issued s n u sl voids far nonfinite).progs = s.progs := by
  unfold State.issued
  extract_lets t again t1 t2 t3 s1 s2 s3 s4 s5 s6
  have h2 : s2.progs = s.progs := (progs_foldl _ _ _ fun s m => by simp).trans (by simp [s1])
  have h3 : s3.progs = s2.progs := by unfold s3; split <;> simp
  have h4 : s4.progs = s3.progs := by unfold s4; split <;> simp
  have h5 : s5.progs = s4.progs := by unfold s5; split <;> simp
  have h6 : s6.progs = s5.progs := by unfold s6; split <;> simp
  rw [← h2, ← h3, ← h4, ← h5, ← h6]
  split <;> simp
@[simp] theorem State.logArray_progs (s : State) (n : Nat) :
    (State.logArray s n).progs = s.progs := by
  simp (maxDischargeDepth := 40) [State.logArray]
@[simp] theorem State.suspend_progs (s : State) (n : Nat) :
    (State.suspend s n).progs = s.progs := by
  simp (maxDischargeDepth := 40) [State.suspend]
@[simp] theorem State.suspendDies_progs (s : State) (us : List Nat) :
    (State.suspendDies s us).progs = s.progs := by
  simp (maxDischargeDepth := 40) +contextual [State.suspendDies, progs_foldl, dieProgs_foldl]
@[simp] theorem State.columnStops_progs (s : State) (n col row : Nat) :
    (State.columnStops s n col row).progs = s.progs := by
  simp (maxDischargeDepth := 40) [State.columnStops]
@[simp] theorem State.arrayLost_progs (s : State) (n unit : Nat) :
    (State.arrayLost s n unit).progs = s.progs := by
  simp (maxDischargeDepth := 40) [State.arrayLost]
@[simp] theorem State.columnTested_progs (s : State) (n col : Nat) (ok : Bool) :
    (State.columnTested s n col ok).progs = s.progs := by
  unfold State.columnTested; dsimp only; (repeat' split) <;> simp (maxDischargeDepth := 40)
@[simp] theorem State.idleGates_progs (s : State) (n cycles : Nat) (kind : GateReq) :
    (State.idleGates s n cycles kind).progs = s.progs := by
  unfold State.idleGates; dsimp only; (repeat' split) <;> simp (maxDischargeDepth := 40)
@[simp] theorem State.ackRing_progs (s : State) (u k idx : Nat) :
    (State.ackRing s u k idx).progs = s.progs := by
  simp (maxDischargeDepth := 40) [State.ackRing, progs_foldl]
@[simp] theorem State.sendCommit_progs (s : State) (u : Nat) :
    (State.sendCommit s u).progs = s.progs := by
  unfold State.sendCommit; dsimp only; (repeat' split) <;> simp (maxDischargeDepth := 40)
@[simp] theorem State.putSlot_progs (s : State) (u : Nat) (x : RackSeg) :
    (State.putSlot s u x).progs = s.progs := by
  simp (maxDischargeDepth := 40) [State.putSlot]
@[simp] theorem State.commitPiece_progs (s : State) (u : Nat) (p : CaskPiece) :
    (State.commitPiece s u p).progs = s.progs := by
  simp (maxDischargeDepth := 40) [State.commitPiece]
@[simp] theorem State.endEvaluation_progs (s : State) (u : Nat) (c : EvalCask) :
    (State.endEvaluation s u c).progs = s.progs := by
  simp (maxDischargeDepth := 40) [State.endEvaluation]
@[simp] theorem State.sendChunk_progs (s : State) (u : Nat) (p : CaskPiece) :
    (State.sendChunk s u p).progs = s.progs := by
  simp (maxDischargeDepth := 40) [State.sendChunk]
@[simp] theorem State.evalLocal_progs (s : State) (u : Nat) :
    (State.evalLocal s u).progs = s.progs := by
  unfold State.evalLocal
  split
  · rfl
  · exact progs_foldl _ _ _ fun s x => by simp
@[simp] theorem State.caskRead_progs (s : State) (n u : Nat) :
    (State.caskRead s n u).progs = s.progs := by
  unfold State.caskRead; dsimp only; (repeat' split) <;> simp (maxDischargeDepth := 40)
@[simp] theorem State.measure_progs (s : State) (i : Nat) (bs : Bytes) :
    (State.measure s i bs).progs = s.progs := by
  simp (maxDischargeDepth := 40) [State.measure]
@[simp] theorem State.sigFailed_progs (s : State) :
    (State.sigFailed s).progs = s.progs := by
  simp (maxDischargeDepth := 40) [State.sigFailed]
@[simp] theorem State.tampered_progs (s : State) :
    (State.tampered s).progs = s.progs := by
  simp (maxDischargeDepth := 40) [State.tampered, progs_foldl]
@[simp] theorem State.expose_progs (s : State) (pg : Nat) :
    (State.expose s pg).progs = s.progs := by
  simp (maxDischargeDepth := 40) [State.expose, progs_foldl]
@[simp] theorem State.groupLost_progs (s : State) (pg die unit : Nat) :
    (State.groupLost s pg die unit).progs = s.progs := by
  simp (maxDischargeDepth := 40) [State.groupLost, progs_foldl]
@[simp] theorem Die.fenceAll_progs (d : Die) (dark : Bool) :
    (Die.fenceAll d dark).progs = d.progs := by
  simp (maxDischargeDepth := 40) [Die.fenceAll]
@[simp] theorem State.linkOff_progs (s : State) (l : Nat) :
    (State.linkOff s l).progs = s.progs := by
  simp (maxDischargeDepth := 40) [State.linkOff, progs_foldl]
@[simp] theorem State.darkGroup_progs (s : State) (n : Nat) :
    (State.darkGroup s n).progs = s.progs := by
  unfold State.darkGroup; split <;> simp (maxDischargeDepth := 40)
@[simp] theorem State.loseDie_progs (s : State) (n cause : Nat) (dark : Bool) :
    (State.loseDie s n cause dark).progs = s.progs := by
  simp (maxDischargeDepth := 40) [State.loseDie]
@[simp] theorem State.commitStops_progs (s : State) (unit : Nat) :
    (State.commitStops s unit).progs = s.progs := by
  simp (maxDischargeDepth := 40) [State.commitStops]
@[simp] theorem State.commitLost_progs (s : State) (unit : Nat) :
    (State.commitLost s unit).progs = s.progs := by
  unfold State.commitLost; split
  · rfl
  · simp (maxDischargeDepth := 40)
@[simp] theorem State.absorbed_progs (s : State) (cls die unit : Nat) :
    (State.absorbed s cls die unit).progs = s.progs := by
  simp (maxDischargeDepth := 40) [State.absorbed]
@[simp] theorem State.handle_progs (s : State) (cls die unit : Nat) (u : Option Nat) :
    (State.handle s cls die unit u).progs = s.progs := by
  unfold State.handle; dsimp only; (repeat' split) <;> simp (maxDischargeDepth := 40) [progs_foldl]
@[simp] theorem State.handleHeld_progs (s : State) (r : HeldReport) :
    (State.handleHeld s r).progs = s.progs := by
  unfold State.handleHeld; split <;> simp (maxDischargeDepth := 40)
@[simp] theorem State.report_progs (s : State) (owner unit cls : Nat) (u : Option Nat) :
    (State.report s owner unit cls u).progs = s.progs := by
  unfold State.report; split <;> simp (maxDischargeDepth := 40)
@[simp] theorem Die.stop_progs (d : Die) :
    (Die.stop d).progs = d.progs := by
  simp (maxDischargeDepth := 40) [Die.stop]
@[simp] theorem State.hubEngines_progs (s : State) (f : Keeper → Keeper) :
    (State.hubEngines s f).progs = s.progs := by
  simp (maxDischargeDepth := 40) [State.hubEngines]
@[simp] theorem Die.deepIdle_progs (d : Die) :
    (Die.deepIdle d).progs = d.progs := by
  simp (maxDischargeDepth := 40) [Die.deepIdle]
@[simp] theorem State.countMac_progs (s : State) (m i n : Nat) :
    (State.countMac s m i n).progs = s.progs := by
  simp (maxDischargeDepth := 40) [State.countMac]
@[simp] theorem State.countMacs_progs (s : State) (m : Nat) (is : List Nat) :
    (State.countMacs s m is).progs = s.progs := by
  simp (maxDischargeDepth := 40) [State.countMacs, progs_foldl]
@[simp] theorem State.rxFrame_progs (s : State) (m len : Nat) (mcast : Bool) (is : List Nat) :
    (State.rxFrame s m len mcast is).progs = s.progs := by
  simp (maxDischargeDepth := 40) [State.rxFrame]
@[simp] theorem State.txFrames_progs (s : State) (m n len : Nat) :
    (State.txFrames s m n len).progs = s.progs := by
  simp (maxDischargeDepth := 40) [State.txFrames]
@[simp] theorem State.discardFrame_progs (s : State) (m : Nat) (f : Bytes) (fcsOk : Bool) :
    (State.discardFrame s m f fcsOk).progs = s.progs := by
  simp (maxDischargeDepth := 40) [State.discardFrame]
@[simp] theorem State.holdTx_progs (s : State) (m : Nat) (old : Tbl Nat) :
    (State.holdTx s m old).progs = s.progs := by
  unfold State.holdTx; dsimp only; (repeat' split) <;> simp (maxDischargeDepth := 40) 
@[simp] theorem State.setPauses_progs (s : State) (m : Nat) (ps : Tbl Nat) :
    (State.setPauses s m ps).progs = s.progs := by
  simp (maxDischargeDepth := 40) [State.setPauses]
@[simp] theorem State.pauseMac_progs (s : State) (m : Nat) (qs : List (Nat × Nat)) :
    (State.pauseMac s m qs).progs = s.progs := by
  simp (maxDischargeDepth := 40) [State.pauseMac]
@[simp] theorem State.setPtp_progs (s : State) (p : Ptp) :
    (State.setPtp s p).progs = s.progs := by
  simp (maxDischargeDepth := 40) [State.setPtp]
@[simp] theorem State.planRefused_progs (s : State) (g : GaugePlan) (why m : Nat) :
    (State.planRefused s g why m).progs = s.progs := by
  simp (maxDischargeDepth := 40) [State.planRefused]
@[simp] theorem State.applyDelta_progs (s : State) (rank m : Nat) :
    (State.applyDelta s rank m).progs = s.progs := by
  unfold State.applyDelta; dsimp only; (repeat' split) <;> simp (maxDischargeDepth := 40)
@[simp] theorem State.setWidth_progs (s : State) (m lanes from' : Nat) :
    (State.setWidth s m lanes from').progs = s.progs := by
  simp (maxDischargeDepth := 40) [State.setWidth]
@[simp] theorem State.rekey_progs (s : State) :
    (State.rekey s).progs = s.progs := by
  simp (maxDischargeDepth := 40) +contextual [State.rekey, progs_foldl, dieProgs_foldl]
@[simp] theorem State.sendCtlFrame_progs (s : State) (m len : Nat) (f : TFrame) :
    (State.sendCtlFrame s m len f).progs = s.progs := by
  simp (maxDischargeDepth := 40) [State.sendCtlFrame]
@[simp] theorem State.sendPooled1_progs (s : State) (m : Nat) (p : Nat × CtlMsg) :
    (State.sendPooled1 s m p).progs = s.progs := by
  simp (maxDischargeDepth := 40) [State.sendPooled1]
theorem State.sendPooled_progs (m : Nat) (ps : List (Nat × CtlMsg)) (s : State) : (State.sendPooled m ps s).1.progs = s.progs := by
  induction ps generalizing s with
  | nil => rfl
  | cons p ps ih =>
    unfold State.sendPooled
    split
    · exact (ih _).trans (State.sendPooled1_progs _ _ _)
    · rfl
@[simp] theorem State.flushCtl_progs (s : State) (m : Nat) :
    (State.flushCtl s m).progs = s.progs := by
  unfold State.flushCtl; dsimp only
  split
  · simp (maxDischargeDepth := 40)
  · exact (State.setMac_progs _ _ _).trans (State.sendPooled_progs m _ s)
@[simp] theorem State.txControls_progs (s : State) (m : Nat) (ps : List (Nat × CtlMsg)) :
    (State.txControls s m ps).progs = s.progs := by
  simp (maxDischargeDepth := 40) [State.txControls]
@[simp] theorem State.txControl_progs (s : State) (m u : Nat) (x : CtlMsg) :
    (State.txControl s m u x).progs = s.progs := by
  simp (maxDischargeDepth := 40) [State.txControl]
@[simp] theorem State.sealedFrame_progs (s : State) (m u : Nat) :
    (State.sealedFrame s m u).progs = s.progs := by
  simp (maxDischargeDepth := 40) [State.sealedFrame]
@[simp] theorem State.sendPtp_progs (s : State) (m len : Nat) :
    (State.sendPtp s m len).progs = s.progs := by
  simp (maxDischargeDepth := 40) [State.sendPtp]
@[simp] theorem State.countSent_progs (s : State) (m : Nat) (x : Sent) :
    (State.countSent s m x).progs = s.progs := by
  simp (maxDischargeDepth := 40) [State.countSent]
@[simp] theorem State.countPeck_progs (s : State) (m : Nat) :
    (State.countPeck s m).progs = s.progs := by
  unfold State.countPeck; dsimp only
  split
  · rfl
  · next p _ =>
    have h := progs_foldl (fun (s : State) x => s.countSent m x) p.run.reverse s fun s x => by simp (maxDischargeDepth := 40)
    split <;> split <;> simp (maxDischargeDepth := 40) [h, -List.foldl_reverse]
@[simp] theorem State.failPort_progs (s : State) (m : Nat) :
    (State.failPort s m).progs = s.progs := by
  unfold State.failPort; dsimp only
  split
  · rfl
  · rw [State.deviceEvent_progs]
    apply progs_choice
    · rw [State.absorbed_progs, State.deviceEvent_progs]
      split
      · exact (progs_foldl _ _ _ fun s m => by simp (maxDischargeDepth := 40)).trans (by simp (maxDischargeDepth := 40))
      · simp (maxDischargeDepth := 40)
    · simp (maxDischargeDepth := 40)
@[simp] theorem State.portFails_progs (s : State) (m : Nat) (why : PortFault) :
    (State.portFails s m why).progs = s.progs := by
  simp (maxDischargeDepth := 40) [State.portFails]
@[simp] theorem State.sendLldp_progs (s : State) (m : Nat) :
    (State.sendLldp s m).progs = s.progs := by
  simp (maxDischargeDepth := 40) [State.sendLldp]
@[simp] theorem State.spendCredits_progs (s : State) (u : Nat) (spent : Tbl Nat) :
    (State.spendCredits s u spent).progs = s.progs := by
  simp (maxDischargeDepth := 40) [State.spendCredits]
@[simp] theorem State.sendIn_progs (s : State) (m u kind e : Nat) (p : PeckRoom) :
    (State.sendIn s m u kind e p).1.progs = s.progs := by
  unfold State.sendIn; split <;> simp (maxDischargeDepth := 40)
@[simp] theorem State.sendControls_progs (s : State) (m u : Nat) :
    (State.sendControls s m u).progs = s.progs := by
  simp (maxDischargeDepth := 40) [State.sendControls, progs_foldl]
@[simp] theorem State.unsend_progs (s : State) (m : Nat) (x : Sent) (n : Nat) :
    (State.unsend s m x n).progs = s.progs := by
  simp (maxDischargeDepth := 40) [State.unsend]
@[simp] theorem State.takeBack_progs (s : State) (m : Nat) (xs : List Sent) : (s.takeBack m xs).1.progs = s.progs := by
  induction xs generalizing s with
  | nil => rfl
  | cons x xs ih => unfold State.takeBack; dsimp only; (repeat' split) <;> simp [ih]
@[simp] theorem State.fillPeck_progs (s : State) (m before : Nat) :
    (State.fillPeck s m before).progs = s.progs := by
  unfold State.fillPeck; dsimp only
  split
  · rfl
  · split
    · rfl
    · exact (State.setMac_progs _ _ _).trans ((progs_foldl_fst _ _ _ fun r x => State.sendIn_progs _ _ _ _ _ _).trans (State.takeBack_progs _ _ _))
@[simp] theorem State.repeck_progs (s : State) (m : Nat) :
    (State.repeck s m).progs = s.progs := by
  unfold State.repeck
  split <;> simp
@[simp] theorem State.haltPecks_progs (s : State) :
    (State.haltPecks s).progs = s.progs := by
  unfold State.haltPecks
  refine progs_foldl _ _ _ fun s m => ?_
  split <;> simp (maxDischargeDepth := 40)
@[simp] theorem State.paused_progs (s : State) (m : Nat) (qs : List (Nat × Nat)) :
    (State.paused s m qs).progs = s.progs := by
  simp (maxDischargeDepth := 40) [State.paused]
@[simp] theorem State.peckStart_progs (s : State) (m i : Nat) :
    (State.peckStart s m i).progs = s.progs := by
  unfold State.peckStart; split <;> simp (maxDischargeDepth := 40)
@[simp] theorem State.peckEnd_progs (s : State) (m : Nat) :
    (State.peckEnd s m).progs = s.progs := by
  unfold State.peckEnd; dsimp only; (repeat' split) <;> simp (maxDischargeDepth := 40)
@[simp] theorem State.gaugeTurn_progs (s : State) (n : Nat) :
    (State.gaugeTurn s n).progs = s.progs := by
  unfold State.gaugeTurn; dsimp only
  split
  · rfl
  · split
    · refine (progs_foldl _ _ _ fun s m => ?_).trans (by simp (maxDischargeDepth := 40))
      rw [State.setMac_progs]
      split
      · rfl
      · split <;> simp (maxDischargeDepth := 40)
    · rfl
@[simp] theorem State.rxMessage_progs (s : State) (m u payload : Nat) (src : Option Nat) :
    (State.rxMessage s m u payload src).1.progs = s.progs := by
  simp (maxDischargeDepth := 40) [State.rxMessage]
theorem State.received_progs (s : State) (m u payload src : Nat) (act : State → State) (ha : ∀ s, (act s).progs = s.progs) :
    (s.received m u payload src act).progs = s.progs := by
  unfold State.received; dsimp only
  split
  · rfl
  · split
    · exact (ha _).trans (State.rxMessage_progs _ _ _ _ _)
    · exact State.rxMessage_progs _ _ _ _ _
@[simp] theorem State.ackRack_progs (s : State) (u : Nat) (mine : RackSeg → Bool) :
    (State.ackRack s u mine).progs = s.progs := by
  simp (maxDischargeDepth := 40) [State.ackRack, progs_foldl]
@[simp] theorem State.takeAck_progs (s : State) (m u : Nat) (src : Peer) (kind status first more : Nat) :
    (State.takeAck s m u src kind status first more).progs = s.progs := by
  unfold State.takeAck; dsimp only; (repeat' split) <;> simp (maxDischargeDepth := 40) 
@[simp] theorem State.collSegment_progs (s : State) (u src : Nat) (p : Partial) :
    (State.collSegment s u src p).progs = s.progs := by
  simp (maxDischargeDepth := 40) [State.collSegment]
@[simp] theorem State.repaired_progs (s : State) (u : Nat) :
    (State.repaired s u).progs = s.progs := by
  simp (maxDischargeDepth := 40) [State.repaired]
@[simp] theorem State.staleAck_progs (s : State) (m u src kind seq : Nat) :
    (State.staleAck s m u src kind seq).progs = s.progs := by
  simp (maxDischargeDepth := 40) [State.staleAck]
@[simp] theorem State.timedOut_progs (s : State) (m : Nat) :
    (State.timedOut s m).progs = s.progs := by
  simp (maxDischargeDepth := 40) [State.timedOut]
@[simp] theorem State.resendDue_progs (s : State) (m u dest kind seq : Nat) :
    (State.resendDue s m u dest kind seq).progs = s.progs := by
  unfold State.resendDue; dsimp only; (repeat' split) <;> simp (maxDischargeDepth := 40)
@[simp] theorem State.dropPartial_progs (s : State) (m u src kind seq : Nat) :
    (State.dropPartial s m u src kind seq).progs = s.progs := by
  unfold State.dropPartial; dsimp only; (repeat' split) <;> simp (maxDischargeDepth := 40)
@[simp] theorem State.setKeeper_progs (s : State) (k : Nat) (x : Keeper) :
    (State.setKeeper s k x).progs = s.progs := by
  simp (maxDischargeDepth := 40) [State.setKeeper]
@[simp] theorem State.hubSettle_progs (s : State) :
    (State.hubSettle s).progs = s.progs := by
  simp (maxDischargeDepth := 40) [State.hubSettle]
@[simp] theorem State.badFlit_progs (s : State) (l dir g seq : Nat) :
    (State.badFlit s l dir g seq).progs = s.progs := by
  simp (maxDischargeDepth := 40) [State.badFlit]
@[simp] theorem State.acceptFlit_progs (s : State) (l dir g kind : Nat) (f : BitVec 64) (payload : Bytes) :
    (State.acceptFlit s l dir g kind f payload).1.progs = s.progs := by
  unfold State.acceptFlit; dsimp only; (repeat' split) <;> simp (maxDischargeDepth := 40)
@[simp] theorem State.takeFlit_progs (s : State) (l dir g kind : Nat) (f : BitVec 64) (payload : Bytes) :
    (State.takeFlit s l dir g kind f payload).1.progs = s.progs := by
  unfold State.takeFlit; (repeat' split) <;> simp (maxDischargeDepth := 40) 
@[simp] theorem State.returnCredits_progs (s : State) (l dir g n u : Nat) :
    (State.returnCredits s l dir g n u).progs = s.progs := by
  simp (maxDischargeDepth := 40) [State.returnCredits]
@[simp] theorem State.replayFrom_progs (s : State) (l dir g q : Nat) :
    (State.replayFrom s l dir g q).progs = s.progs := by
  simp (maxDischargeDepth := 40) [State.replayFrom]
@[simp] theorem State.transferFlit_progs (s : State) (l dir tag : Nat) :
    (State.transferFlit s l dir tag).progs = s.progs := by
  simp (maxDischargeDepth := 40) [State.transferFlit]
@[simp] theorem State.fenceStart_progs (s : State) (n cause : Nat) (dark : Bool) :
    (State.fenceStart s n cause dark).progs = s.progs := by
  simp (maxDischargeDepth := 40) [State.fenceStart]
@[simp] theorem State.checkControl_progs (s : State) (n : Nat) :
    (State.checkControl s n).progs = s.progs := by
  simp (maxDischargeDepth := 40) [State.checkControl]
@[simp] theorem State.checkControls_progs (s : State) :
    (State.checkControls s).progs = s.progs := by
  simp (maxDischargeDepth := 40) +contextual [State.checkControls, progs_foldl, dieProgs_foldl]
@[simp] theorem State.controlFlit_progs (s : State) (l dir : Nat) (a b : Bytes) :
    (State.controlFlit s l dir a b).progs = s.progs := by
  unfold State.controlFlit; dsimp only
  split
  · simp (maxDischargeDepth := 40)
  · split
    · split <;> simp (maxDischargeDepth := 40)
    · simp (maxDischargeDepth := 40)
@[simp] theorem State.logLanes_progs (s : State) (l dir g : Nat) (bad : BitVec 74) (new : List Nat) :
    (State.logLanes s l dir g bad new).progs = s.progs := by
  simp (maxDischargeDepth := 40) +contextual [State.logLanes, progs_foldl, dieProgs_foldl]
@[simp] theorem State.linkShape_progs (s : State) (l dir : Nat) :
    (State.linkShape s l dir).progs = s.progs := by
  simp (maxDischargeDepth := 40) [State.linkShape]
@[simp] theorem State.laneTested_progs (s : State) (l dir g : Nat) (bad : BitVec 74) (ns : Nat) :
    (State.laneTested s l dir g bad ns).progs = s.progs := by
  unfold State.laneTested; dsimp only
  split
  · rfl
  · (repeat' split) <;> simp (maxDischargeDepth := 40)
@[simp] theorem State.learnIndex_progs (s : State) (n : Nat) (h : Nat) (f : Found → Found) :
    (State.learnIndex s n h f).progs = s.progs := by
  unfold State.learnIndex; dsimp only; (repeat' split) <;> simp (maxDischargeDepth := 40)
@[simp] theorem State.identity_progs (s : State) (n : Nat) (rec' : BitVec 512) (nonce : Bytes) :
    (State.identity s n rec' nonce).progs = s.progs := by
  simp (maxDischargeDepth := 40) [State.identity]
@[simp] theorem State.gateRequest_progs (s : State) (k : Nat) (power : Bool) :
    (State.gateRequest s k power).progs = s.progs := by
  simp (maxDischargeDepth := 40) [State.gateRequest]
@[simp] theorem State.wakeDone_progs (s : State) (k : Nat) :
    (State.wakeDone s k).progs = s.progs := by
  simp (maxDischargeDepth := 40) [State.wakeDone]
@[simp] theorem State.bushelStart_progs (s : State) (n : Nat) :
    (State.bushelStart s n).progs = s.progs := by
  simp (maxDischargeDepth := 40) [State.bushelStart, progs_foldl]
@[simp] theorem State.targetReached_progs (s : State) (n : Nat) :
    (State.targetReached s n).progs = s.progs := by
  unfold State.targetReached; dsimp only; (repeat' split) <;> simp (maxDischargeDepth := 40)
@[simp] theorem State.switchDone_progs (s : State) (n : Nat) :
    (State.switchDone s n).progs = s.progs := by
  unfold State.switchDone; dsimp only; (repeat' split) <;> simp (maxDischargeDepth := 40)
@[simp] theorem State.refuseLoad_progs (s : State) (u : Nat) (r : Refuse) :
    (State.refuseLoad s u r).progs = s.progs := by
  unfold State.refuseLoad; (repeat' split) <;> simp (maxDischargeDepth := 40)
@[simp] theorem State.checkPlan_progs (s : State) (rank : Nat) :
    (State.checkPlan s rank).progs = s.progs := by
  unfold State.checkPlan; dsimp only; (repeat' split) <;> simp (maxDischargeDepth := 40) 
@[simp] theorem State.tellLost_progs (s : State) (u : Nat) :
    (State.tellLost s u).progs = s.progs := by
  simp (maxDischargeDepth := 40) [State.tellLost]
@[simp] theorem State.releaseSums_progs (s : State) (n u : Nat) (e : BitVec 512) :
    (State.releaseSums s n u e).progs = s.progs := by
  simp (maxDischargeDepth := 40) [State.releaseSums]
@[simp] theorem State.voteGives_progs (s : State) (u : Nat) :
    (State.voteGives s u).progs = s.progs := by
  simp (maxDischargeDepth := 40) [State.voteGives]
@[simp] theorem State.voteIn_progs (s : State) (u src : Nat) (v : VoteData) :
    (State.voteIn s u src v).progs = s.progs := by
  simp (maxDischargeDepth := 40) [State.voteIn]
@[simp] theorem State.voteLate_progs (s : State) (u : Nat) :
    (State.voteLate s u).progs = s.progs := by
  simp (maxDischargeDepth := 40) [State.voteLate]
@[simp] theorem State.digestIn_progs (s : State) (u src step : Nat) (d : Bytes) :
    (State.digestIn s u src step d).progs = s.progs := by
  simp (maxDischargeDepth := 40) [State.digestIn, progs_foldl]
@[simp] theorem State.commitWord_progs (s : State) (u : Nat) (w : BitVec 256) :
    (State.commitWord s u w).progs = s.progs := by
  simp (maxDischargeDepth := 40) [State.commitWord]
@[simp] theorem State.granaryLate_progs (s : State) (u : Nat) :
    (State.granaryLate s u).progs = s.progs := by
  unfold State.granaryLate; dsimp only; (repeat' split) <;> simp (maxDischargeDepth := 40)
@[simp] theorem State.moveOwn_progs (s : State) (u rank : Nat) (j : JobImage) (n : Nat) :
    (State.moveOwn s u rank j n).progs = s.progs := by
  simp (maxDischargeDepth := 40) [State.moveOwn, progs_foldl]
@[simp] theorem State.reshardMove_progs (s : State) (u : Nat) (pkg : LayoutPackage) :
    (State.reshardMove s u pkg).progs = s.progs := by
  unfold State.reshardMove; dsimp only; (repeat' split) <;> simp (maxDischargeDepth := 40) [progs_foldl]
@[simp] theorem State.reshardStep_progs (s : State) (u : Nat) :
    (State.reshardStep s u).progs = s.progs := by
  unfold State.reshardStep; dsimp only; (repeat' split) <;> simp (maxDischargeDepth := 40)
theorem State.ptpIn_progs (s : State) (m len : Nat) (dom : BitVec 8) (is : List Nat) (act : State → State)
    (ha : ∀ s, (act s).progs = s.progs) : (s.ptpIn m len dom is act).progs = s.progs := by
  unfold State.ptpIn; dsimp only
  split
  · rfl
  · split
    · exact (ha _).trans (State.rxFrame_progs _ _ _ _ _)
    · exact State.rxFrame_progs _ _ _ _ _
@[simp] theorem State.clockTo_progs (s : State) (p : Ptp) :
    (State.clockTo s p).progs = s.progs := by
  simp (maxDischargeDepth := 40) +contextual [State.clockTo, progs_foldl, dieProgs_foldl]
@[simp] theorem State.boot_progs (s : State) (kind : Nat) (copy : Bool) (cause : Nat) :
    (State.boot s kind copy cause).progs = s.progs := by
  simp (maxDischargeDepth := 40) [State.boot]
@[simp] theorem State.bootCut_progs (s : State) (kind : Nat) (copy : Bool) (cause : Nat) :
    (State.bootCut s kind copy cause).progs = s.progs := by
  simp (maxDischargeDepth := 40) [State.bootCut]
@[simp] theorem State.refuseRestore_progs (s : State) (u : Nat) (f : RFail) :
    (State.refuseRestore s u f).progs = s.progs := by
  simp (maxDischargeDepth := 40) [State.refuseRestore]
@[simp] theorem State.supply_progs (s : State) (u T : Nat) (objs : List RestoreObject) (pkg : LayoutPackage) :
    (State.supply s u T objs pkg).progs = s.progs := by
  unfold State.supply; dsimp only; (repeat' split) <;> simp (maxDischargeDepth := 40) [progs_foldl]
@[simp] theorem State.setTap_progs (s : State) (t : Nat) (x : Tap) :
    (State.setTap s t x).progs = s.progs := by
  simp (maxDischargeDepth := 40) [State.setTap]
@[simp] theorem State.tapFault_progs (s : State) (t why : Nat) :
    (State.tapFault s t why).progs = s.progs := by
  unfold State.tapFault; dsimp only; (repeat' split) <;> simp (maxDischargeDepth := 40)
@[simp] theorem State.hostIndex_progs (s : State) (t : Nat) (e : BitVec 1024) :
    (State.hostIndex s t e).progs = s.progs := by
  unfold State.hostIndex; (repeat' split) <;> simp (maxDischargeDepth := 40)
@[simp] theorem State.statusEntry_progs (s : State) (u : Nat) (e : BitVec 1024) :
    (State.statusEntry s u e).progs = s.progs := by
  simp (maxDischargeDepth := 40) [State.statusEntry]
@[simp] theorem State.useKind_progs (s : State) (u k : Nat) :
    (State.useKind s u k).progs = s.progs := by
  unfold State.useKind; (repeat' split) <;> simp (maxDischargeDepth := 40)
@[simp] theorem State.tapApply_progs (s : State) (t : Nat) (e : BitVec 1024) :
    (State.tapApply s t e).progs = s.progs := by
  unfold State.tapApply; dsimp only; (repeat' split) <;> simp (maxDischargeDepth := 40)
@[simp] theorem State.tapCheck_progs (s : State) (t : Nat) (e : BitVec 1024) :
    (State.tapCheck s t e).progs = s.progs := by
  simp (maxDischargeDepth := 40) [State.tapCheck]
@[simp] theorem State.tapTorn_progs (s : State) (t : Nat) :
    (State.tapTorn s t).progs = s.progs := by
  simp (maxDischargeDepth := 40) [State.tapTorn]
@[simp] theorem State.ringAdvance_progs (s : State) (t a idx : Nat) :
    (State.ringAdvance s t a idx).progs = s.progs := by
  simp (maxDischargeDepth := 40) [State.ringAdvance]
@[simp] theorem State.kindRefused_progs (s : State) (u k : Nat) :
    (State.kindRefused s u k).progs = s.progs := by
  simp (maxDischargeDepth := 40) [State.kindRefused]
@[simp] theorem State.stagePackage_progs (s : State) (u : Nat) (pkg : LayoutPackage) :
    (State.stagePackage s u pkg).progs = s.progs := by
  simp (maxDischargeDepth := 40) [State.stagePackage]
@[simp] theorem State.ringFails_progs (s : State) (u : Nat) :
    (State.ringFails s u).progs = s.progs := by
  simp (maxDischargeDepth := 40) [State.ringFails]
@[simp] theorem State.postOutput_progs (s : State) (u : Nat) :
    (State.postOutput s u).progs = s.progs := by
  unfold State.postOutput; split <;> simp (maxDischargeDepth := 40)
@[simp] theorem State.closedStatus_progs (s : State) (u : Nat) :
    (State.closedStatus s u).progs = s.progs := by
  unfold State.closedStatus; dsimp only; (repeat' split) <;> simp (maxDischargeDepth := 40)
@[simp] theorem State.windowWrite_progs (s : State) (off n : Nat) (w : BitVec 64) :
    (State.windowWrite s off n w).progs = s.progs := by
  simp (maxDischargeDepth := 40) [State.windowWrite]
@[simp] theorem stageRecord_progs (u : Nat) (cmdSeq : BitVec 32) (ok : Bool) (why : Nat) (f : Tun → Tun) (s : State) :
    (stageRecord u cmdSeq ok why f s).progs = s.progs := by
  simp (maxDischargeDepth := 40) [stageRecord]
@[simp] theorem State.degrade_progs (s : State) (pg pos : Nat) :
    (State.degrade s pg pos).progs = s.progs := by
  simp (maxDischargeDepth := 40) [State.degrade, progs_foldl]
@[simp] theorem State.interfaceFails_progs (s : State) (i : Nat) :
    (State.interfaceFails s i).progs = s.progs := by
  simp (maxDischargeDepth := 40) [State.interfaceFails, progs_foldl]
@[simp] theorem State.countRebuilt_progs (s : State) (pg : Nat) (k : Nat → Nat) :
    (State.countRebuilt s pg k).progs = s.progs := by
  simp (maxDischargeDepth := 40) [State.countRebuilt, progs_foldl]
@[simp] theorem State.fenceRow_progs (s : State) (n pos row : Nat) :
    (State.fenceRow s n pos row).progs = s.progs := by
  simp (maxDischargeDepth := 40) [State.fenceRow]
@[simp] theorem State.noteMem_progs (s : State) (n : Nat) (f : MemStat → MemStat) :
    (State.noteMem s n f).progs = s.progs := by
  simp (maxDischargeDepth := 40) [State.noteMem]
@[simp] theorem State.cellarUe_progs (s : State) (n u off : Nat) (second : Bool) :
    (State.cellarUe s n u off second).progs = s.progs := by
  unfold State.cellarUe; split <;> simp (maxDischargeDepth := 40)
@[simp] theorem State.refetch_progs (s : State) (n u : Nat) (r : RowRepair) (fetch : Bool) :
    (State.refetch s n u r fetch).progs = s.progs := by
  simp (maxDischargeDepth := 40) [State.refetch]
@[simp] theorem State.corrected_progs (s : State) (n : Nat) (r : RowRepair) :
    (State.corrected s n r).progs = s.progs := by
  simp (maxDischargeDepth := 40) [State.corrected]
@[simp] theorem Die.scrub_progs (d : Die) (lvl : Nat) :
    (Die.scrub d lvl).progs = d.progs := by
  unfold Die.scrub; split <;> simp (maxDischargeDepth := 40)
@[simp] theorem State.startColumns_progs (s : State) (c : FlashCopy) (f : StartFinds) (n : Nat) :
    (State.startColumns s c f n).progs = s.progs := by
  simp (maxDischargeDepth := 40) [State.startColumns]
@[simp] theorem State.startShape_progs (s : State) (l dir : Nat) :
    (State.startShape s l dir).progs = s.progs := by
  simp (maxDischargeDepth := 40) [State.startShape]
@[simp] theorem State.startInterface_progs (s : State) (i : Nat) :
    (State.startInterface s i).progs = s.progs := by
  simp (maxDischargeDepth := 40) [State.startInterface]
@[simp] theorem State.startRow_progs (s : State) (known : List Nat) (r : Nat) :
    (State.startRow s known r).progs = s.progs := by
  simp (maxDischargeDepth := 40) [State.startRow]
@[simp] theorem State.startRows_progs (s : State) (c : FlashCopy) (f : StartFinds) :
    (State.startRows s c f).progs = s.progs := by
  simp (maxDischargeDepth := 40) [State.startRows, progs_foldl]
@[simp] theorem State.startDies_progs (s : State) (c : FlashCopy) (f : StartFinds) :
    (State.startDies s c f).progs = s.progs := by
  unfold State.startDies; dsimp only
  refine (progs_foldl _ _ _ fun s n => ?_).trans (by simp (maxDischargeDepth := 40))
  (repeat' split) <;> simp (maxDischargeDepth := 40)
@[simp] theorem State.startLevel_progs (s : State) :
    (State.startLevel s).progs = s.progs := by
  simp (maxDischargeDepth := 40) [State.startLevel]
@[simp] theorem State.extendMr_progs (s : State) (i : Nat) (d : Bytes) :
    (State.extendMr s i d).progs = s.progs := by
  simp (maxDischargeDepth := 40) [State.extendMr]
@[simp] theorem State.measureStart_progs (s : State) (c : FlashCopy) :
    (State.measureStart s c).progs = s.progs := by
  simp (maxDischargeDepth := 40) [State.measureStart, progs_foldl]
@[simp] theorem State.startNet_progs (s : State) (c : FlashCopy) (f : StartFinds) :
    (State.startNet s c f).progs = s.progs := by
  unfold State.startNet; dsimp only; (repeat' split) <;> simp (maxDischargeDepth := 40) [progs_foldl]
@[simp] theorem State.startLoad_progs (s : State) (c : Bool) (x : FlashCopy) :
    (State.startLoad s c x).progs = s.progs := by
  simp (maxDischargeDepth := 40) [State.startLoad]
@[simp] theorem State.startEnd_progs (s : State) (c : Bool) :
    (State.startEnd s c).progs = s.progs := by
  simp (maxDischargeDepth := 40) [State.startEnd]
@[simp] theorem State.steep_progs (s : State) (cause : Nat) :
    (State.steep s cause).progs = s.progs := by
  simp (maxDischargeDepth := 40) +contextual [State.steep, progs_foldl, dieProgs_foldl]
@[simp] theorem State.withS_progs (s : State) :
    (State.withS s).progs = s.progs := by
  simp (maxDischargeDepth := 40) [State.withS]
@[simp] theorem State.flashWrite_progs (s : State) (c : Bool) (x : FlashCopy) :
    (State.flashWrite s c x).progs = s.progs := by
  simp (maxDischargeDepth := 40) [State.flashWrite]
@[simp] theorem State.sawInput_progs (s : State) (mv : Nat) :
    (State.sawInput s mv).progs = s.progs := by
  simp (maxDischargeDepth := 40) [State.sawInput]
@[simp] theorem State.answer_progs (s : State) (bs : Bytes) :
    (State.answer s bs).progs = s.progs := by
  simp (maxDischargeDepth := 40) [State.answer]
@[simp] theorem State.spdmError_progs (s : State) :
    (State.spdmError s).progs = s.progs := by
  simp (maxDischargeDepth := 40) [State.spdmError]
@[simp] theorem State.setSession_progs (s : State) (i : Nat) (x : Session) :
    (State.setSession s i x).progs = s.progs := by
  simp (maxDischargeDepth := 40) [State.setSession]
@[simp] theorem State.openSession_progs (s : State) (i : Nat) (nonce : Bytes) :
    (State.openSession s i nonce).progs = s.progs := by
  simp (maxDischargeDepth := 40) [State.openSession]
@[simp] theorem State.takeSecret_progs (s : State) (u : Nat) (ts : Bytes) (imports : List Bytes) (sigOk : Bool) :
    (State.takeSecret s u ts imports sigOk).progs = s.progs := by
  simp (maxDischargeDepth := 40) [State.takeSecret]
@[simp] theorem State.withFetchWord_progs (s : State) (nbits w : Nat) :
    (State.withFetchWord s nbits w).progs = s.progs := by
  unfold State.withFetchWord; (repeat' split) <;> simp (maxDischargeDepth := 40) 
end Sys2Proof.Machine
end

