-- ==== Sys2Proof/Laws/Ram.lean ====
section
/-! SUPPORT. The operations that leave every byte memory of the device as it was: the scratchpad and loft bytes of each
die, and the cellar with its keys and zeroed ranges. One lemma for each such operation over a die or the state. -/

namespace Sys2Proof.Machine

/-- What a read of any byte depends on: each die's memory, and the cellar's bytes, key numbers and zeroed ranges. -/
def State.ram (s : State) : (Nat → Mem) × Mem × Tbl Nat × List (Nat × Nat) :=
  (fun n => (s.die n).mem, s.cellar.mem, s.cellar.keys, s.cellar.zeros)

@[simp] theorem State.ram_mk (a b c d e f g h i j k l m n o) :
    State.ram (State.mk a b c d e f g h i j k l m n o) = (fun n => (Tbl.get {} d n).mem, f.mem, f.keys, f.zeros) := rfl
@[simp] theorem State.ram_dies (s : State) : (fun n => (Tbl.get {} s.dies n).mem) = s.ram.1 := rfl
@[simp] theorem State.cellar_keys (s : State) : s.cellar.keys = s.ram.2.2.1 := rfl
@[simp] theorem State.cellar_zeros (s : State) : s.cellar.zeros = s.ram.2.2.2 := rfl
@[simp] theorem State.die_mem (s : State) (n : Nat) : (s.die n).mem = s.ram.1 n := rfl
@[simp] theorem State.cellar_mem (s : State) : s.cellar.mem = s.ram.2.1 := rfl

/-- A fold of an operation that keeps them keeps them. -/
theorem ram_foldl {α : Type} (f : State → α → State) (l : List α) (s : State)
    (h : ∀ s x, (f s x).ram = s.ram) : (l.foldl f s).ram = s.ram := by
  induction l generalizing s with
  | nil => rfl
  | cons x l ih => rw [List.foldl_cons, ih, h]
/-- The same over a pair whose state part keeps them. -/
theorem ram_foldl_fst {α β : Type} (f : State × β → α → State × β) (l : List α) (r : State × β)
    (h : ∀ r x, (f r x).1.ram = r.1.ram) : (l.foldl f r).1.ram = r.1.ram := by
  induction l generalizing r with
  | nil => rfl
  | cons x l ih => rw [List.foldl_cons, ih, h]
theorem mem_foldl {α : Type} (f : Die → α → Die) (l : List α) (d : Die)
    (h : ∀ d x, (f d x).mem = d.mem) : (l.foldl f d).mem = d.mem := by
  induction l generalizing d with
  | nil => rfl
  | cons x l ih => rw [List.foldl_cons, ih, h]
theorem mem_foldl_fst {α β : Type} (f : Die × β → α → Die × β) (l : List α) (r : Die × β)
    (h : ∀ r x, (f r x).1.mem = r.1.mem) : (l.foldl f r).1.mem = r.1.mem := by
  induction l generalizing r with
  | nil => rfl
  | cons x l ih => rw [List.foldl_cons, ih, h]
@[simp] theorem State.setDie_ram (s : State) (n : Nat) (d : Die) (h : d.mem = s.ram.1 n) : (s.setDie n d).ram = s.ram := by
  have e : (fun m => ((s.setDie n d).die m).mem) = fun m => (s.die m).mem := by
    funext m
    by_cases hm : m = n
    · subst hm
      exact (congrArg Die.mem (Tbl.get_put_same ({} : Die) s.dies m d)).trans h
    · exact congrArg Die.mem (Tbl.get_put_other ({} : Die) s.dies d hm)
  unfold State.ram
  rw [e]
  rfl
theorem Tbl.get_mapVals_mem (f : Die → Die) (t : Tbl Die) (n : Nat) (h : ∀ d, (f d).mem = d.mem) :
    (Tbl.get {} (t.mapVals f) n).mem = (Tbl.get {} t n).mem := by
  induction t with
  | nil => rfl
  | cons p t ih =>
    simp only [Tbl.mapVals, List.map_cons, Tbl.get] at ih ⊢
    split
    · exact h _
    · exact ih
theorem ram_mapVals (s : State) (f : Die → Die) (h : ∀ d, (f d).mem = d.mem) :
    ({ s with dies := s.dies.mapVals f } : State).ram = s.ram := by
  unfold State.ram State.die
  simp only [Tbl.get_mapVals_mem f _ _ h]
@[simp] theorem ram_ite (c : Prop) [Decidable c] (a b s : State) :
    (if c then a else b).ram = s.ram ↔ (c → a.ram = s.ram) ∧ (¬c → b.ram = s.ram) := by split <;> simp [*]
@[simp] theorem mem_ite (c : Prop) [Decidable c] (a b : Die) :
    (if c then a else b).mem = if c then a.mem else b.mem := by split <;> rfl
/-- Either branch of a choice. -/
theorem ram_choice {c : Prop} [Decidable c] {a b s : State} (ha : a.ram = s.ram) (hb : b.ram = s.ram) :
    (if c then a else b).ram = s.ram := by
  split <;> assumption
@[simp] theorem Die.setBank_mem (d : Die) (b : Nat) (x : Bank) :
    (Die.setBank d b x).mem = d.mem := by
  simp (maxDischargeDepth := 40) [Die.setBank]
@[simp] theorem Die.setVec_mem (d : Die) (u : Nat) (x : List VecJob) :
    (Die.setVec d u x).mem = d.mem := by
  simp (maxDischargeDepth := 40) [Die.setVec]
@[simp] theorem Die.wakeAll_mem (d : Die) (ks : List Nat) :
    (Die.wakeAll d ks).mem = d.mem := by
  simp (maxDischargeDepth := 40) [Die.wakeAll]
@[simp] theorem Die.putTile_mem (d : Die) (t : Tile) :
    (Die.putTile d t).mem = d.mem := by
  simp (maxDischargeDepth := 40) [Die.putTile]
@[simp] theorem issuePass_mem (sh : Share) (u : Nat) (d : Die) (c : Ctx) (s : Slice) :
    (issuePass sh u d c s).1.mem = d.mem := by
  simp (maxDischargeDepth := 40) [issuePass]
@[simp] theorem issuePreload_mem (sh : Share) (u : Nat) (d : Die) (c : Ctx) (s : Slice) :
    (issuePreload sh u d c s).mem = d.mem := by
  simp (maxDischargeDepth := 40) [issuePreload]
@[simp] theorem issueVec_mem (sh : Share) (tun : Nat) (d : Die) (c : Ctx) (s : Slice) (u pos : Nat) (bank : Bank) (expD : Option Int) (tile : Tile) (f : Nat) :
    (issueVec sh tun d c s u pos bank expD tile f).mem = d.mem := by
  simp (maxDischargeDepth := 40) [issueVec]
@[simp] theorem issueDrainTile_mem (sh : Share) (u : Nat) (d : Die) (c : Ctx) (s : Slice) (pos0 pos1 : Nat) :
    (issueDrainTile sh u d c s pos0 pos1).1.mem = d.mem := by
  simp (maxDischargeDepth := 40) [issueDrainTile]
@[simp] theorem issueWork_mem (sh : Share) (u : Nat) (d : Die) (c : Ctx) (s : Slice) :
    (issueWork sh u d c s).1.mem = d.mem := by
  unfold issueWork; dsimp only; (repeat' split) <;> simp (maxDischargeDepth := 40)
@[simp] theorem issueLaunches_mem (u die : Nat) (ringOff : List Nat) (d : Die) (c : Ctx) (s : Slice) (voids : List Nat) :
    (issueLaunches u die ringOff d c s voids).1.mem = d.mem := by
  unfold issueLaunches
  exact mem_foldl_fst _ _ _ fun r m => rfl
@[simp] theorem Die.hints_mem (d : Die) (kept : List Nat) (s : Slice) :
    (Die.hints d kept s).mem = d.mem := by
  unfold Die.hints; dsimp only; rw [mem_foldl _ _ _ (fun s x => by (repeat' split) <;> simp (maxDischargeDepth := 40))] <;> simp (maxDischargeDepth := 40)
@[simp] theorem Die.gateAtSeal_mem (d : Die) (kept : List Nat) :
    (Die.gateAtSeal d kept).mem = d.mem := by
  simp (maxDischargeDepth := 40) [Die.gateAtSeal]
@[simp] theorem issueSlice_mem (sh : Share) (u die : Nat) (ringOff kept : List Nat) (d : Die) (c : Ctx) (s : Slice) (voids : List Nat) :
    (issueSlice sh u die ringOff kept d c s voids).1.mem = d.mem := by
  unfold issueSlice
  dsimp only
  split <;> split <;> simp
@[simp] theorem Die.setCtx_mem (d : Die) (u : Nat) (c : Ctx) :
    (Die.setCtx d u c).mem = d.mem := by
  simp (maxDischargeDepth := 40) [Die.setCtx]
@[simp] theorem Die.releaseTile_mem (d : Die) (t : Tile) :
    (Die.releaseTile d t).mem = d.mem := by
  simp (maxDischargeDepth := 40) [Die.releaseTile]
@[simp] theorem Die.dropTile_mem (d : Die) (t : Tile) :
    (Die.dropTile d t).mem = d.mem := by
  simp (maxDischargeDepth := 40) [Die.dropTile]
@[simp] theorem Die.upTo_mem (d : Die) (c : Nat) :
    (Die.upTo d c).mem = d.mem := by
  simp (maxDischargeDepth := 40) [Die.upTo]
@[simp] theorem Die.passEnds_mem (d : Die) (b : Nat) :
    (Die.passEnds d b).mem = d.mem := by
  simp (maxDischargeDepth := 40) [Die.passEnds]
@[simp] theorem redrain_mem (sh : Share) (d : Die) (c : Ctx) (t : Tile) (e : LogEntry) (bank : Bank) (f : Nat) :
    (redrain sh d c t e bank f).mem = d.mem := by
  simp (maxDischargeDepth := 40) [redrain]
@[simp] theorem Die.rebuild_mem (sh : Share) (d : Die) (t : Tile) (times : List (Nat × LogEntry × Nat)) :
    (Die.rebuild sh d t times).mem = d.mem := by
  unfold Die.rebuild; dsimp only; (repeat' split) <;> simp (maxDischargeDepth := 40)
@[simp] theorem Die.replay_mem (d : Die) (shOf : List (Nat × Share)) :
    (Die.replay d shOf).mem = d.mem := by
  simp (maxDischargeDepth := 40) [Die.replay, mem_foldl]
@[simp] theorem Die.dropOpenJobs_mem (d : Die) :
    (Die.dropOpenJobs d).mem = d.mem := by
  simp (maxDischargeDepth := 40) [Die.dropOpenJobs]
@[simp] theorem Die.stat_mem (d : Die) (u : Nat) (slot : Option Nat) (f : StatSlot → StatSlot) :
    (Die.stat d u slot f).mem = d.mem := by
  unfold Die.stat; split <;> simp (maxDischargeDepth := 40)
@[simp] theorem Die.recompute_mem (sh : Share) (d : Die) (t : Tile) :
    (Die.recompute sh d t).mem = d.mem := by
  unfold Die.recompute; dsimp only; (repeat' split) <;> simp (maxDischargeDepth := 40)
@[simp] theorem Die.gateSpares_mem (d : Die) :
    (Die.gateSpares d).mem = d.mem := by
  simp (maxDischargeDepth := 40) [Die.gateSpares]
@[simp] theorem Die.columnFault_mem (d : Die) (now col row : Nat) :
    (Die.columnFault d now col row).mem = d.mem := by
  simp (maxDischargeDepth := 40) [Die.columnFault]
@[simp] theorem Die.faultOver_mem (d : Die) (now : Nat) (f : ColFault) (rest : List ColFault) (shOf : List (Nat × Share)) :
    (Die.faultOver d now f rest shOf).mem = d.mem := by
  simp (maxDischargeDepth := 40) [Die.faultOver]
@[simp] theorem Die.fenceArray_mem (d : Die) (mismatch : Bool) :
    (Die.fenceArray d mismatch).mem = d.mem := by
  simp (maxDischargeDepth := 40) [Die.fenceArray]
@[simp] theorem Die.columnTest_mem (d : Die) (now col : Nat) (pass : Bool) (shOf : List (Nat × Share)) :
    (Die.columnTest d now col pass shOf).1.mem = d.mem := by
  unfold Die.columnTest; (repeat' split) <;> simp (maxDischargeDepth := 40)
@[simp] theorem State.setTun_ram (s : State) (u : Nat) (t : Tun) :
    (State.setTun s u t).ram = s.ram := by
  simp (maxDischargeDepth := 40) [State.setTun]
@[simp] theorem State.setCtx_ram (s : State) (n u : Nat) (c : Ctx) :
    (State.setCtx s n u c).ram = s.ram := by
  simp (maxDischargeDepth := 40) [State.setCtx]
@[simp] theorem State.setMac_ram (s : State) (m : Nat) (x : Mac) :
    (State.setMac s m x).ram = s.ram := by
  simp (maxDischargeDepth := 40) [State.setMac]
@[simp] theorem State.setLinkDir_ram (s : State) (l dir : Nat) (x : LinkDir) :
    (State.setLinkDir s l dir x).ram = s.ram := by
  simp (maxDischargeDepth := 40) [State.setLinkDir]
@[simp] theorem State.setFound_ram (s : State) (n : Nat) (x : Found) :
    (State.setFound s n x).ram = s.ram := by
  simp (maxDischargeDepth := 40) [State.setFound]
@[simp] theorem State.setLay_ram (s : State) (u : Nat) (l : Option (BitVec 1024)) :
    (State.setLay s u l).ram = s.ram := by
  simp (maxDischargeDepth := 40) [State.setLay]
@[simp] theorem State.draw_ram (s : State) :
    (State.draw s).ram = s.ram := by
  simp (maxDischargeDepth := 40) [State.draw]
@[simp] theorem State.random_ram (s : State) :
    (State.random s).2.ram = s.ram := by
  simp (maxDischargeDepth := 40) [State.random]
@[simp] theorem State.setEvents_ram (s : State) (u : Nat) (r : Ring) :
    (State.setEvents s u r).ram = s.ram := by
  simp (maxDischargeDepth := 40) [State.setEvents]
@[simp] theorem State.eventBytes_ram (s : State) (u code : Nat) (args : Bytes) :
    (State.eventBytes s u code args).ram = s.ram := by
  simp (maxDischargeDepth := 40) [State.eventBytes]
@[simp] theorem State.eventsBack_ram (s : State) (u : Nat) :
    (State.eventsBack s u).ram = s.ram := by
  simp (maxDischargeDepth := 40) [State.eventsBack]
@[simp] theorem State.event_ram (s : State) (u code : Nat) (args : List Nat) :
    (State.event s u code args).ram = s.ram := by
  simp (maxDischargeDepth := 40) [State.event]
@[simp] theorem State.setDeviceEvents_ram (s : State) (r : Ring) :
    (State.setDeviceEvents s r).ram = s.ram := by
  simp (maxDischargeDepth := 40) [State.setDeviceEvents]
@[simp] theorem State.deviceEventBytes_ram (s : State) (code : Nat) (args : Bytes) :
    (State.deviceEventBytes s code args).ram = s.ram := by
  simp (maxDischargeDepth := 40) [State.deviceEventBytes]
@[simp] theorem State.deviceEventsBack_ram (s : State) :
    (State.deviceEventsBack s).ram = s.ram := by
  simp (maxDischargeDepth := 40) [State.deviceEventsBack]
@[simp] theorem State.deviceEvent_ram (s : State) (code : Nat) (args : List Nat) :
    (State.deviceEvent s code args).ram = s.ram := by
  simp (maxDischargeDepth := 40) [State.deviceEvent]
@[simp] theorem State.commandDone_ram (s : State) (u : Nat) (cmdSeq : BitVec 32) (status : Nat) :
    (State.commandDone s u cmdSeq status).ram = s.ram := by
  simp (maxDischargeDepth := 40) [State.commandDone]
@[simp] theorem State.spoil_ram (s : State) (n u : Nat) :
    (State.spoil s n u).ram = s.ram := by
  simp (maxDischargeDepth := 40) [State.spoil]
@[simp] theorem State.spoilAll_ram (s : State) (u : Nat) :
    (State.spoilAll s u).ram = s.ram := by
  simp (maxDischargeDepth := 40) [State.spoilAll, ram_foldl]
@[simp] theorem State.stopTun_ram (s : State) (u : Nat) :
    (State.stopTun s u).ram = s.ram := by
  simp (maxDischargeDepth := 40) [State.stopTun, ram_foldl]
@[simp] theorem State.stopAll_ram (s : State) :
    (State.stopAll s).ram = s.ram := by
  simp (maxDischargeDepth := 40) [State.stopAll, ram_foldl]
@[simp] theorem State.stopAllNow_ram (s : State) :
    (State.stopAllNow s).ram = s.ram := by
  simp (maxDischargeDepth := 40) [State.stopAllNow]
@[simp] theorem State.programFault_ram (s : State) (n u : Nat) (f : ProgFault) :
    (State.programFault s n u f).ram = s.ram := by
  simp (maxDischargeDepth := 40) [State.programFault]
@[simp] theorem State.countFault_ram (s : State) (cls die unit intNs : Nat) :
    (State.countFault s cls die unit intNs).ram = s.ram := by
  simp (maxDischargeDepth := 40) [State.countFault]
@[simp] theorem State.fault_ram (s : State) (cls die unit intNs : Nat) :
    (State.fault s cls die unit intNs).ram = s.ram := by
  unfold State.fault; dsimp only; (repeat' split) <;> simp (maxDischargeDepth := 40)
@[simp] theorem State.stopOnDie_ram (s : State) (n : Nat) :
    (State.stopOnDie s n).ram = s.ram := by
  simp (maxDischargeDepth := 40) [State.stopOnDie, ram_foldl]
@[simp] theorem State.completeToken_ram (s : State) (n u tok : Nat) (remote : Bool) :
    (State.completeToken s n u tok remote).ram = s.ram := by
  unfold State.completeToken; dsimp only; (repeat' split) <;> simp (maxDischargeDepth := 40)
@[simp] theorem State.putOut_ram (s : State) (n : Nat) (r : DieOut) (h : r.1.mem = s.ram.1 n) : (s.putOut n r).ram = s.ram := by
  unfold State.putOut
  split <;> simp [h]
@[simp] theorem State.owe_ram (s : State) (n u win writer : Nat) :
    (State.owe s n u win writer).ram = s.ram := by
  simp (maxDischargeDepth := 40) [State.owe]
@[simp] theorem State.setGroup_ram (s : State) (pg : Nat) (g : ParityGroup) :
    (State.setGroup s pg g).ram = s.ram := by
  simp (maxDischargeDepth := 40) [State.setGroup]
@[simp] theorem State.openStripe_ram (s : State) (l : Loc) :
    (State.openStripe s l).ram = s.ram := by
  simp (maxDischargeDepth := 40) [State.openStripe]
@[simp] theorem State.fillStripes_ram (s : State) (u : Nat) :
    (State.fillStripes s u).ram = s.ram := by
  simp (maxDischargeDepth := 40) [State.fillStripes, ram_foldl]
@[simp] theorem State.holdWrite_ram (s : State) (n u : Nat) (ls : List Loc) :
    (State.holdWrite s n u ls).ram = s.ram := by
  simp (maxDischargeDepth := 40) [State.holdWrite, ram_foldl]
@[simp] theorem State.heldReads_ram (s : State) (m u n off len : Nat) :
    (State.heldReads s m u n off len).ram = s.ram := by
  simp (maxDischargeDepth := 40) [State.heldReads]
@[simp] theorem State.noteReads_ram (s : State) (u n off len : Nat) :
    (State.noteReads s u n off len).ram = s.ram := by
  simp (maxDischargeDepth := 40) [State.noteReads]
@[simp] theorem State.fillTunRings_ram (s : State) (u : Nat) :
    (State.fillTunRings s u).ram = s.ram := by
  simp (maxDischargeDepth := 40) [State.fillTunRings]
@[simp] theorem State.handOver_ram (s : State) (n u : Nat) (x : RackSeg) :
    (State.handOver s n u x).ram = s.ram := by
  simp (maxDischargeDepth := 40) [State.handOver]
@[simp] theorem State.hubRack_ram (s : State) (u : Nat) (x : RackSeg) :
    (State.hubRack s u x).ram = s.ram := by
  simp (maxDischargeDepth := 40) [State.hubRack]
@[simp] theorem State.takeBuffered_ram (s : State) (n u : Nat) :
    (State.takeBuffered s n u).ram = s.ram := by
  simp (maxDischargeDepth := 40) [State.takeBuffered]
@[simp] theorem State.setCoder_ram (s : State) (n u : Nat) (k : Coder) :
    (State.setCoder s n u k).ram = s.ram := by
  simp (maxDischargeDepth := 40) [State.setCoder]
@[simp] theorem State.sendRack_ram (s : State) (n u : Nat) (f : RkFields) (plain : Bytes) :
    (State.sendRack s n u f plain).ram = s.ram := by
  simp (maxDischargeDepth := 40) [State.sendRack]
@[simp] theorem State.closeCoder_ram (s : State) (n u : Nat) :
    (State.closeCoder s n u).ram = s.ram := by
  simp (maxDischargeDepth := 40) [State.closeCoder]
@[simp] theorem State.codeBlock_ram (s : State) (n u entry first : Nat) (xor : Bytes) (last : Bool) :
    (State.codeBlock s n u entry first xor last).ram = s.ram := by
  simp (maxDischargeDepth := 40) [State.codeBlock]
@[simp] theorem State.codeUnchanged_ram (s : State) (n u entry first k blocks : Nat) :
    (s.codeUnchanged n u entry first k blocks).ram = s.ram := by
  induction k generalizing s first blocks with
  | zero => rfl
  | succ k ih => cases blocks <;> simp [State.codeUnchanged, ih]
@[simp] theorem State.ackOne_ram (s : State) (u : Nat) (x : RackSeg) :
    (State.ackOne s u x).ram = s.ram := by
  simp (maxDischargeDepth := 40) [State.ackOne]
@[simp] theorem State.abandonRack_ram (s : State) (u : Nat) :
    (State.abandonRack s u).ram = s.ram := by
  simp (maxDischargeDepth := 40) [State.abandonRack, ram_foldl]
@[simp] theorem State.sendHistory_ram (s : State) (u : Nat) :
    (State.sendHistory s u).ram = s.ram := by
  simp (maxDischargeDepth := 40) [State.sendHistory, ram_foldl]
@[simp] theorem State.setUpd_ram (s : State) (n u : Nat) (x : UpdCtx) :
    (State.setUpd s n u x).ram = s.ram := by
  simp (maxDischargeDepth := 40) [State.setUpd]
@[simp] theorem State.lateRead_ram (s : State) (n u entry b : Nat) (payload : CaskPiece → Bytes) :
    (State.lateRead s n u entry b payload).ram = s.ram := by
  simp (maxDischargeDepth := 40) [State.lateRead]
@[simp] theorem State.lateSlot_ram (s : State) (n u entry : Nat) (payload : CaskPiece → Bytes) :
    (State.lateSlot s n u entry payload).ram = s.ram := by
  simp (maxDischargeDepth := 40) [State.lateSlot]
@[simp] theorem State.noteBlock_ram (s : State) (n u : Nat) (e : BitVec 512) (b : Nat) :
    (State.noteBlock s n u e b).ram = s.ram := by
  simp (maxDischargeDepth := 40) +contextual [State.noteBlock, ram_foldl, mem_foldl]
@[simp] theorem State.updateBlock_ram (s : State) (n u entry b : Nat) (gs : List Word32) (last : Bool) :
    (State.updateBlock s n u entry b gs last).ram = s.ram := by
  unfold State.updateBlock; dsimp only
  rw [State.codeBlock_ram]
  split <;> split <;> simp (maxDischargeDepth := 40)
@[simp] theorem State.forwardGranary_ram (s : State) (n u entry : Nat) (e : BitVec 512) (g : GradSegment) (blocks : List Nat) :
    (State.forwardGranary s n u entry e g blocks).ram = s.ram := by
  simp (maxDischargeDepth := 40) [State.forwardGranary]
@[simp] theorem State.forwardDone_ram (s : State) (n u : Nat) :
    (State.forwardDone s n u).ram = s.ram := by
  unfold State.forwardDone; dsimp only; (repeat' split) <;> simp (maxDischargeDepth := 40)
@[simp] theorem State.noteSegWait_ram (s : State) (n u why : Nat) :
    (State.noteSegWait s n u why).ram = s.ram := by
  simp (maxDischargeDepth := 40) [State.noteSegWait]
@[simp] theorem State.applyBlocks_ram (s : State) (n u : Nat) (g : GradSegment) (p : Nat × BitVec 512) (bs : List Nat) :
    (s.applyBlocks n u g p bs).1.ram = s.ram := by
  induction bs generalizing s with
  | nil => rfl
  | cons b bs ih => unfold State.applyBlocks; (repeat' split) <;> simp [ih]
@[simp] theorem State.applyEntry_ram (s : State) (n u : Nat) (g : GradSegment) (p : Nat × BitVec 512) :
    (State.applyEntry s n u g p).1.ram = s.ram := by
  unfold State.applyEntry
  extract_lets e x bs keys k st s1
  have h1 : s1.ram = s.ram := State.setUpd_ram ..
  (repeat' split) <;> simp [h1]
@[simp] theorem State.applyEntries_ram (s : State) (n u : Nat) (g : GradSegment) (ps : List (Nat × BitVec 512)) :
    (s.applyEntries n u g ps).1.ram = s.ram := by
  induction ps generalizing s with
  | nil => rfl
  | cons p ps ih =>
    have k := State.applyEntry_ram s n u g p
    unfold State.applyEntries
    split <;> rename_i heq <;> rw [heq] at k
    · exact k
    · exact (ih _).trans k
@[simp] theorem State.discardSegment_ram (s : State) (n u : Nat) (g : GradSegment) (ps : List (Nat × BitVec 512)) :
    (State.discardSegment s n u g ps).ram = s.ram := by
  simp (maxDischargeDepth := 40) [State.discardSegment]
@[simp] theorem State.contradicted_ram (s : State) (n u : Nat) (g : GradSegment) (ps : List (Nat × BitVec 512)) :
    (State.contradicted s n u g ps).ram = s.ram := by
  simp (maxDischargeDepth := 40) [State.contradicted]
@[simp] theorem State.takeSegment_ram (s : State) (n u due : Nat) (g : GradSegment) :
    (State.takeSegment s n u due g).1.ram = s.ram := by
  unfold State.takeSegment
  extract_lets x ps seen given r y0 y1 emb y2 s1
  have hr : r.1.ram = s.ram := by unfold r; split <;> simp
  have h1 : s1.ram = s.ram := (State.setUpd_ram ..).trans hr
  clear_value s1 r
  (repeat' split) <;> simp [hr, h1]
@[simp] theorem State.foldSketch.factorSegments_ram (s : State) (n u tensor : Nat) (bs : Bytes) (first k : Nat) :
    (State.foldSketch.factorSegments s n u tensor bs first k).ram = s.ram := by
  induction k generalizing s bs first with
  | zero => rfl
  | succ k ih => unfold State.foldSketch.factorSegments; split <;> simp [ih]
@[simp] theorem State.rackFrozen_ram (s : State) (n u : Nat) :
    (State.rackFrozen s n u).ram = s.ram := by
  simp (maxDischargeDepth := 40) [State.rackFrozen, ram_foldl]
@[simp] theorem State.stepClosed_ram (s : State) (n u : Nat) (nonfinite : Bool) :
    (State.stepClosed s n u nonfinite).ram = s.ram := by
  simp (maxDischargeDepth := 40) [State.stepClosed]
@[simp] theorem State.giveVote_ram (s : State) (u : Nat) :
    (State.giveVote s u).ram = s.ram := by
  simp (maxDischargeDepth := 40) [State.giveVote, ram_foldl]
@[simp] theorem State.takeGravity_ram (s : State) (u : Nat) (v : VoteData) :
    (State.takeGravity s u v).ram = s.ram := by
  simp (maxDischargeDepth := 40) [State.takeGravity]
@[simp] theorem State.voteSpoiled_ram (s : State) (u : Nat) (nf : Bool) :
    (State.voteSpoiled s u nf).ram = s.ram := by
  simp (maxDischargeDepth := 40) [State.voteSpoiled]
@[simp] theorem State.startLag_ram (s : State) (u : Nat) :
    (State.startLag s u).ram = s.ram := by
  simp (maxDischargeDepth := 40) [State.startLag]
@[simp] theorem State.voteDelivered_ram (s : State) (u : Nat) (v : VoteData) :
    (State.voteDelivered s u v).ram = s.ram := by
  simp (maxDischargeDepth := 40) [State.voteDelivered]
@[simp] theorem State.silentEvents_ram (s : State) (u step : Nat) :
    (State.silentEvents s u step).ram = s.ram := by
  simp (maxDischargeDepth := 40) [State.silentEvents, ram_foldl]
@[simp] theorem State.planCasks_ram (s : State) (u attempt : Nat) :
    (State.planCasks s u attempt).ram = s.ram := by
  simp (maxDischargeDepth := 40) [State.planCasks]
@[simp] theorem State.sendLayout_ram (s : State) (u : Nat) (shards : List (BitVec 256)) :
    (State.sendLayout s u shards).ram = s.ram := by
  simp (maxDischargeDepth := 40) [State.sendLayout, ram_foldl]
@[simp] theorem State.noteSlots_ram (s : State) (n u : Nat) :
    (State.noteSlots s n u).ram = s.ram := by
  simp (maxDischargeDepth := 40) +contextual [State.noteSlots, ram_foldl, mem_foldl]
@[simp] theorem Die.clearBanks_mem (d : Die) (u : Nat) :
    (Die.clearBanks d u).mem = d.mem := by
  simp (maxDischargeDepth := 40) [Die.clearBanks]
@[simp] theorem Die.freshStream_mem (d : Die) (u : Nat) :
    (Die.freshStream d u).mem = d.mem := by
  simp (maxDischargeDepth := 40) [Die.freshStream]
@[simp] theorem State.keepPieces_ram (s : State) (u : Nat) :
    (State.keepPieces s u).ram = s.ram := by
  simp (maxDischargeDepth := 40) [State.keepPieces]
@[simp] theorem State.relay_ram (s : State) (u : Nat) (pkg : LayoutPackage) :
    (State.relay s u pkg).ram = s.ram := by
  unfold State.relay; dsimp only
  split <;> (try rw [State.stopTun_ram]) <;> rw [State.setTun_ram] <;>
    exact (ram_foldl _ _ _ fun s n => by simp (maxDischargeDepth := 40)).trans ((ram_foldl _ _ _ fun s n => by simp (maxDischargeDepth := 40)).trans
      ((ram_foldl _ _ _ fun s n => by simp (maxDischargeDepth := 40)).trans (by simp (maxDischargeDepth := 40))))
@[simp] theorem State.watchBung_ram (s : State) (u step : Nat) :
    (State.watchBung s u step).ram = s.ram := by
  simp (maxDischargeDepth := 40) [State.watchBung, ram_foldl]
@[simp] theorem State.endRacking_ram (s : State) (u : Nat) (hist : Bool) :
    (State.endRacking s u hist).ram = s.ram := by
  simp (maxDischargeDepth := 40) [State.endRacking, ram_foldl]
@[simp] theorem State.digestStep_ram (s : State) (u step : Nat) (on : Bool) :
    (State.digestStep s u step on).ram = s.ram := by
  simp (maxDischargeDepth := 40) [State.digestStep]
@[simp] theorem State.driveBung_ram (s : State) (u : Nat) :
    (State.driveBung s u).ram = s.ram := by
  unfold State.driveBung; dsimp only; (repeat' split) <;> simp (maxDischargeDepth := 40) 
@[simp] theorem State.outcomeSpoiled_ram (s : State) (n u : Nat) :
    (State.outcomeSpoiled s n u).ram = s.ram := by
  simp (maxDischargeDepth := 40) [State.outcomeSpoiled]
@[simp] theorem State.reloadFactors_ram (s : State) (n u : Nat) :
    (State.reloadFactors s n u).ram = s.ram := by
  simp (maxDischargeDepth := 40) [State.reloadFactors]
@[simp] theorem State.compareDigests_ram (s : State) (u : Nat) :
    (State.compareDigests s u).ram = s.ram := by
  simp (maxDischargeDepth := 40) +contextual [State.compareDigests, ram_foldl, mem_foldl]
@[simp] theorem State.setDebt_ram (s : State) (n u x : Nat) :
    (State.setDebt s n u x).ram = s.ram := by
  simp (maxDischargeDepth := 40) [State.setDebt]
@[simp] theorem State.setSlice_ram (s : State) (n : Nat) (x : SliceState) :
    (State.setSlice s n x).ram = s.ram := by
  simp (maxDischargeDepth := 40) [State.setSlice]
@[simp] theorem Die.clearLeft_mem (d : Die) (u : Nat) :
    (Die.clearLeft d u).mem = d.mem := by
  simp (maxDischargeDepth := 40) [Die.clearLeft]
@[simp] theorem State.switchIn_ram (s : State) (n u i start nominal target : Nat) :
    (State.switchIn s n u i start nominal target).ram = s.ram := by
  simp (maxDischargeDepth := 40) [State.switchIn]
@[simp] theorem State.idleDie_ram (s : State) (n i nominal : Nat) :
    (State.idleDie s n i nominal).ram = s.ram := by
  simp (maxDischargeDepth := 40) [State.idleDie]
@[simp] theorem State.runPooled_ram (s : State) (n start last : Nat) (l : List (Nat × Nat × Nat)) :
    (s.runPooled n start last l).ram = s.ram := by
  induction l generalizing s with
  | nil => simp [State.runPooled]
  | cons x l ih => unfold State.runPooled; dsimp only; (repeat' split) <;> simp [ih]
@[simp] theorem State.runSealed_ram (s : State) (n base start : Nat) (l : List (Nat × Nat)) (i : Nat) :
    (State.runSealed s n base start l i).ram = s.ram := by
  unfold State.runSealed; split <;> simp (maxDischargeDepth := 40)
@[simp] theorem State.runPlan_ram (s : State) (n base start i : Nat) :
    (State.runPlan s n base start i).ram = s.ram := by
  simp (maxDischargeDepth := 40) [State.runPlan]
@[simp] theorem State.nextSlice_ram (s : State) (n stop : Nat) :
    (State.nextSlice s n stop).ram = s.ram := by
  simp (maxDischargeDepth := 40) [State.nextSlice]
@[simp] theorem State.sliceStop_ram (s : State) (n u stop : Nat) :
    (State.sliceStop s n u stop).ram = s.ram := by
  simp (maxDischargeDepth := 40) [State.sliceStop]
@[simp] theorem State.sealPassed_ram (s : State) (n u : Nat) :
    (State.sealPassed s n u).ram = s.ram := by
  simp (maxDischargeDepth := 40) [State.sealPassed]
@[simp] theorem State.bushelOn_ram (s : State) (n k : Nat) :
    (State.bushelOn s n k).ram = s.ram := by
  simp (maxDischargeDepth := 40) [State.bushelOn]
@[simp] theorem State.sealedEnd_ram (s : State) (n : Nat) :
    (State.sealedEnd s n).ram = s.ram := by
  unfold State.sealedEnd; dsimp only; (repeat' split) <;> simp (maxDischargeDepth := 40)
@[simp] theorem State.logRepair_ram (s : State) (type : Nat) (body : BitVec 192) :
    (State.logRepair s type body).ram = s.ram := by
  simp (maxDischargeDepth := 40) [State.logRepair]
@[simp] theorem State.queueRow_ram (s : State) (n : Nat) (r : RowRepair) :
    (State.queueRow s n r).ram = s.ram := by
  simp (maxDischargeDepth := 40) [State.queueRow]
@[simp] theorem State.copyRows_ram (s : State) (n u : Nat) :
    (State.copyRows s n u).ram = s.ram := by
  simp (maxDischargeDepth := 40) [State.copyRows, ram_foldl]
@[simp] theorem State.noteUe_ram (s : State) (u key : Nat) :
    (State.noteUe s u key).1.ram = s.ram := by
  simp (maxDischargeDepth := 40) [State.noteUe]
@[simp] theorem Die.putMov_mem (d : Die) (j : MovJob) :
    (Die.putMov d j).mem = d.mem := by
  simp (maxDischargeDepth := 40) [Die.putMov]
@[simp] theorem Die.dropMov_mem (d : Die) (u slot : Nat) :
    (Die.dropMov d u slot).mem = d.mem := by
  simp (maxDischargeDepth := 40) [Die.dropMov]
@[simp] theorem State.sendPages_ram (s : State) (n : Nat) (j : MovJob) :
    (State.sendPages s n j).ram = s.ram := by
  simp (maxDischargeDepth := 40) [State.sendPages]
@[simp] theorem State.fillPages_ram (s : State) :
    (State.fillPages s).ram = s.ram := by
  simp (maxDischargeDepth := 40) [State.fillPages, ram_foldl]
@[simp] theorem State.noteSource_ram (s : State) (n : Nat) (j : MovJob) :
    (State.noteSource s n j).ram = s.ram := by
  simp (maxDischargeDepth := 40) [State.noteSource, ram_foldl]
@[simp] theorem State.movTokens_ram (s : State) (n : Nat) (j : MovJob) :
    (State.movTokens s n j).ram = s.ram := by
  unfold State.movTokens; dsimp only; (repeat' split) <;> simp (maxDischargeDepth := 40)
@[simp] theorem State.hostFails_ram (s : State) (n u place unit : Nat) :
    (State.hostFails s n u place unit).ram = s.ram := by
  simp (maxDischargeDepth := 40) [State.hostFails]
@[simp] theorem State.forwardReturn_ram (s : State) (n u : Nat) :
    (State.forwardReturn s n u).ram = s.ram := by
  unfold State.forwardReturn; dsimp only
  split
  · rfl
  · split <;> simp (maxDischargeDepth := 40)
@[simp] theorem State.flushReturn_ram (s : State) (n u slot : Nat) :
    (State.flushReturn s n u slot).ram = s.ram := by
  unfold State.flushReturn; split <;> simp (maxDischargeDepth := 40)
@[simp] theorem State.noteHeldPages_ram (s : State) (u : Nat) :
    (State.noteHeldPages s u).ram = s.ram := by
  simp (maxDischargeDepth := 40) [State.noteHeldPages]
@[simp] theorem State.pageReturn_ram (s : State) (n u slot page : Nat) (ct : Bytes) (tagRec : BitVec 256) (err : Bool) :
    (State.pageReturn s n u slot page ct tagRec err).ram = s.ram := by
  unfold State.pageReturn; dsimp only; (repeat' split) <;> simp (maxDischargeDepth := 40) +contextual [ram_foldl, mem_foldl]
@[simp] theorem State.contribute_ram (s : State) (n u c : Nat) (xs : List (Nat × Nat)) :
    (State.contribute s n u c xs).1.ram = s.ram := by
  unfold State.contribute; dsimp only; (repeat' split) <;> simp (maxDischargeDepth := 40)
@[simp] theorem State.flushSketch_ram (s : State) (n u b : Nat) :
    (State.flushSketch s n u b).ram = s.ram := by
  unfold State.flushSketch
  cases (s.tun u).sketchColl b with
  | none => rfl
  | some p =>
    exact ram_foldl _ _ _ fun s r => ram_foldl _ _ _ fun s p => by
      dsimp only; (repeat' split) <;> simp
@[simp] theorem State.moveOut_ram (s : State) (u c first : Nat) (codes scales : List Nat) (bs : Nat) :
    (State.moveOut s u c first codes scales bs).ram = s.ram := by
  simp (maxDischargeDepth := 40) [State.moveOut]
@[simp] theorem State.regenerate_ram (s : State) (n u entry base first count : Nat) :
    (State.regenerate s n u entry base first count).1.ram = s.ram := by
  simp (maxDischargeDepth := 40) [State.regenerate]
@[simp] theorem State.pieceTaken_ram (s : State) (n u : Nat) (j : MovJob) (start k : Nat) :
    (State.pieceTaken s n u j start k).1.ram = s.ram := by
  unfold State.pieceTaken; dsimp only; (repeat' split) <;> simp (maxDischargeDepth := 40)
@[simp] theorem State.releaseBucket_ram (s : State) (u b : Nat) :
    (State.releaseBucket s u b).ram = s.ram := by
  simp (maxDischargeDepth := 40) [State.releaseBucket]
@[simp] theorem State.bucketMarker_ram (s : State) (u b : Nat) :
    (State.bucketMarker s u b).ram = s.ram := by
  simp (maxDischargeDepth := 40) [State.bucketMarker]
@[simp] theorem State.bucketClosed_ram (s : State) (n u b : Nat) :
    (State.bucketClosed s n u b).ram = s.ram := by
  simp (maxDischargeDepth := 40) [State.bucketClosed]
@[simp] theorem State.slotTake_ram (s : State) (n u slot : Nat) :
    (State.slotTake s n u slot).ram = s.ram := by
  unfold State.slotTake
  cases (s.die n).mov u slot with
  | none => rfl
  | some j =>
    dsimp only
    split
    · rfl
    · split
      · exact (State.setTun_ram ..).trans (State.draw_ram s)
      · split
        · rfl
        · split
          · rename_i heq
            have k := (congrArg (fun r => r.1.ram) heq).symm.trans ((State.pieceTaken_ram ..).trans (State.noteSource_ram ..))
            simp at k
            simp [k]
          · rename_i heq
            have k := (congrArg (fun r => r.1.ram) heq).symm.trans ((State.pieceTaken_ram ..).trans (State.noteSource_ram ..))
            simp at k
            clear heq
            (repeat' split) <;> simp [k]
@[simp] theorem State.segmentIn_ram (s : State) (u c src round first : Nat) (codes scales rows : List Nat) (nf last : Bool) (bs : Nat) :
    (State.segmentIn s u c src round first codes scales rows nf last bs).ram = s.ram := by
  unfold State.segmentIn; dsimp only; (repeat' split) <;> simp (maxDischargeDepth := 40)
@[simp] theorem State.noteStall_ram (s : State) (n u : Nat) (sl : Slice) (w : Wait) :
    (State.noteStall s n u sl w).ram = s.ram := by
  simp (maxDischargeDepth := 40) [State.noteStall]
@[simp] theorem State.waitCycle_ram (s : State) (n u : Nat) (w : Wait) :
    (State.waitCycle s n u w).ram = s.ram := by
  simp (maxDischargeDepth := 40) [State.waitCycle]
@[simp] theorem State.issued_ram (s : State) (n u : Nat) (sl : Slice) (voids far : List Nat) (nonfinite : Bool) :
    (State.issued s n u sl voids far nonfinite).ram = s.ram := by
  unfold State.issued
  extract_lets t again t1 t2 t3 s1 s2 s3 s4 s5 s6
  have h2 : s2.ram = s.ram := (ram_foldl _ _ _ fun s m => by simp).trans (by simp [s1])
  have h3 : s3.ram = s2.ram := by unfold s3; split <;> simp
  have h4 : s4.ram = s3.ram := by unfold s4; split <;> simp
  have h5 : s5.ram = s4.ram := by unfold s5; split <;> simp
  have h6 : s6.ram = s5.ram := by unfold s6; split <;> simp
  rw [← h2, ← h3, ← h4, ← h5, ← h6]
  split <;> simp
@[simp] theorem State.issueNow_ram (s : State) (n u : Nat) (sl : Slice) :
    (State.issueNow s n u sl).ram = s.ram := by
  simp (maxDischargeDepth := 40) [State.issueNow]
@[simp] theorem State.sliceCommand_ram (s : State) (n : Nat) (names : Slice → Bool) :
    (State.sliceCommand s n names).ram = s.ram := by
  unfold State.sliceCommand; dsimp only; (repeat' split) <;> simp (maxDischargeDepth := 40)
@[simp] theorem State.logArray_ram (s : State) (n : Nat) :
    (State.logArray s n).ram = s.ram := by
  simp (maxDischargeDepth := 40) [State.logArray]
@[simp] theorem State.suspend_ram (s : State) (n : Nat) :
    (State.suspend s n).ram = s.ram := by
  simp (maxDischargeDepth := 40) [State.suspend]
@[simp] theorem State.suspendDies_ram (s : State) (us : List Nat) :
    (State.suspendDies s us).ram = s.ram := by
  simp (maxDischargeDepth := 40) +contextual [State.suspendDies, ram_foldl, mem_foldl]
@[simp] theorem State.columnStops_ram (s : State) (n col row : Nat) :
    (State.columnStops s n col row).ram = s.ram := by
  simp (maxDischargeDepth := 40) [State.columnStops]
@[simp] theorem State.arrayLost_ram (s : State) (n unit : Nat) :
    (State.arrayLost s n unit).ram = s.ram := by
  simp (maxDischargeDepth := 40) [State.arrayLost]
@[simp] theorem State.columnTested_ram (s : State) (n col : Nat) (ok : Bool) :
    (State.columnTested s n col ok).ram = s.ram := by
  unfold State.columnTested; dsimp only; (repeat' split) <;> simp (maxDischargeDepth := 40)
@[simp] theorem State.idleGates_ram (s : State) (n cycles : Nat) (kind : GateReq) :
    (State.idleGates s n cycles kind).ram = s.ram := by
  unfold State.idleGates; dsimp only; (repeat' split) <;> simp (maxDischargeDepth := 40)
@[simp] theorem State.ackRing_ram (s : State) (u k idx : Nat) :
    (State.ackRing s u k idx).ram = s.ram := by
  simp (maxDischargeDepth := 40) [State.ackRing, ram_foldl]
@[simp] theorem State.sendCommit_ram (s : State) (u : Nat) :
    (State.sendCommit s u).ram = s.ram := by
  unfold State.sendCommit; dsimp only; (repeat' split) <;> simp (maxDischargeDepth := 40)
@[simp] theorem State.putSlot_ram (s : State) (u : Nat) (x : RackSeg) :
    (State.putSlot s u x).ram = s.ram := by
  simp (maxDischargeDepth := 40) [State.putSlot]
@[simp] theorem State.commitPiece_ram (s : State) (u : Nat) (p : CaskPiece) :
    (State.commitPiece s u p).ram = s.ram := by
  simp (maxDischargeDepth := 40) [State.commitPiece]
@[simp] theorem State.endEvaluation_ram (s : State) (u : Nat) (c : EvalCask) :
    (State.endEvaluation s u c).ram = s.ram := by
  simp (maxDischargeDepth := 40) [State.endEvaluation]
@[simp] theorem State.sendChunk_ram (s : State) (u : Nat) (p : CaskPiece) :
    (State.sendChunk s u p).ram = s.ram := by
  simp (maxDischargeDepth := 40) [State.sendChunk]
@[simp] theorem State.evalLocal_ram (s : State) (u : Nat) :
    (State.evalLocal s u).ram = s.ram := by
  unfold State.evalLocal
  split
  · rfl
  · exact ram_foldl _ _ _ fun s x => by simp
@[simp] theorem State.caskRead_ram (s : State) (n u : Nat) :
    (State.caskRead s n u).ram = s.ram := by
  unfold State.caskRead; dsimp only; (repeat' split) <;> simp (maxDischargeDepth := 40)
@[simp] theorem State.measure_ram (s : State) (i : Nat) (bs : Bytes) :
    (State.measure s i bs).ram = s.ram := by
  simp (maxDischargeDepth := 40) [State.measure]
@[simp] theorem State.sigFailed_ram (s : State) :
    (State.sigFailed s).ram = s.ram := by
  simp (maxDischargeDepth := 40) [State.sigFailed]
@[simp] theorem State.expose_ram (s : State) (pg : Nat) :
    (State.expose s pg).ram = s.ram := by
  simp (maxDischargeDepth := 40) [State.expose, ram_foldl]
@[simp] theorem State.groupLost_ram (s : State) (pg die unit : Nat) :
    (State.groupLost s pg die unit).ram = s.ram := by
  simp (maxDischargeDepth := 40) [State.groupLost, ram_foldl]
@[simp] theorem Die.fenceAll_mem (d : Die) (dark : Bool) :
    (Die.fenceAll d dark).mem = d.mem := by
  simp (maxDischargeDepth := 40) [Die.fenceAll]
@[simp] theorem State.linkOff_ram (s : State) (l : Nat) :
    (State.linkOff s l).ram = s.ram := by
  simp (maxDischargeDepth := 40) [State.linkOff, ram_foldl]
@[simp] theorem State.darkGroup_ram (s : State) (n : Nat) :
    (State.darkGroup s n).ram = s.ram := by
  unfold State.darkGroup; split <;> simp (maxDischargeDepth := 40)
@[simp] theorem State.loseDie_ram (s : State) (n cause : Nat) (dark : Bool) :
    (State.loseDie s n cause dark).ram = s.ram := by
  simp (maxDischargeDepth := 40) [State.loseDie]
@[simp] theorem State.commitStops_ram (s : State) (unit : Nat) :
    (State.commitStops s unit).ram = s.ram := by
  simp (maxDischargeDepth := 40) [State.commitStops]
@[simp] theorem State.commitLost_ram (s : State) (unit : Nat) :
    (State.commitLost s unit).ram = s.ram := by
  unfold State.commitLost; split
  · rfl
  · simp (maxDischargeDepth := 40)
@[simp] theorem State.absorbed_ram (s : State) (cls die unit : Nat) :
    (State.absorbed s cls die unit).ram = s.ram := by
  simp (maxDischargeDepth := 40) [State.absorbed]
@[simp] theorem Die.stop_mem (d : Die) :
    (Die.stop d).mem = d.mem := by
  simp (maxDischargeDepth := 40) [Die.stop]
@[simp] theorem State.hubEngines_ram (s : State) (f : Keeper → Keeper) :
    (State.hubEngines s f).ram = s.ram := by
  simp (maxDischargeDepth := 40) [State.hubEngines]
@[simp] theorem State.dropCoders_ram (s : State) (n : Nat) :
    (State.dropCoders s n).ram = s.ram := by
  simp (maxDischargeDepth := 40) [State.dropCoders, ram_foldl]
@[simp] theorem State.emergencyStop_ram (s : State) (cause : Nat) :
    (State.emergencyStop s cause).ram = s.ram := by
  simp (maxDischargeDepth := 40) [State.emergencyStop, ram_foldl]
@[simp] theorem State.voidMovs_ram (s : State) (n : Nat) :
    (State.voidMovs s n).ram = s.ram := by
  simp (maxDischargeDepth := 40) [State.voidMovs, ram_foldl]
@[simp] theorem Die.fromIdle_mem (d : Die) (rec' : Nat → StepRecord) :
    (Die.fromIdle d rec').mem = d.mem := by
  simp (maxDischargeDepth := 40) [Die.fromIdle]
@[simp] theorem State.leaveDeepIdle_ram (s : State) :
    (State.leaveDeepIdle s).ram = s.ram := by
  unfold State.leaveDeepIdle
  split
  · rfl
  · have k := ram_mapVals s (fun d => if d.lost then d else d.fromIdle fun u => (s.tun u).record) (fun d => by split <;> simp)
    exact k
@[simp] theorem State.countMac_ram (s : State) (m i n : Nat) :
    (State.countMac s m i n).ram = s.ram := by
  simp (maxDischargeDepth := 40) [State.countMac]
@[simp] theorem State.countMacs_ram (s : State) (m : Nat) (is : List Nat) :
    (State.countMacs s m is).ram = s.ram := by
  simp (maxDischargeDepth := 40) [State.countMacs, ram_foldl]
@[simp] theorem State.rxFrame_ram (s : State) (m len : Nat) (mcast : Bool) (is : List Nat) :
    (State.rxFrame s m len mcast is).ram = s.ram := by
  simp (maxDischargeDepth := 40) [State.rxFrame]
@[simp] theorem State.txFrames_ram (s : State) (m n len : Nat) :
    (State.txFrames s m n len).ram = s.ram := by
  simp (maxDischargeDepth := 40) [State.txFrames]
@[simp] theorem State.discardFrame_ram (s : State) (m : Nat) (f : Bytes) (fcsOk : Bool) :
    (State.discardFrame s m f fcsOk).ram = s.ram := by
  simp (maxDischargeDepth := 40) [State.discardFrame]
@[simp] theorem State.holdTx_ram (s : State) (m : Nat) (old : Tbl Nat) :
    (State.holdTx s m old).ram = s.ram := by
  unfold State.holdTx; dsimp only; (repeat' split) <;> simp (maxDischargeDepth := 40) 
@[simp] theorem State.setPauses_ram (s : State) (m : Nat) (ps : Tbl Nat) :
    (State.setPauses s m ps).ram = s.ram := by
  simp (maxDischargeDepth := 40) [State.setPauses]
@[simp] theorem State.pauseMac_ram (s : State) (m : Nat) (qs : List (Nat × Nat)) :
    (State.pauseMac s m qs).ram = s.ram := by
  simp (maxDischargeDepth := 40) [State.pauseMac]
@[simp] theorem State.setPtp_ram (s : State) (p : Ptp) :
    (State.setPtp s p).ram = s.ram := by
  simp (maxDischargeDepth := 40) [State.setPtp]
@[simp] theorem State.planRefused_ram (s : State) (g : GaugePlan) (why m : Nat) :
    (State.planRefused s g why m).ram = s.ram := by
  simp (maxDischargeDepth := 40) [State.planRefused]
@[simp] theorem State.applyDelta_ram (s : State) (rank m : Nat) :
    (State.applyDelta s rank m).ram = s.ram := by
  unfold State.applyDelta; dsimp only; (repeat' split) <;> simp (maxDischargeDepth := 40)
@[simp] theorem State.setWidth_ram (s : State) (m lanes from' : Nat) :
    (State.setWidth s m lanes from').ram = s.ram := by
  simp (maxDischargeDepth := 40) [State.setWidth]
@[simp] theorem State.rekey_ram (s : State) :
    (State.rekey s).ram = s.ram := by
  simp (maxDischargeDepth := 40) +contextual [State.rekey, ram_foldl, mem_foldl]
@[simp] theorem State.sendCtlFrame_ram (s : State) (m len : Nat) (f : TFrame) :
    (State.sendCtlFrame s m len f).ram = s.ram := by
  simp (maxDischargeDepth := 40) [State.sendCtlFrame]
@[simp] theorem State.sendPooled1_ram (s : State) (m : Nat) (p : Nat × CtlMsg) :
    (State.sendPooled1 s m p).ram = s.ram := by
  simp (maxDischargeDepth := 40) [State.sendPooled1]
theorem State.sendPooled_ram (m : Nat) (ps : List (Nat × CtlMsg)) (s : State) : (State.sendPooled m ps s).1.ram = s.ram := by
  induction ps generalizing s with
  | nil => rfl
  | cons p ps ih =>
    unfold State.sendPooled
    split
    · exact (ih _).trans (State.sendPooled1_ram _ _ _)
    · rfl
@[simp] theorem State.flushCtl_ram (s : State) (m : Nat) :
    (State.flushCtl s m).ram = s.ram := by
  unfold State.flushCtl; dsimp only
  split
  · simp (maxDischargeDepth := 40)
  · exact (State.setMac_ram _ _ _).trans (State.sendPooled_ram m _ s)
@[simp] theorem State.txControls_ram (s : State) (m : Nat) (ps : List (Nat × CtlMsg)) :
    (State.txControls s m ps).ram = s.ram := by
  simp (maxDischargeDepth := 40) [State.txControls]
@[simp] theorem State.txControl_ram (s : State) (m u : Nat) (x : CtlMsg) :
    (State.txControl s m u x).ram = s.ram := by
  simp (maxDischargeDepth := 40) [State.txControl]
@[simp] theorem State.sealedFrame_ram (s : State) (m u : Nat) :
    (State.sealedFrame s m u).ram = s.ram := by
  simp (maxDischargeDepth := 40) [State.sealedFrame]
@[simp] theorem State.sendPtp_ram (s : State) (m len : Nat) :
    (State.sendPtp s m len).ram = s.ram := by
  simp (maxDischargeDepth := 40) [State.sendPtp]
@[simp] theorem State.countSent_ram (s : State) (m : Nat) (x : Sent) :
    (State.countSent s m x).ram = s.ram := by
  simp (maxDischargeDepth := 40) [State.countSent]
@[simp] theorem State.countPeck_ram (s : State) (m : Nat) :
    (State.countPeck s m).ram = s.ram := by
  unfold State.countPeck; dsimp only
  split
  · rfl
  · next p _ =>
    have h := ram_foldl (fun (s : State) x => s.countSent m x) p.run.reverse s fun s x => by simp (maxDischargeDepth := 40)
    split <;> split <;> simp (maxDischargeDepth := 40) [h, -List.foldl_reverse]
@[simp] theorem State.failPort_ram (s : State) (m : Nat) :
    (State.failPort s m).ram = s.ram := by
  unfold State.failPort; dsimp only
  split
  · rfl
  · rw [State.deviceEvent_ram]
    apply ram_choice
    · rw [State.absorbed_ram, State.deviceEvent_ram]
      split
      · exact (ram_foldl _ _ _ fun s m => by simp (maxDischargeDepth := 40)).trans (by simp (maxDischargeDepth := 40))
      · simp (maxDischargeDepth := 40)
    · simp (maxDischargeDepth := 40)
@[simp] theorem State.portFails_ram (s : State) (m : Nat) (why : PortFault) :
    (State.portFails s m why).ram = s.ram := by
  simp (maxDischargeDepth := 40) [State.portFails]
@[simp] theorem State.sendLldp_ram (s : State) (m : Nat) :
    (State.sendLldp s m).ram = s.ram := by
  simp (maxDischargeDepth := 40) [State.sendLldp]
@[simp] theorem State.spendCredits_ram (s : State) (u : Nat) (spent : Tbl Nat) :
    (State.spendCredits s u spent).ram = s.ram := by
  simp (maxDischargeDepth := 40) [State.spendCredits]
@[simp] theorem State.sendIn_ram (s : State) (m u kind e : Nat) (p : PeckRoom) :
    (State.sendIn s m u kind e p).1.ram = s.ram := by
  unfold State.sendIn; split <;> simp (maxDischargeDepth := 40)
@[simp] theorem State.sendControls_ram (s : State) (m u : Nat) :
    (State.sendControls s m u).ram = s.ram := by
  simp (maxDischargeDepth := 40) [State.sendControls, ram_foldl]
@[simp] theorem State.unsend_ram (s : State) (m : Nat) (x : Sent) (n : Nat) :
    (State.unsend s m x n).ram = s.ram := by
  simp (maxDischargeDepth := 40) [State.unsend]
@[simp] theorem State.takeBack_ram (s : State) (m : Nat) (xs : List Sent) : (s.takeBack m xs).1.ram = s.ram := by
  induction xs generalizing s with
  | nil => rfl
  | cons x xs ih => unfold State.takeBack; dsimp only; (repeat' split) <;> simp [ih]
@[simp] theorem State.fillPeck_ram (s : State) (m before : Nat) :
    (State.fillPeck s m before).ram = s.ram := by
  unfold State.fillPeck; dsimp only
  split
  · rfl
  · split
    · rfl
    · exact (State.setMac_ram _ _ _).trans ((ram_foldl_fst _ _ _ fun r x => State.sendIn_ram _ _ _ _ _ _).trans (State.takeBack_ram _ _ _))
@[simp] theorem State.repeck_ram (s : State) (m : Nat) :
    (State.repeck s m).ram = s.ram := by
  unfold State.repeck
  split <;> simp
@[simp] theorem State.haltPecks_ram (s : State) :
    (State.haltPecks s).ram = s.ram := by
  unfold State.haltPecks
  refine ram_foldl _ _ _ fun s m => ?_
  split <;> simp (maxDischargeDepth := 40)
@[simp] theorem State.paused_ram (s : State) (m : Nat) (qs : List (Nat × Nat)) :
    (State.paused s m qs).ram = s.ram := by
  simp (maxDischargeDepth := 40) [State.paused]
@[simp] theorem State.peckStart_ram (s : State) (m i : Nat) :
    (State.peckStart s m i).ram = s.ram := by
  unfold State.peckStart; split <;> simp (maxDischargeDepth := 40)
@[simp] theorem State.peckEnd_ram (s : State) (m : Nat) :
    (State.peckEnd s m).ram = s.ram := by
  unfold State.peckEnd; dsimp only; (repeat' split) <;> simp (maxDischargeDepth := 40)
@[simp] theorem State.gaugeTurn_ram (s : State) (n : Nat) :
    (State.gaugeTurn s n).ram = s.ram := by
  unfold State.gaugeTurn; dsimp only
  split
  · rfl
  · split
    · refine (ram_foldl _ _ _ fun s m => ?_).trans (by simp (maxDischargeDepth := 40))
      rw [State.setMac_ram]
      split
      · rfl
      · split <;> simp (maxDischargeDepth := 40)
    · rfl
@[simp] theorem State.rxMessage_ram (s : State) (m u payload : Nat) (src : Option Nat) :
    (State.rxMessage s m u payload src).1.ram = s.ram := by
  simp (maxDischargeDepth := 40) [State.rxMessage]
theorem State.received_ram (s : State) (m u payload src : Nat) (act : State → State) (ha : ∀ s, (act s).ram = s.ram) :
    (s.received m u payload src act).ram = s.ram := by
  unfold State.received; dsimp only
  split
  · rfl
  · split
    · exact (ha _).trans (State.rxMessage_ram _ _ _ _ _)
    · exact State.rxMessage_ram _ _ _ _ _
@[simp] theorem State.ackRack_ram (s : State) (u : Nat) (mine : RackSeg → Bool) :
    (State.ackRack s u mine).ram = s.ram := by
  simp (maxDischargeDepth := 40) [State.ackRack, ram_foldl]
@[simp] theorem State.takeAck_ram (s : State) (m u : Nat) (src : Peer) (kind status first more : Nat) :
    (State.takeAck s m u src kind status first more).ram = s.ram := by
  unfold State.takeAck; dsimp only; (repeat' split) <;> simp (maxDischargeDepth := 40) 
@[simp] theorem State.collSegment_ram (s : State) (u src : Nat) (p : Partial) :
    (State.collSegment s u src p).ram = s.ram := by
  simp (maxDischargeDepth := 40) [State.collSegment]
@[simp] theorem State.repaired_ram (s : State) (u : Nat) :
    (State.repaired s u).ram = s.ram := by
  simp (maxDischargeDepth := 40) [State.repaired]
@[simp] theorem State.staleAck_ram (s : State) (m u src kind seq : Nat) :
    (State.staleAck s m u src kind seq).ram = s.ram := by
  simp (maxDischargeDepth := 40) [State.staleAck]
@[simp] theorem State.timedOut_ram (s : State) (m : Nat) :
    (State.timedOut s m).ram = s.ram := by
  simp (maxDischargeDepth := 40) [State.timedOut]
@[simp] theorem State.resendDue_ram (s : State) (m u dest kind seq : Nat) :
    (State.resendDue s m u dest kind seq).ram = s.ram := by
  unfold State.resendDue; dsimp only; (repeat' split) <;> simp (maxDischargeDepth := 40)
@[simp] theorem State.dropPartial_ram (s : State) (m u src kind seq : Nat) :
    (State.dropPartial s m u src kind seq).ram = s.ram := by
  unfold State.dropPartial; dsimp only; (repeat' split) <;> simp (maxDischargeDepth := 40)
@[simp] theorem State.setKeeper_ram (s : State) (k : Nat) (x : Keeper) :
    (State.setKeeper s k x).ram = s.ram := by
  simp (maxDischargeDepth := 40) [State.setKeeper]
@[simp] theorem State.hubSettle_ram (s : State) :
    (State.hubSettle s).ram = s.ram := by
  simp (maxDischargeDepth := 40) [State.hubSettle]
@[simp] theorem State.badFlit_ram (s : State) (l dir g seq : Nat) :
    (State.badFlit s l dir g seq).ram = s.ram := by
  simp (maxDischargeDepth := 40) [State.badFlit]
@[simp] theorem State.acceptFlit_ram (s : State) (l dir g kind : Nat) (f : BitVec 64) (payload : Bytes) :
    (State.acceptFlit s l dir g kind f payload).1.ram = s.ram := by
  unfold State.acceptFlit; dsimp only; (repeat' split) <;> simp (maxDischargeDepth := 40)
@[simp] theorem State.takeFlit_ram (s : State) (l dir g kind : Nat) (f : BitVec 64) (payload : Bytes) :
    (State.takeFlit s l dir g kind f payload).1.ram = s.ram := by
  unfold State.takeFlit; (repeat' split) <;> simp (maxDischargeDepth := 40) 
@[simp] theorem State.returnCredits_ram (s : State) (l dir g n u : Nat) :
    (State.returnCredits s l dir g n u).ram = s.ram := by
  simp (maxDischargeDepth := 40) [State.returnCredits]
@[simp] theorem State.replayFrom_ram (s : State) (l dir g q : Nat) :
    (State.replayFrom s l dir g q).ram = s.ram := by
  simp (maxDischargeDepth := 40) [State.replayFrom]
@[simp] theorem State.transferFlit_ram (s : State) (l dir tag : Nat) :
    (State.transferFlit s l dir tag).ram = s.ram := by
  simp (maxDischargeDepth := 40) [State.transferFlit]
@[simp] theorem State.windowsBack_ram (s : State) (u src dst : Nat) (wins : List Nat) :
    (State.windowsBack s u src dst wins).ram = s.ram := by
  simp (maxDischargeDepth := 40) [State.windowsBack]
@[simp] theorem State.fenceStart_ram (s : State) (n cause : Nat) (dark : Bool) :
    (State.fenceStart s n cause dark).ram = s.ram := by
  simp (maxDischargeDepth := 40) [State.fenceStart]
@[simp] theorem State.checkControl_ram (s : State) (n : Nat) :
    (State.checkControl s n).ram = s.ram := by
  simp (maxDischargeDepth := 40) [State.checkControl]
@[simp] theorem State.checkControls_ram (s : State) :
    (State.checkControls s).ram = s.ram := by
  simp (maxDischargeDepth := 40) +contextual [State.checkControls, ram_foldl, mem_foldl]
@[simp] theorem State.controlFlit_ram (s : State) (l dir : Nat) (a b : Bytes) :
    (State.controlFlit s l dir a b).ram = s.ram := by
  unfold State.controlFlit; dsimp only
  split
  · simp (maxDischargeDepth := 40)
  · split
    · split <;> simp (maxDischargeDepth := 40)
    · simp (maxDischargeDepth := 40)
@[simp] theorem State.logLanes_ram (s : State) (l dir g : Nat) (bad : BitVec 74) (new : List Nat) :
    (State.logLanes s l dir g bad new).ram = s.ram := by
  simp (maxDischargeDepth := 40) +contextual [State.logLanes, ram_foldl, mem_foldl]
@[simp] theorem State.linkShape_ram (s : State) (l dir : Nat) :
    (State.linkShape s l dir).ram = s.ram := by
  simp (maxDischargeDepth := 40) [State.linkShape]
@[simp] theorem State.laneTested_ram (s : State) (l dir g : Nat) (bad : BitVec 74) (ns : Nat) :
    (State.laneTested s l dir g bad ns).ram = s.ram := by
  unfold State.laneTested; dsimp only
  split
  · rfl
  · (repeat' split) <;> simp (maxDischargeDepth := 40)
@[simp] theorem State.learnIndex_ram (s : State) (n : Nat) (h : Nat) (f : Found → Found) :
    (State.learnIndex s n h f).ram = s.ram := by
  unfold State.learnIndex; dsimp only; (repeat' split) <;> simp (maxDischargeDepth := 40)
@[simp] theorem State.identity_ram (s : State) (n : Nat) (rec' : BitVec 512) (nonce : Bytes) :
    (State.identity s n rec' nonce).ram = s.ram := by
  simp (maxDischargeDepth := 40) [State.identity]
@[simp] theorem State.gateRequest_ram (s : State) (k : Nat) (power : Bool) :
    (State.gateRequest s k power).ram = s.ram := by
  simp (maxDischargeDepth := 40) [State.gateRequest]
@[simp] theorem State.wakeDone_ram (s : State) (k : Nat) :
    (State.wakeDone s k).ram = s.ram := by
  simp (maxDischargeDepth := 40) [State.wakeDone]
@[simp] theorem State.bushelStart_ram (s : State) (n : Nat) :
    (State.bushelStart s n).ram = s.ram := by
  simp (maxDischargeDepth := 40) [State.bushelStart, ram_foldl]
@[simp] theorem State.targetReached_ram (s : State) (n : Nat) :
    (State.targetReached s n).ram = s.ram := by
  unfold State.targetReached; dsimp only; (repeat' split) <;> simp (maxDischargeDepth := 40)
@[simp] theorem State.switchDone_ram (s : State) (n : Nat) :
    (State.switchDone s n).ram = s.ram := by
  unfold State.switchDone; dsimp only; (repeat' split) <;> simp (maxDischargeDepth := 40)
@[simp] theorem State.createCtxs_ram (s : State) (u : Nat) :
    (State.createCtxs s u).ram = s.ram := by
  simp (maxDischargeDepth := 40) [State.createCtxs, ram_foldl]
@[simp] theorem State.refuseLoad_ram (s : State) (u : Nat) (r : Refuse) :
    (State.refuseLoad s u r).ram = s.ram := by
  unfold State.refuseLoad; (repeat' split) <;> simp (maxDischargeDepth := 40)
@[simp] theorem State.checkPlan_ram (s : State) (rank : Nat) :
    (State.checkPlan s rank).ram = s.ram := by
  unfold State.checkPlan; dsimp only; (repeat' split) <;> simp (maxDischargeDepth := 40) 
@[simp] theorem State.tellLost_ram (s : State) (u : Nat) :
    (State.tellLost s u).ram = s.ram := by
  simp (maxDischargeDepth := 40) [State.tellLost]
@[simp] theorem State.loadJob_ram (s : State) (u : Nat) (j : JobImage) :
    (State.loadJob s u j).1.ram = s.ram := by
  unfold State.loadJob; dsimp only; (repeat' split) <;> simp (maxDischargeDepth := 40)
@[simp] theorem State.giveSegment_ram (s : State) (n u : Nat) (g : GradSegment) :
    (State.giveSegment s n u g).ram = s.ram := by
  have k := State.takeSegment_ram s n u ((s.tun u).lastsDue n g.tensor) g
  unfold State.giveSegment
  split <;> rename_i heq <;> rw [heq] at k <;> simp [k]
@[simp] theorem State.segmentArrives_ram (s : State) (n u : Nat) (g : GradSegment) :
    (State.segmentArrives s n u g).ram = s.ram := by
  simp (maxDischargeDepth := 40) [State.segmentArrives]
@[simp] theorem State.resumeStaged_ram (s : State) (n u : Nat) :
    (State.resumeStaged s n u).ram = s.ram := by
  unfold State.resumeStaged; dsimp only; (repeat' split) <;> simp (maxDischargeDepth := 40)
@[simp] theorem State.releaseSums_ram (s : State) (n u : Nat) (e : BitVec 512) :
    (State.releaseSums s n u e).ram = s.ram := by
  simp (maxDischargeDepth := 40) [State.releaseSums]
@[simp] theorem State.voteGives_ram (s : State) (u : Nat) :
    (State.voteGives s u).ram = s.ram := by
  simp (maxDischargeDepth := 40) [State.voteGives]
@[simp] theorem State.voteIn_ram (s : State) (u src : Nat) (v : VoteData) :
    (State.voteIn s u src v).ram = s.ram := by
  simp (maxDischargeDepth := 40) [State.voteIn]
@[simp] theorem State.voteOut_ram (s : State) (u : Nat) (v : VoteData) :
    (State.voteOut s u v).ram = s.ram := by
  unfold State.voteOut; dsimp only; (repeat' split) <;> simp (maxDischargeDepth := 40)
@[simp] theorem State.voteLate_ram (s : State) (u : Nat) :
    (State.voteLate s u).ram = s.ram := by
  simp (maxDischargeDepth := 40) [State.voteLate]
@[simp] theorem State.bungDue_ram (s : State) (u : Nat) :
    (State.bungDue s u).ram = s.ram := by
  simp (maxDischargeDepth := 40) [State.bungDue]
@[simp] theorem State.digestIn_ram (s : State) (u src step : Nat) (d : Bytes) :
    (State.digestIn s u src step d).ram = s.ram := by
  simp (maxDischargeDepth := 40) [State.digestIn, ram_foldl]
@[simp] theorem State.commitWord_ram (s : State) (u : Nat) (w : BitVec 256) :
    (State.commitWord s u w).ram = s.ram := by
  simp (maxDischargeDepth := 40) [State.commitWord]
@[simp] theorem State.granaryLate_ram (s : State) (u : Nat) :
    (State.granaryLate s u).ram = s.ram := by
  unfold State.granaryLate; dsimp only; (repeat' split) <;> simp (maxDischargeDepth := 40)
theorem State.ptpIn_ram (s : State) (m len : Nat) (dom : BitVec 8) (is : List Nat) (act : State → State)
    (ha : ∀ s, (act s).ram = s.ram) : (s.ptpIn m len dom is act).ram = s.ram := by
  unfold State.ptpIn; dsimp only
  split
  · rfl
  · split
    · exact (ha _).trans (State.rxFrame_ram _ _ _ _ _)
    · exact State.rxFrame_ram _ _ _ _ _
@[simp] theorem State.clockTo_ram (s : State) (p : Ptp) :
    (State.clockTo s p).ram = s.ram := by
  simp (maxDischargeDepth := 40) +contextual [State.clockTo, ram_foldl, mem_foldl]
@[simp] theorem State.boot_ram (s : State) (kind : Nat) (copy : Bool) (cause : Nat) :
    (State.boot s kind copy cause).ram = s.ram := by
  simp (maxDischargeDepth := 40) [State.boot]
@[simp] theorem State.bootCut_ram (s : State) (kind : Nat) (copy : Bool) (cause : Nat) :
    (State.bootCut s kind copy cause).ram = s.ram := by
  simp (maxDischargeDepth := 40) [State.bootCut]
@[simp] theorem State.refuseRestore_ram (s : State) (u : Nat) (f : RFail) :
    (State.refuseRestore s u f).ram = s.ram := by
  simp (maxDischargeDepth := 40) [State.refuseRestore]
@[simp] theorem State.setTap_ram (s : State) (t : Nat) (x : Tap) :
    (State.setTap s t x).ram = s.ram := by
  simp (maxDischargeDepth := 40) [State.setTap]
@[simp] theorem State.tapFault_ram (s : State) (t why : Nat) :
    (State.tapFault s t why).ram = s.ram := by
  unfold State.tapFault; dsimp only; (repeat' split) <;> simp (maxDischargeDepth := 40)
@[simp] theorem State.hostIndex_ram (s : State) (t : Nat) (e : BitVec 1024) :
    (State.hostIndex s t e).ram = s.ram := by
  unfold State.hostIndex; (repeat' split) <;> simp (maxDischargeDepth := 40)
@[simp] theorem State.statusEntry_ram (s : State) (u : Nat) (e : BitVec 1024) :
    (State.statusEntry s u e).ram = s.ram := by
  simp (maxDischargeDepth := 40) [State.statusEntry]
@[simp] theorem State.useKind_ram (s : State) (u k : Nat) :
    (State.useKind s u k).ram = s.ram := by
  unfold State.useKind; (repeat' split) <;> simp (maxDischargeDepth := 40)
@[simp] theorem State.tapApply_ram (s : State) (t : Nat) (e : BitVec 1024) :
    (State.tapApply s t e).ram = s.ram := by
  unfold State.tapApply; dsimp only; (repeat' split) <;> simp (maxDischargeDepth := 40)
@[simp] theorem State.tapCheck_ram (s : State) (t : Nat) (e : BitVec 1024) :
    (State.tapCheck s t e).ram = s.ram := by
  simp (maxDischargeDepth := 40) [State.tapCheck]
@[simp] theorem State.tapTorn_ram (s : State) (t : Nat) :
    (State.tapTorn s t).ram = s.ram := by
  simp (maxDischargeDepth := 40) [State.tapTorn]
@[simp] theorem State.ringAdvance_ram (s : State) (t a idx : Nat) :
    (State.ringAdvance s t a idx).ram = s.ram := by
  simp (maxDischargeDepth := 40) [State.ringAdvance]
@[simp] theorem State.kindRefused_ram (s : State) (u k : Nat) :
    (State.kindRefused s u k).ram = s.ram := by
  simp (maxDischargeDepth := 40) [State.kindRefused]
@[simp] theorem State.stagePackage_ram (s : State) (u : Nat) (pkg : LayoutPackage) :
    (State.stagePackage s u pkg).ram = s.ram := by
  simp (maxDischargeDepth := 40) [State.stagePackage]
@[simp] theorem State.ringFails_ram (s : State) (u : Nat) :
    (State.ringFails s u).ram = s.ram := by
  simp (maxDischargeDepth := 40) [State.ringFails]
@[simp] theorem State.postOutput_ram (s : State) (u : Nat) :
    (State.postOutput s u).ram = s.ram := by
  unfold State.postOutput; split <;> simp (maxDischargeDepth := 40)
@[simp] theorem State.closedStatus_ram (s : State) (u : Nat) :
    (State.closedStatus s u).ram = s.ram := by
  unfold State.closedStatus; dsimp only; (repeat' split) <;> simp (maxDischargeDepth := 40)
@[simp] theorem State.windowWrite_ram (s : State) (off n : Nat) (w : BitVec 64) :
    (State.windowWrite s off n w).ram = s.ram := by
  simp (maxDischargeDepth := 40) [State.windowWrite]
@[simp] theorem stageRecord_ram (u : Nat) (cmdSeq : BitVec 32) (ok : Bool) (why : Nat) (f : Tun → Tun) (s : State) :
    (stageRecord u cmdSeq ok why f s).ram = s.ram := by
  simp (maxDischargeDepth := 40) [stageRecord]
@[simp] theorem State.countRebuilt_ram (s : State) (pg : Nat) (k : Nat → Nat) :
    (State.countRebuilt s pg k).ram = s.ram := by
  simp (maxDischargeDepth := 40) [State.countRebuilt, ram_foldl]
@[simp] theorem State.noteMem_ram (s : State) (n : Nat) (f : MemStat → MemStat) :
    (State.noteMem s n f).ram = s.ram := by
  simp (maxDischargeDepth := 40) [State.noteMem]
@[simp] theorem State.refetch_ram (s : State) (n u : Nat) (r : RowRepair) (fetch : Bool) :
    (State.refetch s n u r fetch).ram = s.ram := by
  simp (maxDischargeDepth := 40) [State.refetch]
@[simp] theorem Die.scrub_mem (d : Die) (lvl : Nat) :
    (Die.scrub d lvl).mem = d.mem := by
  unfold Die.scrub; split <;> simp (maxDischargeDepth := 40)
@[simp] theorem State.startColumns_ram (s : State) (c : FlashCopy) (f : StartFinds) (n : Nat) :
    (State.startColumns s c f n).ram = s.ram := by
  simp (maxDischargeDepth := 40) [State.startColumns]
@[simp] theorem State.startLink_ram (s : State) (c : FlashCopy) (f : StartFinds) (role : BitVec 64) (l dir : Nat) :
    (State.startLink s c f role l dir).ram = s.ram := by
  unfold State.startLink
  extract_lets known r n
  have h : r.1.ram = s.ram :=
    ram_foldl_fst _ _ _ fun r x => ram_foldl _ _ _ fun s x => State.logRepair_ram ..
  rw [State.setLinkDir_ram, h]
@[simp] theorem State.startShape_ram (s : State) (l dir : Nat) :
    (State.startShape s l dir).ram = s.ram := by
  simp (maxDischargeDepth := 40) [State.startShape]
@[simp] theorem State.startInterface_ram (s : State) (i : Nat) :
    (State.startInterface s i).ram = s.ram := by
  simp (maxDischargeDepth := 40) [State.startInterface]
@[simp] theorem State.startRow_ram (s : State) (known : List Nat) (r : Nat) :
    (State.startRow s known r).ram = s.ram := by
  simp (maxDischargeDepth := 40) [State.startRow]
@[simp] theorem State.startRows_ram (s : State) (c : FlashCopy) (f : StartFinds) :
    (State.startRows s c f).ram = s.ram := by
  simp (maxDischargeDepth := 40) [State.startRows, ram_foldl]
@[simp] theorem State.startDies_ram (s : State) (c : FlashCopy) (f : StartFinds) :
    (State.startDies s c f).ram = s.ram := by
  unfold State.startDies; dsimp only
  refine (ram_foldl _ _ _ fun s n => ?_).trans (by simp (maxDischargeDepth := 40))
  (repeat' split) <;> simp (maxDischargeDepth := 40)
@[simp] theorem State.startLevel_ram (s : State) :
    (State.startLevel s).ram = s.ram := by
  simp (maxDischargeDepth := 40) [State.startLevel]
@[simp] theorem State.extendMr_ram (s : State) (i : Nat) (d : Bytes) :
    (State.extendMr s i d).ram = s.ram := by
  simp (maxDischargeDepth := 40) [State.extendMr]
@[simp] theorem State.measureStart_ram (s : State) (c : FlashCopy) :
    (State.measureStart s c).ram = s.ram := by
  simp (maxDischargeDepth := 40) [State.measureStart, ram_foldl]
@[simp] theorem State.startNet_ram (s : State) (c : FlashCopy) (f : StartFinds) :
    (State.startNet s c f).ram = s.ram := by
  unfold State.startNet; dsimp only; (repeat' split) <;> simp (maxDischargeDepth := 40) [ram_foldl]
@[simp] theorem State.startFind_ram (s : State) (x : FlashCopy) (f : StartFinds) :
    (State.startFind s x f).ram = s.ram := by
  simp (maxDischargeDepth := 40) [State.startFind, ram_foldl]
@[simp] theorem State.startLoad_ram (s : State) (c : Bool) (x : FlashCopy) :
    (State.startLoad s c x).ram = s.ram := by
  simp (maxDischargeDepth := 40) [State.startLoad]
@[simp] theorem State.startEnd_ram (s : State) (c : Bool) :
    (State.startEnd s c).ram = s.ram := by
  simp (maxDischargeDepth := 40) [State.startEnd]
@[simp] theorem State.steep_ram (s : State) (cause : Nat) :
    (State.steep s cause).ram = s.ram := by
  simp (maxDischargeDepth := 40) +contextual [State.steep, ram_foldl, mem_foldl]
@[simp] theorem State.withS_ram (s : State) :
    (State.withS s).ram = s.ram := by
  simp (maxDischargeDepth := 40) [State.withS]
@[simp] theorem State.flashWrite_ram (s : State) (c : Bool) (x : FlashCopy) :
    (State.flashWrite s c x).ram = s.ram := by
  simp (maxDischargeDepth := 40) [State.flashWrite]
@[simp] theorem State.sawInput_ram (s : State) (mv : Nat) :
    (State.sawInput s mv).ram = s.ram := by
  simp (maxDischargeDepth := 40) [State.sawInput]
@[simp] theorem State.estop_ram (s : State) (cause : Nat) :
    (State.estop s cause).ram = s.ram := by
  simp (maxDischargeDepth := 40) [State.estop]
@[simp] theorem State.answer_ram (s : State) (bs : Bytes) :
    (State.answer s bs).ram = s.ram := by
  simp (maxDischargeDepth := 40) [State.answer]
@[simp] theorem State.spdmError_ram (s : State) :
    (State.spdmError s).ram = s.ram := by
  simp (maxDischargeDepth := 40) [State.spdmError]
@[simp] theorem State.setSession_ram (s : State) (i : Nat) (x : Session) :
    (State.setSession s i x).ram = s.ram := by
  simp (maxDischargeDepth := 40) [State.setSession]
@[simp] theorem State.openSession_ram (s : State) (i : Nat) (nonce : Bytes) :
    (State.openSession s i nonce).ram = s.ram := by
  simp (maxDischargeDepth := 40) [State.openSession]
@[simp] theorem State.takeSecret_ram (s : State) (u : Nat) (ts : Bytes) (imports : List Bytes) (sigOk : Bool) :
    (State.takeSecret s u ts imports sigOk).ram = s.ram := by
  simp (maxDischargeDepth := 40) [State.takeSecret]
@[simp] theorem State.withFetchWord_ram (s : State) (nbits w : Nat) :
    (State.withFetchWord s nbits w).ram = s.ram := by
  unfold State.withFetchWord; (repeat' split) <;> simp (maxDischargeDepth := 40) 
end Sys2Proof.Machine
end

