-- ==== Sys2Proof/Laws/Work.lean ====
section
/-! SUPPORT. The operations that leave the work of every die as it was: its two accumulator banks, its open tiles, the
operations of its vector units, its outstanding launches and its array counters. -/

namespace Sys2Proof.Machine

/-- The banks, tiles, vector operations, launches and array counters of a die. -/
def Die.work (d : Die) : Bank × Bank × List Tile × List VecJob × List VecJob × List MovJob × ArrStat :=
  (d.bank0, d.bank1, d.tiles, d.vec0, d.vec1, d.movs, d.arr)
/-- The work of the device, by die. -/
structure Works where
  of : Nat → Bank × Bank × List Tile × List VecJob × List VecJob × List MovJob × ArrStat
/-- The work of a table of dies. -/
def dieWorks (t : Tbl Die) : Works := ⟨fun n => (Tbl.get {} t n).work⟩
/-- The work of the device. -/
def State.works (s : State) : Works := dieWorks s.dies

@[simp] theorem State.works_apply (s : State) (n : Nat) : (s.die n).work = s.works.of n := id rfl
@[simp] theorem Die.work_mk (a b c d e f g h i j k l m n o p q r s t u v w x y z a1 a2 a3 a4) :
    Die.work (Die.mk a b c d e f g h i j k l m n o p q r s t u v w x y z a1 a2 a3 a4) = (e, f, g, i, j, k, n) := id rfl
@[simp] theorem Die.work_fold (d : Die) : (d.bank0, d.bank1, d.tiles, d.vec0, d.vec1, d.movs, d.arr) = d.work := id rfl
@[simp] theorem State.works_mk (a b c d e f g h i j k l m n o) :
    State.works (State.mk a b c d e f g h i j k l m n o) = dieWorks d := id rfl
@[simp] theorem State.works_dies (s : State) : dieWorks s.dies = s.works := id rfl

theorem works_foldl {α : Type} (f : State → α → State) (l : List α) (s : State)
    (h : ∀ s x, (f s x).works = s.works) : (l.foldl f s).works = s.works := by
  induction l generalizing s with
  | nil => rfl
  | cons x l ih => rw [List.foldl_cons, ih, h]
theorem work_foldl {α : Type} (f : Die → α → Die) (l : List α) (d : Die)
    (h : ∀ d x, (f d x).work = d.work) : (l.foldl f d).work = d.work := by
  induction l generalizing d with
  | nil => rfl
  | cons x l ih => rw [List.foldl_cons, ih, h]
@[simp] theorem State.setDie_works (s : State) (n : Nat) (d : Die) (h : d.work = s.works.of n) : (s.setDie n d).works = s.works := by
  refine congrArg Works.mk (funext fun m => ?_)
  by_cases hm : m = n
  · subst hm
    exact (congrArg Die.work (Tbl.get_put_same ({} : Die) s.dies m d)).trans h
  · exact congrArg Die.work (Tbl.get_put_other ({} : Die) s.dies d hm)
@[simp] theorem works_ite (c : Prop) [Decidable c] (a b s : State) :
    (if c then a else b).works = s.works ↔ (c → a.works = s.works) ∧ (¬c → b.works = s.works) := by split <;> simp [*]
@[simp] theorem work_ite (c : Prop) [Decidable c] (a b d : Die) :
    (if c then a else b).work = d.work ↔ (c → a.work = d.work) ∧ (¬c → b.work = d.work) := by split <;> simp [*]
/-- The same over a pair whose state part keeps them. -/
theorem works_foldl_fst {α β : Type} (f : State × β → α → State × β) (l : List α) (r : State × β)
    (h : ∀ r x, (f r x).1.works = r.1.works) : (l.foldl f r).1.works = r.1.works := by
  induction l generalizing r with
  | nil => rfl
  | cons x l ih => rw [List.foldl_cons, ih, h]
/-- Either branch of a choice. -/
theorem works_choice {c : Prop} [Decidable c] {a b s : State} (ha : a.works = s.works) (hb : b.works = s.works) :
    (if c then a else b).works = s.works := by
  split <;> assumption
@[simp] theorem Die.wakeAll_work (d : Die) (ks : List Nat) :
    (Die.wakeAll d ks).work = d.work := by
  simp (maxDischargeDepth := 40) [Die.wakeAll]
@[simp] theorem Die.hints_work (d : Die) (kept : List Nat) (s : Slice) :
    (Die.hints d kept s).work = d.work := by
  unfold Die.hints; dsimp only; rw [work_foldl _ _ _ (fun s x => by (repeat' split) <;> simp (maxDischargeDepth := 40))] <;> simp (maxDischargeDepth := 40)
@[simp] theorem Die.gateAtSeal_work (d : Die) (kept : List Nat) :
    (Die.gateAtSeal d kept).work = d.work := by
  simp (maxDischargeDepth := 40) [Die.gateAtSeal]
@[simp] theorem Die.setCtx_work (d : Die) (u : Nat) (c : Ctx) :
    (Die.setCtx d u c).work = d.work := by
  simp (maxDischargeDepth := 40) [Die.setCtx]
@[simp] theorem Die.upTo_work (d : Die) (c : Nat) :
    (Die.upTo d c).work = d.work := by
  simp (maxDischargeDepth := 40) [Die.upTo]
@[simp] theorem Die.stat_work (d : Die) (u : Nat) (slot : Option Nat) (f : StatSlot → StatSlot) :
    (Die.stat d u slot f).work = d.work := by
  unfold Die.stat; split <;> simp (maxDischargeDepth := 40)
@[simp] theorem Die.gateSpares_work (d : Die) :
    (Die.gateSpares d).work = d.work := by
  simp (maxDischargeDepth := 40) [Die.gateSpares]
@[simp] theorem State.setTun_works (s : State) (u : Nat) (t : Tun) :
    (State.setTun s u t).works = s.works := by
  simp (maxDischargeDepth := 40) [State.setTun]
@[simp] theorem State.setCtx_works (s : State) (n u : Nat) (c : Ctx) :
    (State.setCtx s n u c).works = s.works := by
  simp (maxDischargeDepth := 40) [State.setCtx]
@[simp] theorem State.setMac_works (s : State) (m : Nat) (x : Mac) :
    (State.setMac s m x).works = s.works := by
  simp (maxDischargeDepth := 40) [State.setMac]
@[simp] theorem State.setLinkDir_works (s : State) (l dir : Nat) (x : LinkDir) :
    (State.setLinkDir s l dir x).works = s.works := by
  simp (maxDischargeDepth := 40) [State.setLinkDir]
@[simp] theorem State.setFound_works (s : State) (n : Nat) (x : Found) :
    (State.setFound s n x).works = s.works := by
  simp (maxDischargeDepth := 40) [State.setFound]
@[simp] theorem State.setLay_works (s : State) (u : Nat) (l : Option (BitVec 1024)) :
    (State.setLay s u l).works = s.works := by
  simp (maxDischargeDepth := 40) [State.setLay]
@[simp] theorem State.draw_works (s : State) :
    (State.draw s).works = s.works := by
  simp (maxDischargeDepth := 40) [State.draw]
@[simp] theorem State.random_works (s : State) :
    (State.random s).2.works = s.works := by
  simp (maxDischargeDepth := 40) [State.random]
@[simp] theorem State.setEvents_works (s : State) (u : Nat) (r : Ring) :
    (State.setEvents s u r).works = s.works := by
  simp (maxDischargeDepth := 40) [State.setEvents]
@[simp] theorem State.eventBytes_works (s : State) (u code : Nat) (args : Bytes) :
    (State.eventBytes s u code args).works = s.works := by
  simp (maxDischargeDepth := 40) [State.eventBytes]
@[simp] theorem State.eventsBack_works (s : State) (u : Nat) :
    (State.eventsBack s u).works = s.works := by
  simp (maxDischargeDepth := 40) [State.eventsBack]
@[simp] theorem State.event_works (s : State) (u code : Nat) (args : List Nat) :
    (State.event s u code args).works = s.works := by
  simp (maxDischargeDepth := 40) [State.event]
@[simp] theorem State.setDeviceEvents_works (s : State) (r : Ring) :
    (State.setDeviceEvents s r).works = s.works := by
  simp (maxDischargeDepth := 40) [State.setDeviceEvents]
@[simp] theorem State.deviceEventBytes_works (s : State) (code : Nat) (args : Bytes) :
    (State.deviceEventBytes s code args).works = s.works := by
  simp (maxDischargeDepth := 40) [State.deviceEventBytes]
@[simp] theorem State.deviceEventsBack_works (s : State) :
    (State.deviceEventsBack s).works = s.works := by
  simp (maxDischargeDepth := 40) [State.deviceEventsBack]
@[simp] theorem State.deviceEvent_works (s : State) (code : Nat) (args : List Nat) :
    (State.deviceEvent s code args).works = s.works := by
  simp (maxDischargeDepth := 40) [State.deviceEvent]
@[simp] theorem State.commandDone_works (s : State) (u : Nat) (cmdSeq : BitVec 32) (status : Nat) :
    (State.commandDone s u cmdSeq status).works = s.works := by
  simp (maxDischargeDepth := 40) [State.commandDone]
@[simp] theorem State.spoil_works (s : State) (n u : Nat) :
    (State.spoil s n u).works = s.works := by
  simp (maxDischargeDepth := 40) [State.spoil]
@[simp] theorem State.spoilAll_works (s : State) (u : Nat) :
    (State.spoilAll s u).works = s.works := by
  simp (maxDischargeDepth := 40) [State.spoilAll, works_foldl]
@[simp] theorem State.stopTun_works (s : State) (u : Nat) :
    (State.stopTun s u).works = s.works := by
  simp (maxDischargeDepth := 40) [State.stopTun, works_foldl]
@[simp] theorem State.stopAll_works (s : State) :
    (State.stopAll s).works = s.works := by
  simp (maxDischargeDepth := 40) [State.stopAll, works_foldl]
@[simp] theorem State.stopAllNow_works (s : State) :
    (State.stopAllNow s).works = s.works := by
  simp (maxDischargeDepth := 40) [State.stopAllNow]
@[simp] theorem State.programFault_works (s : State) (n u : Nat) (f : ProgFault) :
    (State.programFault s n u f).works = s.works := by
  simp (maxDischargeDepth := 40) [State.programFault]
@[simp] theorem State.countFault_works (s : State) (cls die unit intNs : Nat) :
    (State.countFault s cls die unit intNs).works = s.works := by
  simp (maxDischargeDepth := 40) [State.countFault]
@[simp] theorem State.fault_works (s : State) (cls die unit intNs : Nat) :
    (State.fault s cls die unit intNs).works = s.works := by
  unfold State.fault; dsimp only; (repeat' split) <;> simp (maxDischargeDepth := 40)
@[simp] theorem State.stopOnDie_works (s : State) (n : Nat) :
    (State.stopOnDie s n).works = s.works := by
  simp (maxDischargeDepth := 40) [State.stopOnDie, works_foldl]
@[simp] theorem State.completeToken_works (s : State) (n u tok : Nat) (remote : Bool) :
    (State.completeToken s n u tok remote).works = s.works := by
  unfold State.completeToken; dsimp only; (repeat' split) <;> simp (maxDischargeDepth := 40)
@[simp] theorem State.putOut_works (s : State) (n : Nat) (r : DieOut) (h : r.1.work = s.works.of n) :
    (s.putOut n r).works = s.works := by
  unfold State.putOut
  split <;> simp [h]
@[simp] theorem State.owe_works (s : State) (n u win writer : Nat) :
    (State.owe s n u win writer).works = s.works := by
  simp (maxDischargeDepth := 40) [State.owe]
@[simp] theorem State.writeLocal_works (s : State) (n : Nat) (ws : List (Nat × Bytes)) :
    (State.writeLocal s n ws).works = s.works := by
  simp (maxDischargeDepth := 40) [State.writeLocal]
@[simp] theorem State.setGroup_works (s : State) (pg : Nat) (g : ParityGroup) :
    (State.setGroup s pg g).works = s.works := by
  simp (maxDischargeDepth := 40) [State.setGroup]
@[simp] theorem State.openStripe_works (s : State) (l : Loc) :
    (State.openStripe s l).works = s.works := by
  simp (maxDischargeDepth := 40) [State.openStripe]
@[simp] theorem State.cellarWrite_works (s : State) (u n off : Nat) (bs : Bytes) :
    (State.cellarWrite s u n off bs).works = s.works := by
  unfold State.cellarWrite
  extract_lets key whole s1 s2 a b
  have h1 : s1.works = s.works := works_foldl _ _ _ fun s o => by split <;> rfl
  have h2 : s2.works = s1.works := works_foldl _ _ _ fun s p => by split <;> rfl
  rw [works_foldl _ _ _ fun s i => by (repeat' split) <;> simp, h2, h1]
@[simp] theorem State.fillStripes_works (s : State) (u : Nat) :
    (State.fillStripes s u).works = s.works := by
  simp (maxDischargeDepth := 40) [State.fillStripes, works_foldl]
@[simp] theorem State.holdWrite_works (s : State) (n u : Nat) (ls : List Loc) :
    (State.holdWrite s n u ls).works = s.works := by
  simp (maxDischargeDepth := 40) [State.holdWrite, works_foldl]
@[simp] theorem State.retryWrites_works (s : State) :
    (State.retryWrites s).works = s.works := by
  simp (maxDischargeDepth := 40) +contextual [State.retryWrites, works_foldl, work_foldl]
@[simp] theorem State.remoteWrite_works (s : State) (m u n off : Nat) (bs : Bytes) :
    (State.remoteWrite s m u n off bs).works = s.works := by
  simp (maxDischargeDepth := 40) [State.remoteWrite]
@[simp] theorem State.heldReads_works (s : State) (m u n off len : Nat) :
    (State.heldReads s m u n off len).works = s.works := by
  simp (maxDischargeDepth := 40) [State.heldReads]
@[simp] theorem State.noteReads_works (s : State) (u n off len : Nat) :
    (State.noteReads s u n off len).works = s.works := by
  simp (maxDischargeDepth := 40) [State.noteReads]
@[simp] theorem State.fillTunRings_works (s : State) (u : Nat) :
    (State.fillTunRings s u).works = s.works := by
  simp (maxDischargeDepth := 40) [State.fillTunRings]
@[simp] theorem State.handOver_works (s : State) (n u : Nat) (x : RackSeg) :
    (State.handOver s n u x).works = s.works := by
  simp (maxDischargeDepth := 40) [State.handOver]
@[simp] theorem State.hubRack_works (s : State) (u : Nat) (x : RackSeg) :
    (State.hubRack s u x).works = s.works := by
  simp (maxDischargeDepth := 40) [State.hubRack]
@[simp] theorem State.takeBuffered_works (s : State) (n u : Nat) :
    (State.takeBuffered s n u).works = s.works := by
  simp (maxDischargeDepth := 40) [State.takeBuffered]
@[simp] theorem State.setCoder_works (s : State) (n u : Nat) (k : Coder) :
    (State.setCoder s n u k).works = s.works := by
  simp (maxDischargeDepth := 40) [State.setCoder]
@[simp] theorem State.sendRack_works (s : State) (n u : Nat) (f : RkFields) (plain : Bytes) :
    (State.sendRack s n u f plain).works = s.works := by
  simp (maxDischargeDepth := 40) [State.sendRack]
@[simp] theorem State.closeCoder_works (s : State) (n u : Nat) :
    (State.closeCoder s n u).works = s.works := by
  simp (maxDischargeDepth := 40) [State.closeCoder]
@[simp] theorem State.codeBlock_works (s : State) (n u entry first : Nat) (xor : Bytes) (last : Bool) :
    (State.codeBlock s n u entry first xor last).works = s.works := by
  simp (maxDischargeDepth := 40) [State.codeBlock]
@[simp] theorem State.codeUnchanged_works (s : State) (n u entry first k blocks : Nat) :
    (s.codeUnchanged n u entry first k blocks).works = s.works := by
  induction k generalizing s first blocks with
  | zero => rfl
  | succ k ih => cases blocks <;> simp [State.codeUnchanged, ih]
@[simp] theorem State.ackOne_works (s : State) (u : Nat) (x : RackSeg) :
    (State.ackOne s u x).works = s.works := by
  simp (maxDischargeDepth := 40) [State.ackOne]
@[simp] theorem State.abandonRack_works (s : State) (u : Nat) :
    (State.abandonRack s u).works = s.works := by
  simp (maxDischargeDepth := 40) [State.abandonRack, works_foldl]
@[simp] theorem State.sendHistory_works (s : State) (u : Nat) :
    (State.sendHistory s u).works = s.works := by
  simp (maxDischargeDepth := 40) [State.sendHistory, works_foldl]
@[simp] theorem State.setUpd_works (s : State) (n u : Nat) (x : UpdCtx) :
    (State.setUpd s n u x).works = s.works := by
  simp (maxDischargeDepth := 40) [State.setUpd]
@[simp] theorem State.lateRead_works (s : State) (n u entry b : Nat) (payload : CaskPiece → Bytes) :
    (State.lateRead s n u entry b payload).works = s.works := by
  simp (maxDischargeDepth := 40) [State.lateRead]
@[simp] theorem State.lateSlot_works (s : State) (n u entry : Nat) (payload : CaskPiece → Bytes) :
    (State.lateSlot s n u entry payload).works = s.works := by
  simp (maxDischargeDepth := 40) [State.lateSlot]
@[simp] theorem State.noteBlock_works (s : State) (n u : Nat) (e : BitVec 512) (b : Nat) :
    (State.noteBlock s n u e b).works = s.works := by
  simp (maxDischargeDepth := 40) +contextual [State.noteBlock, works_foldl, work_foldl]
@[simp] theorem State.updateBlock_works (s : State) (n u entry b : Nat) (gs : List Word32) (last : Bool) :
    (State.updateBlock s n u entry b gs last).works = s.works := by
  unfold State.updateBlock; dsimp only
  rw [State.codeBlock_works]
  split <;> split <;> simp (maxDischargeDepth := 40)
@[simp] theorem State.blockAcked_works (s : State) (n u entry b : Nat) :
    (State.blockAcked s n u entry b).works = s.works := by
  unfold State.blockAcked; dsimp only; (repeat' split) <;> simp (maxDischargeDepth := 40)
@[simp] theorem State.forwardGranary_works (s : State) (n u entry : Nat) (e : BitVec 512) (g : GradSegment) (blocks : List Nat) :
    (State.forwardGranary s n u entry e g blocks).works = s.works := by
  simp (maxDischargeDepth := 40) [State.forwardGranary]
@[simp] theorem State.forwardDone_works (s : State) (n u : Nat) :
    (State.forwardDone s n u).works = s.works := by
  unfold State.forwardDone; dsimp only; (repeat' split) <;> simp (maxDischargeDepth := 40)
@[simp] theorem State.noteSegWait_works (s : State) (n u why : Nat) :
    (State.noteSegWait s n u why).works = s.works := by
  simp (maxDischargeDepth := 40) [State.noteSegWait]
@[simp] theorem State.applyBlocks_works (s : State) (n u : Nat) (g : GradSegment) (p : Nat × BitVec 512) (bs : List Nat) :
    (s.applyBlocks n u g p bs).1.works = s.works := by
  induction bs generalizing s with
  | nil => rfl
  | cons b bs ih => unfold State.applyBlocks; (repeat' split) <;> simp [ih]
@[simp] theorem State.applyEntry_works (s : State) (n u : Nat) (g : GradSegment) (p : Nat × BitVec 512) :
    (State.applyEntry s n u g p).1.works = s.works := by
  unfold State.applyEntry
  extract_lets e x bs keys k st s1
  have h1 : s1.works = s.works := State.setUpd_works ..
  (repeat' split) <;> simp [h1]
@[simp] theorem State.applyEntries_works (s : State) (n u : Nat) (g : GradSegment) (ps : List (Nat × BitVec 512)) :
    (s.applyEntries n u g ps).1.works = s.works := by
  induction ps generalizing s with
  | nil => rfl
  | cons p ps ih =>
    have k := State.applyEntry_works s n u g p
    unfold State.applyEntries
    split <;> rename_i heq <;> rw [heq] at k
    · exact k
    · exact (ih _).trans k
@[simp] theorem State.discardSegment_works (s : State) (n u : Nat) (g : GradSegment) (ps : List (Nat × BitVec 512)) :
    (State.discardSegment s n u g ps).works = s.works := by
  simp (maxDischargeDepth := 40) [State.discardSegment]
@[simp] theorem State.contradicted_works (s : State) (n u : Nat) (g : GradSegment) (ps : List (Nat × BitVec 512)) :
    (State.contradicted s n u g ps).works = s.works := by
  simp (maxDischargeDepth := 40) [State.contradicted]
@[simp] theorem State.takeSegment_works (s : State) (n u due : Nat) (g : GradSegment) :
    (State.takeSegment s n u due g).1.works = s.works := by
  unfold State.takeSegment
  extract_lets x ps seen given r y0 y1 emb y2 s1
  have hr : r.1.works = s.works := by unfold r; split <;> simp
  have h1 : s1.works = s.works := (State.setUpd_works ..).trans hr
  clear_value s1 r
  (repeat' split) <;> simp [hr, h1]
@[simp] theorem State.foldSketch.factorSegments_works (s : State) (n u tensor : Nat) (bs : Bytes) (first k : Nat) :
    (State.foldSketch.factorSegments s n u tensor bs first k).works = s.works := by
  induction k generalizing s bs first with
  | zero => rfl
  | succ k ih => unfold State.foldSketch.factorSegments; split <;> simp [ih]
@[simp] theorem State.foldSketch_works (s : State) (n u entry : Nat) (sums : List Word32 × Word32) :
    (State.foldSketch s n u entry sums).works = s.works := by
  unfold State.foldSketch
  dsimp only
  rw [State.foldSketch.factorSegments_works]
  split <;> simp (maxDischargeDepth := 40)
@[simp] theorem State.freezeEntry_works (s : State) (n u g entry : Nat) :
    (State.freezeEntry s n u g entry).works = s.works := by
  simp (maxDischargeDepth := 40) [State.freezeEntry, works_foldl]
@[simp] theorem State.freezeCopies_works (s : State) (n u : Nat) :
    (State.freezeCopies s n u).works = s.works := by
  unfold State.freezeCopies
  extract_lets g r
  have h : r.1.works = s.works := works_foldl_fst _ _ _ fun r entry => by dsimp only; (repeat' split) <;> simp
  clear_value r
  simp [h]
@[simp] theorem State.rackFrozen_works (s : State) (n u : Nat) :
    (State.rackFrozen s n u).works = s.works := by
  simp (maxDischargeDepth := 40) [State.rackFrozen, works_foldl]
@[simp] theorem State.stepClosed_works (s : State) (n u : Nat) (nonfinite : Bool) :
    (State.stepClosed s n u nonfinite).works = s.works := by
  simp (maxDischargeDepth := 40) [State.stepClosed]
@[simp] theorem State.giveVote_works (s : State) (u : Nat) :
    (State.giveVote s u).works = s.works := by
  simp (maxDischargeDepth := 40) [State.giveVote, works_foldl]
@[simp] theorem State.takeGravity_works (s : State) (u : Nat) (v : VoteData) :
    (State.takeGravity s u v).works = s.works := by
  simp (maxDischargeDepth := 40) [State.takeGravity]
@[simp] theorem State.voteSpoiled_works (s : State) (u : Nat) (nf : Bool) :
    (State.voteSpoiled s u nf).works = s.works := by
  simp (maxDischargeDepth := 40) [State.voteSpoiled]
@[simp] theorem State.startLag_works (s : State) (u : Nat) :
    (State.startLag s u).works = s.works := by
  simp (maxDischargeDepth := 40) [State.startLag]
@[simp] theorem State.voteDelivered_works (s : State) (u : Nat) (v : VoteData) :
    (State.voteDelivered s u v).works = s.works := by
  simp (maxDischargeDepth := 40) [State.voteDelivered]
@[simp] theorem State.silentEvents_works (s : State) (u step : Nat) :
    (State.silentEvents s u step).works = s.works := by
  simp (maxDischargeDepth := 40) [State.silentEvents, works_foldl]
@[simp] theorem State.planCasks_works (s : State) (u attempt : Nat) :
    (State.planCasks s u attempt).works = s.works := by
  simp (maxDischargeDepth := 40) [State.planCasks]
@[simp] theorem State.sendLayout_works (s : State) (u : Nat) (shards : List (BitVec 256)) :
    (State.sendLayout s u shards).works = s.works := by
  simp (maxDischargeDepth := 40) [State.sendLayout, works_foldl]
@[simp] theorem State.noteSlots_works (s : State) (n u : Nat) :
    (State.noteSlots s n u).works = s.works := by
  simp (maxDischargeDepth := 40) +contextual [State.noteSlots, works_foldl, work_foldl]
@[simp] theorem Die.freshStream_work (d : Die) (u : Nat) :
    (Die.freshStream d u).work = d.work := by
  simp (maxDischargeDepth := 40) [Die.freshStream]
@[simp] theorem State.keepPieces_works (s : State) (u : Nat) :
    (State.keepPieces s u).works = s.works := by
  simp (maxDischargeDepth := 40) [State.keepPieces]
@[simp] theorem State.watchBung_works (s : State) (u step : Nat) :
    (State.watchBung s u step).works = s.works := by
  simp (maxDischargeDepth := 40) [State.watchBung, works_foldl]
@[simp] theorem State.endRacking_works (s : State) (u : Nat) (hist : Bool) :
    (State.endRacking s u hist).works = s.works := by
  simp (maxDischargeDepth := 40) [State.endRacking, works_foldl]
@[simp] theorem State.digestStep_works (s : State) (u step : Nat) (on : Bool) :
    (State.digestStep s u step on).works = s.works := by
  simp (maxDischargeDepth := 40) [State.digestStep]
@[simp] theorem State.outcomeClean_works (s : State) (n u : Nat) :
    (State.outcomeClean s n u).works = s.works := by
  simp (maxDischargeDepth := 40) [State.outcomeClean]
@[simp] theorem State.putRecords_works (s : State) (u n : Nat) (ws : List PermWrite) :
    (State.putRecords s u n ws).works = s.works := by
  simp (maxDischargeDepth := 40) [State.putRecords, works_foldl]
@[simp] theorem State.reloadFactors_works (s : State) (n u : Nat) :
    (State.reloadFactors s n u).works = s.works := by
  simp (maxDischargeDepth := 40) [State.reloadFactors]
@[simp] theorem State.compareDigests_works (s : State) (u : Nat) :
    (State.compareDigests s u).works = s.works := by
  simp (maxDischargeDepth := 40) +contextual [State.compareDigests, works_foldl, work_foldl]
@[simp] theorem State.setDebt_works (s : State) (n u x : Nat) :
    (State.setDebt s n u x).works = s.works := by
  simp (maxDischargeDepth := 40) [State.setDebt]
@[simp] theorem State.setSlice_works (s : State) (n : Nat) (x : SliceState) :
    (State.setSlice s n x).works = s.works := by
  simp (maxDischargeDepth := 40) [State.setSlice]
@[simp] theorem State.idleDie_works (s : State) (n i nominal : Nat) :
    (State.idleDie s n i nominal).works = s.works := by
  simp (maxDischargeDepth := 40) [State.idleDie]
@[simp] theorem State.logRepair_works (s : State) (type : Nat) (body : BitVec 192) :
    (State.logRepair s type body).works = s.works := by
  simp (maxDischargeDepth := 40) [State.logRepair]
@[simp] theorem State.queueRow_works (s : State) (n : Nat) (r : RowRepair) :
    (State.queueRow s n r).works = s.works := by
  simp (maxDischargeDepth := 40) [State.queueRow]
@[simp] theorem State.copyRows_works (s : State) (n u : Nat) :
    (State.copyRows s n u).works = s.works := by
  simp (maxDischargeDepth := 40) [State.copyRows, works_foldl]
@[simp] theorem State.noteUe_works (s : State) (u key : Nat) :
    (State.noteUe s u key).1.works = s.works := by
  simp (maxDischargeDepth := 40) [State.noteUe]
@[simp] theorem State.retile_works (s : State) (n : Nat) (j : MovJob) :
    (State.retile s n j).works = s.works := by
  simp (maxDischargeDepth := 40) [State.retile]
@[simp] theorem State.copyLines_works (s : State) (n : Nat) (j : MovJob) :
    (State.copyLines s n j).works = s.works := by
  unfold State.copyLines; dsimp only; (repeat' split) <;> simp (maxDischargeDepth := 40) [works_foldl]
@[simp] theorem State.noteSource_works (s : State) (n : Nat) (j : MovJob) :
    (State.noteSource s n j).works = s.works := by
  simp (maxDischargeDepth := 40) [State.noteSource, works_foldl]
@[simp] theorem State.movTokens_works (s : State) (n : Nat) (j : MovJob) :
    (State.movTokens s n j).works = s.works := by
  unfold State.movTokens; dsimp only; (repeat' split) <;> simp (maxDischargeDepth := 40)
@[simp] theorem State.hostFails_works (s : State) (n u place unit : Nat) :
    (State.hostFails s n u place unit).works = s.works := by
  simp (maxDischargeDepth := 40) [State.hostFails]
@[simp] theorem State.forwardReturn_works (s : State) (n u : Nat) :
    (State.forwardReturn s n u).works = s.works := by
  unfold State.forwardReturn; dsimp only
  split
  · rfl
  · split <;> simp (maxDischargeDepth := 40)
@[simp] theorem State.noteHeldPages_works (s : State) (u : Nat) :
    (State.noteHeldPages s u).works = s.works := by
  simp (maxDischargeDepth := 40) [State.noteHeldPages]
@[simp] theorem State.contribute_works (s : State) (n u c : Nat) (xs : List (Nat × Nat)) :
    (State.contribute s n u c xs).1.works = s.works := by
  unfold State.contribute; dsimp only; (repeat' split) <;> simp (maxDischargeDepth := 40)
@[simp] theorem State.flushSketch_works (s : State) (n u b : Nat) :
    (State.flushSketch s n u b).works = s.works := by
  unfold State.flushSketch
  cases (s.tun u).sketchColl b with
  | none => rfl
  | some p =>
    exact works_foldl _ _ _ fun s r => works_foldl _ _ _ fun s p => by
      dsimp only; (repeat' split) <;> simp
@[simp] theorem State.moveOut_works (s : State) (u c first : Nat) (codes scales : List Nat) (bs : Nat) :
    (State.moveOut s u c first codes scales bs).works = s.works := by
  simp (maxDischargeDepth := 40) [State.moveOut]
@[simp] theorem State.regenerate_works (s : State) (n u entry base first count : Nat) :
    (State.regenerate s n u entry base first count).1.works = s.works := by
  simp (maxDischargeDepth := 40) [State.regenerate]
@[simp] theorem State.pieceTaken_works (s : State) (n u : Nat) (j : MovJob) (start k : Nat) :
    (State.pieceTaken s n u j start k).1.works = s.works := by
  unfold State.pieceTaken; dsimp only; (repeat' split) <;> simp (maxDischargeDepth := 40)
@[simp] theorem State.releaseBucket_works (s : State) (u b : Nat) :
    (State.releaseBucket s u b).works = s.works := by
  simp (maxDischargeDepth := 40) [State.releaseBucket]
@[simp] theorem State.bucketMarker_works (s : State) (u b : Nat) :
    (State.bucketMarker s u b).works = s.works := by
  simp (maxDischargeDepth := 40) [State.bucketMarker]
@[simp] theorem State.bucketClosed_works (s : State) (n u b : Nat) :
    (State.bucketClosed s n u b).works = s.works := by
  simp (maxDischargeDepth := 40) [State.bucketClosed]
@[simp] theorem State.deliverSeg_works (s : State) (u : Nat) (r : BitVec 128) (e : BitVec 256) (x : Seg) :
    (State.deliverSeg s u r e x).works = s.works := by
  simp (maxDischargeDepth := 40) [State.deliverSeg]
@[simp] theorem State.deliver_works (s : State) (u rec : Nat) :
    (State.deliver s u rec).works = s.works := by
  unfold State.deliver; dsimp only; (repeat' split) <;> simp (maxDischargeDepth := 40) [works_foldl]
@[simp] theorem State.segmentIn_works (s : State) (u c src round first : Nat) (codes scales rows : List Nat) (nf last : Bool) (bs : Nat) :
    (State.segmentIn s u c src round first codes scales rows nf last bs).works = s.works := by
  unfold State.segmentIn; dsimp only; (repeat' split) <;> simp (maxDischargeDepth := 40)
@[simp] theorem State.noteStall_works (s : State) (n u : Nat) (sl : Slice) (w : Wait) :
    (State.noteStall s n u sl w).works = s.works := by
  simp (maxDischargeDepth := 40) [State.noteStall]
@[simp] theorem State.waitCycle_works (s : State) (n u : Nat) (w : Wait) :
    (State.waitCycle s n u w).works = s.works := by
  simp (maxDischargeDepth := 40) [State.waitCycle]
@[simp] theorem State.logArray_works (s : State) (n : Nat) :
    (State.logArray s n).works = s.works := by
  simp (maxDischargeDepth := 40) [State.logArray]
@[simp] theorem State.suspend_works (s : State) (n : Nat) :
    (State.suspend s n).works = s.works := by
  simp (maxDischargeDepth := 40) [State.suspend]
@[simp] theorem State.suspendDies_works (s : State) (us : List Nat) :
    (State.suspendDies s us).works = s.works := by
  simp (maxDischargeDepth := 40) +contextual [State.suspendDies, works_foldl, work_foldl]
@[simp] theorem State.idleGates_works (s : State) (n cycles : Nat) (kind : GateReq) :
    (State.idleGates s n cycles kind).works = s.works := by
  unfold State.idleGates; dsimp only; (repeat' split) <;> simp (maxDischargeDepth := 40)
@[simp] theorem State.ackRing_works (s : State) (u k idx : Nat) :
    (State.ackRing s u k idx).works = s.works := by
  simp (maxDischargeDepth := 40) [State.ackRing, works_foldl]
@[simp] theorem State.sendCommit_works (s : State) (u : Nat) :
    (State.sendCommit s u).works = s.works := by
  unfold State.sendCommit; dsimp only; (repeat' split) <;> simp (maxDischargeDepth := 40)
@[simp] theorem State.putSlot_works (s : State) (u : Nat) (x : RackSeg) :
    (State.putSlot s u x).works = s.works := by
  simp (maxDischargeDepth := 40) [State.putSlot]
@[simp] theorem State.commitPiece_works (s : State) (u : Nat) (p : CaskPiece) :
    (State.commitPiece s u p).works = s.works := by
  simp (maxDischargeDepth := 40) [State.commitPiece]
@[simp] theorem State.endEvaluation_works (s : State) (u : Nat) (c : EvalCask) :
    (State.endEvaluation s u c).works = s.works := by
  simp (maxDischargeDepth := 40) [State.endEvaluation]
@[simp] theorem State.sendChunk_works (s : State) (u : Nat) (p : CaskPiece) :
    (State.sendChunk s u p).works = s.works := by
  simp (maxDischargeDepth := 40) [State.sendChunk]
@[simp] theorem State.evalLocal_works (s : State) (u : Nat) :
    (State.evalLocal s u).works = s.works := by
  unfold State.evalLocal
  split
  · rfl
  · exact works_foldl _ _ _ fun s x => by simp
@[simp] theorem State.caskRead_works (s : State) (n u : Nat) :
    (State.caskRead s n u).works = s.works := by
  unfold State.caskRead; dsimp only; (repeat' split) <;> simp (maxDischargeDepth := 40)
@[simp] theorem State.measure_works (s : State) (i : Nat) (bs : Bytes) :
    (State.measure s i bs).works = s.works := by
  simp (maxDischargeDepth := 40) [State.measure]
@[simp] theorem State.sigFailed_works (s : State) :
    (State.sigFailed s).works = s.works := by
  simp (maxDischargeDepth := 40) [State.sigFailed]
@[simp] theorem State.tampered_works (s : State) :
    (State.tampered s).works = s.works := by
  simp (maxDischargeDepth := 40) [State.tampered, works_foldl]
@[simp] theorem State.expose_works (s : State) (pg : Nat) :
    (State.expose s pg).works = s.works := by
  simp (maxDischargeDepth := 40) [State.expose, works_foldl]
@[simp] theorem State.groupLost_works (s : State) (pg die unit : Nat) :
    (State.groupLost s pg die unit).works = s.works := by
  simp (maxDischargeDepth := 40) [State.groupLost, works_foldl]
@[simp] theorem Die.fenceAll_work (d : Die) (dark : Bool) :
    (Die.fenceAll d dark).work = d.work := by
  simp (maxDischargeDepth := 40) [Die.fenceAll]
@[simp] theorem State.linkOff_works (s : State) (l : Nat) :
    (State.linkOff s l).works = s.works := by
  simp (maxDischargeDepth := 40) [State.linkOff, works_foldl]
@[simp] theorem State.darkGroup_works (s : State) (n : Nat) :
    (State.darkGroup s n).works = s.works := by
  unfold State.darkGroup; split <;> simp (maxDischargeDepth := 40)
@[simp] theorem State.loseDie_works (s : State) (n cause : Nat) (dark : Bool) :
    (State.loseDie s n cause dark).works = s.works := by
  simp (maxDischargeDepth := 40) [State.loseDie]
@[simp] theorem State.commitStops_works (s : State) (unit : Nat) :
    (State.commitStops s unit).works = s.works := by
  simp (maxDischargeDepth := 40) [State.commitStops]
@[simp] theorem State.commitLost_works (s : State) (unit : Nat) :
    (State.commitLost s unit).works = s.works := by
  unfold State.commitLost; split
  · rfl
  · simp (maxDischargeDepth := 40)
@[simp] theorem State.absorbed_works (s : State) (cls die unit : Nat) :
    (State.absorbed s cls die unit).works = s.works := by
  simp (maxDischargeDepth := 40) [State.absorbed]
@[simp] theorem State.handle_works (s : State) (cls die unit : Nat) (u : Option Nat) :
    (State.handle s cls die unit u).works = s.works := by
  unfold State.handle; dsimp only; (repeat' split) <;> simp (maxDischargeDepth := 40) [works_foldl]
@[simp] theorem State.handleHeld_works (s : State) (r : HeldReport) :
    (State.handleHeld s r).works = s.works := by
  unfold State.handleHeld; split <;> simp (maxDischargeDepth := 40)
@[simp] theorem State.report_works (s : State) (owner unit cls : Nat) (u : Option Nat) :
    (State.report s owner unit cls u).works = s.works := by
  unfold State.report; split <;> simp (maxDischargeDepth := 40)
@[simp] theorem State.hubEngines_works (s : State) (f : Keeper → Keeper) :
    (State.hubEngines s f).works = s.works := by
  simp (maxDischargeDepth := 40) [State.hubEngines]
@[simp] theorem State.dropCoders_works (s : State) (n : Nat) :
    (State.dropCoders s n).works = s.works := by
  simp (maxDischargeDepth := 40) [State.dropCoders, works_foldl]
@[simp] theorem Die.fromIdle_work (d : Die) (rec' : Nat → StepRecord) :
    (Die.fromIdle d rec').work = d.work := by
  simp (maxDischargeDepth := 40) [Die.fromIdle]
@[simp] theorem State.countMac_works (s : State) (m i n : Nat) :
    (State.countMac s m i n).works = s.works := by
  simp (maxDischargeDepth := 40) [State.countMac]
@[simp] theorem State.countMacs_works (s : State) (m : Nat) (is : List Nat) :
    (State.countMacs s m is).works = s.works := by
  simp (maxDischargeDepth := 40) [State.countMacs, works_foldl]
@[simp] theorem State.rxFrame_works (s : State) (m len : Nat) (mcast : Bool) (is : List Nat) :
    (State.rxFrame s m len mcast is).works = s.works := by
  simp (maxDischargeDepth := 40) [State.rxFrame]
@[simp] theorem State.txFrames_works (s : State) (m n len : Nat) :
    (State.txFrames s m n len).works = s.works := by
  simp (maxDischargeDepth := 40) [State.txFrames]
@[simp] theorem State.discardFrame_works (s : State) (m : Nat) (f : Bytes) (fcsOk : Bool) :
    (State.discardFrame s m f fcsOk).works = s.works := by
  simp (maxDischargeDepth := 40) [State.discardFrame]
@[simp] theorem State.holdTx_works (s : State) (m : Nat) (old : Tbl Nat) :
    (State.holdTx s m old).works = s.works := by
  unfold State.holdTx; dsimp only; (repeat' split) <;> simp (maxDischargeDepth := 40) 
@[simp] theorem State.setPauses_works (s : State) (m : Nat) (ps : Tbl Nat) :
    (State.setPauses s m ps).works = s.works := by
  simp (maxDischargeDepth := 40) [State.setPauses]
@[simp] theorem State.pauseMac_works (s : State) (m : Nat) (qs : List (Nat × Nat)) :
    (State.pauseMac s m qs).works = s.works := by
  simp (maxDischargeDepth := 40) [State.pauseMac]
@[simp] theorem State.setPtp_works (s : State) (p : Ptp) :
    (State.setPtp s p).works = s.works := by
  simp (maxDischargeDepth := 40) [State.setPtp]
@[simp] theorem State.planRefused_works (s : State) (g : GaugePlan) (why m : Nat) :
    (State.planRefused s g why m).works = s.works := by
  simp (maxDischargeDepth := 40) [State.planRefused]
@[simp] theorem State.applyDelta_works (s : State) (rank m : Nat) :
    (State.applyDelta s rank m).works = s.works := by
  unfold State.applyDelta; dsimp only; (repeat' split) <;> simp (maxDischargeDepth := 40)
@[simp] theorem State.setWidth_works (s : State) (m lanes from' : Nat) :
    (State.setWidth s m lanes from').works = s.works := by
  simp (maxDischargeDepth := 40) [State.setWidth]
@[simp] theorem State.rekey_works (s : State) :
    (State.rekey s).works = s.works := by
  simp (maxDischargeDepth := 40) +contextual [State.rekey, works_foldl, work_foldl]
@[simp] theorem State.sendCtlFrame_works (s : State) (m len : Nat) (f : TFrame) :
    (State.sendCtlFrame s m len f).works = s.works := by
  simp (maxDischargeDepth := 40) [State.sendCtlFrame]
@[simp] theorem State.sendPooled1_works (s : State) (m : Nat) (p : Nat × CtlMsg) :
    (State.sendPooled1 s m p).works = s.works := by
  simp (maxDischargeDepth := 40) [State.sendPooled1]
theorem State.sendPooled_works (m : Nat) (ps : List (Nat × CtlMsg)) (s : State) : (State.sendPooled m ps s).1.works = s.works := by
  induction ps generalizing s with
  | nil => rfl
  | cons p ps ih =>
    unfold State.sendPooled
    split
    · exact (ih _).trans (State.sendPooled1_works _ _ _)
    · rfl
@[simp] theorem State.flushCtl_works (s : State) (m : Nat) :
    (State.flushCtl s m).works = s.works := by
  unfold State.flushCtl; dsimp only
  split
  · simp (maxDischargeDepth := 40)
  · exact (State.setMac_works _ _ _).trans (State.sendPooled_works m _ s)
@[simp] theorem State.txControls_works (s : State) (m : Nat) (ps : List (Nat × CtlMsg)) :
    (State.txControls s m ps).works = s.works := by
  simp (maxDischargeDepth := 40) [State.txControls]
@[simp] theorem State.txControl_works (s : State) (m u : Nat) (x : CtlMsg) :
    (State.txControl s m u x).works = s.works := by
  simp (maxDischargeDepth := 40) [State.txControl]
@[simp] theorem State.sealedFrame_works (s : State) (m u : Nat) :
    (State.sealedFrame s m u).works = s.works := by
  simp (maxDischargeDepth := 40) [State.sealedFrame]
@[simp] theorem State.sendPtp_works (s : State) (m len : Nat) :
    (State.sendPtp s m len).works = s.works := by
  simp (maxDischargeDepth := 40) [State.sendPtp]
@[simp] theorem State.countSent_works (s : State) (m : Nat) (x : Sent) :
    (State.countSent s m x).works = s.works := by
  simp (maxDischargeDepth := 40) [State.countSent]
@[simp] theorem State.countPeck_works (s : State) (m : Nat) :
    (State.countPeck s m).works = s.works := by
  unfold State.countPeck; dsimp only
  split
  · rfl
  · next p _ =>
    have h := works_foldl (fun (s : State) x => s.countSent m x) p.run.reverse s fun s x => by simp (maxDischargeDepth := 40)
    split <;> split <;> simp (maxDischargeDepth := 40) [h, -List.foldl_reverse]
@[simp] theorem State.failPort_works (s : State) (m : Nat) :
    (State.failPort s m).works = s.works := by
  unfold State.failPort; dsimp only
  split
  · rfl
  · rw [State.deviceEvent_works]
    apply works_choice
    · rw [State.absorbed_works, State.deviceEvent_works]
      split
      · exact (works_foldl _ _ _ fun s m => by simp (maxDischargeDepth := 40)).trans (by simp (maxDischargeDepth := 40))
      · simp (maxDischargeDepth := 40)
    · simp (maxDischargeDepth := 40)
@[simp] theorem State.portFails_works (s : State) (m : Nat) (why : PortFault) :
    (State.portFails s m why).works = s.works := by
  simp (maxDischargeDepth := 40) [State.portFails]
@[simp] theorem State.sendLldp_works (s : State) (m : Nat) :
    (State.sendLldp s m).works = s.works := by
  simp (maxDischargeDepth := 40) [State.sendLldp]
@[simp] theorem State.spendCredits_works (s : State) (u : Nat) (spent : Tbl Nat) :
    (State.spendCredits s u spent).works = s.works := by
  simp (maxDischargeDepth := 40) [State.spendCredits]
@[simp] theorem State.sendIn_works (s : State) (m u kind e : Nat) (p : PeckRoom) :
    (State.sendIn s m u kind e p).1.works = s.works := by
  unfold State.sendIn; split <;> simp (maxDischargeDepth := 40)
@[simp] theorem State.sendControls_works (s : State) (m u : Nat) :
    (State.sendControls s m u).works = s.works := by
  simp (maxDischargeDepth := 40) [State.sendControls, works_foldl]
@[simp] theorem State.unsend_works (s : State) (m : Nat) (x : Sent) (n : Nat) :
    (State.unsend s m x n).works = s.works := by
  simp (maxDischargeDepth := 40) [State.unsend]
@[simp] theorem State.takeBack_works (s : State) (m : Nat) (xs : List Sent) : (s.takeBack m xs).1.works = s.works := by
  induction xs generalizing s with
  | nil => rfl
  | cons x xs ih => unfold State.takeBack; dsimp only; (repeat' split) <;> simp [ih]
@[simp] theorem State.fillPeck_works (s : State) (m before : Nat) :
    (State.fillPeck s m before).works = s.works := by
  unfold State.fillPeck; dsimp only
  split
  · rfl
  · split
    · rfl
    · exact (State.setMac_works _ _ _).trans ((works_foldl_fst _ _ _ fun r x => State.sendIn_works _ _ _ _ _ _).trans (State.takeBack_works _ _ _))
@[simp] theorem State.repeck_works (s : State) (m : Nat) :
    (State.repeck s m).works = s.works := by
  unfold State.repeck
  split <;> simp
@[simp] theorem State.haltPecks_works (s : State) :
    (State.haltPecks s).works = s.works := by
  unfold State.haltPecks
  refine works_foldl _ _ _ fun s m => ?_
  split <;> simp (maxDischargeDepth := 40)
@[simp] theorem State.paused_works (s : State) (m : Nat) (qs : List (Nat × Nat)) :
    (State.paused s m qs).works = s.works := by
  simp (maxDischargeDepth := 40) [State.paused]
@[simp] theorem State.peckStart_works (s : State) (m i : Nat) :
    (State.peckStart s m i).works = s.works := by
  unfold State.peckStart; split <;> simp (maxDischargeDepth := 40)
@[simp] theorem State.peckEnd_works (s : State) (m : Nat) :
    (State.peckEnd s m).works = s.works := by
  unfold State.peckEnd; dsimp only; (repeat' split) <;> simp (maxDischargeDepth := 40)
@[simp] theorem State.gaugeTurn_works (s : State) (n : Nat) :
    (State.gaugeTurn s n).works = s.works := by
  unfold State.gaugeTurn; dsimp only
  split
  · rfl
  · split
    · refine (works_foldl _ _ _ fun s m => ?_).trans (by simp (maxDischargeDepth := 40))
      rw [State.setMac_works]
      split
      · rfl
      · split <;> simp (maxDischargeDepth := 40)
    · rfl
@[simp] theorem State.rxMessage_works (s : State) (m u payload : Nat) (src : Option Nat) :
    (State.rxMessage s m u payload src).1.works = s.works := by
  simp (maxDischargeDepth := 40) [State.rxMessage]
theorem State.received_works (s : State) (m u payload src : Nat) (act : State → State) (ha : ∀ s, (act s).works = s.works) :
    (s.received m u payload src act).works = s.works := by
  unfold State.received; dsimp only
  split
  · rfl
  · split
    · exact (ha _).trans (State.rxMessage_works _ _ _ _ _)
    · exact State.rxMessage_works _ _ _ _ _
@[simp] theorem State.ackRack_works (s : State) (u : Nat) (mine : RackSeg → Bool) :
    (State.ackRack s u mine).works = s.works := by
  simp (maxDischargeDepth := 40) [State.ackRack, works_foldl]
@[simp] theorem State.takeAck_works (s : State) (m u : Nat) (src : Peer) (kind status first more : Nat) :
    (State.takeAck s m u src kind status first more).works = s.works := by
  unfold State.takeAck; dsimp only; (repeat' split) <;> simp (maxDischargeDepth := 40) 
@[simp] theorem State.collSegment_works (s : State) (u src : Nat) (p : Partial) :
    (State.collSegment s u src p).works = s.works := by
  simp (maxDischargeDepth := 40) [State.collSegment]
@[simp] theorem State.repaired_works (s : State) (u : Nat) :
    (State.repaired s u).works = s.works := by
  simp (maxDischargeDepth := 40) [State.repaired]
@[simp] theorem State.permuted_works (s : State) (u : Nat) (p : Partial) :
    (State.permuted s u p).works = s.works := by
  simp (maxDischargeDepth := 40) [State.permuted]
@[simp] theorem State.segmentDone_works (s : State) (m u : Nat) (p : Partial) :
    (State.segmentDone s m u p).works = s.works := by
  unfold State.segmentDone; (repeat' split) <;> simp (maxDischargeDepth := 40)
@[simp] theorem State.staleAck_works (s : State) (m u src kind seq : Nat) :
    (State.staleAck s m u src kind seq).works = s.works := by
  simp (maxDischargeDepth := 40) [State.staleAck]
@[simp] theorem State.dataFrame_works (s : State) (m : Nat) (h : BitVec 256) (payload : Bytes) :
    (State.dataFrame s m h payload).works = s.works := by
  simp (maxDischargeDepth := 40) [State.dataFrame]
@[simp] theorem State.timedOut_works (s : State) (m : Nat) :
    (State.timedOut s m).works = s.works := by
  simp (maxDischargeDepth := 40) [State.timedOut]
@[simp] theorem State.resendDue_works (s : State) (m u dest kind seq : Nat) :
    (State.resendDue s m u dest kind seq).works = s.works := by
  unfold State.resendDue; dsimp only; (repeat' split) <;> simp (maxDischargeDepth := 40)
@[simp] theorem State.dropPartial_works (s : State) (m u src kind seq : Nat) :
    (State.dropPartial s m u src kind seq).works = s.works := by
  unfold State.dropPartial; dsimp only; (repeat' split) <;> simp (maxDischargeDepth := 40)
@[simp] theorem State.setKeeper_works (s : State) (k : Nat) (x : Keeper) :
    (State.setKeeper s k x).works = s.works := by
  simp (maxDischargeDepth := 40) [State.setKeeper]
@[simp] theorem State.hubSettle_works (s : State) :
    (State.hubSettle s).works = s.works := by
  simp (maxDischargeDepth := 40) [State.hubSettle]
@[simp] theorem State.badFlit_works (s : State) (l dir g seq : Nat) :
    (State.badFlit s l dir g seq).works = s.works := by
  simp (maxDischargeDepth := 40) [State.badFlit]
@[simp] theorem State.acceptFlit_works (s : State) (l dir g kind : Nat) (f : BitVec 64) (payload : Bytes) :
    (State.acceptFlit s l dir g kind f payload).1.works = s.works := by
  unfold State.acceptFlit; dsimp only; (repeat' split) <;> simp (maxDischargeDepth := 40)
@[simp] theorem State.takeFlit_works (s : State) (l dir g kind : Nat) (f : BitVec 64) (payload : Bytes) :
    (State.takeFlit s l dir g kind f payload).1.works = s.works := by
  unfold State.takeFlit; (repeat' split) <;> simp (maxDischargeDepth := 40) 
@[simp] theorem State.returnCredits_works (s : State) (l dir g n u : Nat) :
    (State.returnCredits s l dir g n u).works = s.works := by
  simp (maxDischargeDepth := 40) [State.returnCredits]
@[simp] theorem State.replayFrom_works (s : State) (l dir g q : Nat) :
    (State.replayFrom s l dir g q).works = s.works := by
  simp (maxDischargeDepth := 40) [State.replayFrom]
@[simp] theorem State.transferFlit_works (s : State) (l dir tag : Nat) :
    (State.transferFlit s l dir tag).works = s.works := by
  simp (maxDischargeDepth := 40) [State.transferFlit]
@[simp] theorem State.windowsBack_works (s : State) (u src dst : Nat) (wins : List Nat) :
    (State.windowsBack s u src dst wins).works = s.works := by
  simp (maxDischargeDepth := 40) [State.windowsBack]
@[simp] theorem State.fenceStart_works (s : State) (n cause : Nat) (dark : Bool) :
    (State.fenceStart s n cause dark).works = s.works := by
  simp (maxDischargeDepth := 40) [State.fenceStart]
@[simp] theorem State.checkControl_works (s : State) (n : Nat) :
    (State.checkControl s n).works = s.works := by
  simp (maxDischargeDepth := 40) [State.checkControl]
@[simp] theorem State.checkControls_works (s : State) :
    (State.checkControls s).works = s.works := by
  simp (maxDischargeDepth := 40) +contextual [State.checkControls, works_foldl, work_foldl]
@[simp] theorem State.controlFlit_works (s : State) (l dir : Nat) (a b : Bytes) :
    (State.controlFlit s l dir a b).works = s.works := by
  unfold State.controlFlit; dsimp only
  split
  · simp (maxDischargeDepth := 40)
  · split
    · split <;> simp (maxDischargeDepth := 40)
    · simp (maxDischargeDepth := 40)
@[simp] theorem State.logLanes_works (s : State) (l dir g : Nat) (bad : BitVec 74) (new : List Nat) :
    (State.logLanes s l dir g bad new).works = s.works := by
  simp (maxDischargeDepth := 40) +contextual [State.logLanes, works_foldl, work_foldl]
@[simp] theorem State.linkShape_works (s : State) (l dir : Nat) :
    (State.linkShape s l dir).works = s.works := by
  simp (maxDischargeDepth := 40) [State.linkShape]
@[simp] theorem State.laneTested_works (s : State) (l dir g : Nat) (bad : BitVec 74) (ns : Nat) :
    (State.laneTested s l dir g bad ns).works = s.works := by
  unfold State.laneTested; dsimp only
  split
  · rfl
  · (repeat' split) <;> simp (maxDischargeDepth := 40)
@[simp] theorem State.learnIndex_works (s : State) (n : Nat) (h : Nat) (f : Found → Found) :
    (State.learnIndex s n h f).works = s.works := by
  unfold State.learnIndex; dsimp only; (repeat' split) <;> simp (maxDischargeDepth := 40)
@[simp] theorem State.identity_works (s : State) (n : Nat) (rec' : BitVec 512) (nonce : Bytes) :
    (State.identity s n rec' nonce).works = s.works := by
  simp (maxDischargeDepth := 40) [State.identity]
@[simp] theorem State.gateRequest_works (s : State) (k : Nat) (power : Bool) :
    (State.gateRequest s k power).works = s.works := by
  simp (maxDischargeDepth := 40) [State.gateRequest]
@[simp] theorem State.wakeDone_works (s : State) (k : Nat) :
    (State.wakeDone s k).works = s.works := by
  simp (maxDischargeDepth := 40) [State.wakeDone]
@[simp] theorem State.switchDone_works (s : State) (n : Nat) :
    (State.switchDone s n).works = s.works := by
  unfold State.switchDone; dsimp only; (repeat' split) <;> simp (maxDischargeDepth := 40)
@[simp] theorem State.refuseLoad_works (s : State) (u : Nat) (r : Refuse) :
    (State.refuseLoad s u r).works = s.works := by
  unfold State.refuseLoad; (repeat' split) <;> simp (maxDischargeDepth := 40)
@[simp] theorem State.checkPlan_works (s : State) (rank : Nat) :
    (State.checkPlan s rank).works = s.works := by
  unfold State.checkPlan; dsimp only; (repeat' split) <;> simp (maxDischargeDepth := 40) 
@[simp] theorem State.tellLost_works (s : State) (u : Nat) :
    (State.tellLost s u).works = s.works := by
  simp (maxDischargeDepth := 40) [State.tellLost]
@[simp] theorem State.giveSegment_works (s : State) (n u : Nat) (g : GradSegment) :
    (State.giveSegment s n u g).works = s.works := by
  have k := State.takeSegment_works s n u ((s.tun u).lastsDue n g.tensor) g
  unfold State.giveSegment
  split <;> rename_i heq <;> rw [heq] at k <;> simp [k]
@[simp] theorem State.segmentArrives_works (s : State) (n u : Nat) (g : GradSegment) :
    (State.segmentArrives s n u g).works = s.works := by
  simp (maxDischargeDepth := 40) [State.segmentArrives]
@[simp] theorem State.resumeStaged_works (s : State) (n u : Nat) :
    (State.resumeStaged s n u).works = s.works := by
  unfold State.resumeStaged; dsimp only; (repeat' split) <;> simp (maxDischargeDepth := 40)
@[simp] theorem State.releaseSums_works (s : State) (n u : Nat) (e : BitVec 512) :
    (State.releaseSums s n u e).works = s.works := by
  simp (maxDischargeDepth := 40) [State.releaseSums]
@[simp] theorem State.sketchReturns_works (s : State) (n u entry : Nat) (others : List SketchPart) :
    (State.sketchReturns s n u entry others).works = s.works := by
  unfold State.sketchReturns; dsimp only; (repeat' split) <;> simp (maxDischargeDepth := 40)
@[simp] theorem State.voteGives_works (s : State) (u : Nat) :
    (State.voteGives s u).works = s.works := by
  simp (maxDischargeDepth := 40) [State.voteGives]
@[simp] theorem State.voteIn_works (s : State) (u src : Nat) (v : VoteData) :
    (State.voteIn s u src v).works = s.works := by
  simp (maxDischargeDepth := 40) [State.voteIn]
@[simp] theorem State.voteOut_works (s : State) (u : Nat) (v : VoteData) :
    (State.voteOut s u v).works = s.works := by
  unfold State.voteOut; dsimp only; (repeat' split) <;> simp (maxDischargeDepth := 40)
@[simp] theorem State.voteLate_works (s : State) (u : Nat) :
    (State.voteLate s u).works = s.works := by
  simp (maxDischargeDepth := 40) [State.voteLate]
@[simp] theorem State.digestIn_works (s : State) (u src step : Nat) (d : Bytes) :
    (State.digestIn s u src step d).works = s.works := by
  simp (maxDischargeDepth := 40) [State.digestIn, works_foldl]
@[simp] theorem State.commitWord_works (s : State) (u : Nat) (w : BitVec 256) :
    (State.commitWord s u w).works = s.works := by
  simp (maxDischargeDepth := 40) [State.commitWord]
@[simp] theorem State.granaryLate_works (s : State) (u : Nat) :
    (State.granaryLate s u).works = s.works := by
  unfold State.granaryLate; dsimp only; (repeat' split) <;> simp (maxDischargeDepth := 40)
@[simp] theorem State.moveOwn_works (s : State) (u rank : Nat) (j : JobImage) (n : Nat) :
    (State.moveOwn s u rank j n).works = s.works := by
  simp (maxDischargeDepth := 40) [State.moveOwn, works_foldl]
@[simp] theorem State.reshardMove_works (s : State) (u : Nat) (pkg : LayoutPackage) :
    (State.reshardMove s u pkg).works = s.works := by
  unfold State.reshardMove
  extract_lets t rank j
  split
  · exact works_foldl _ _ _ fun s n => by dsimp only; split <;> simp
  · rw [State.fillStripes_works, State.setTun_works]
    exact (works_foldl _ _ _ fun s n => by simp).trans (State.setTun_works ..)
@[simp] theorem State.reshardStep_works (s : State) (u : Nat) :
    (State.reshardStep s u).works = s.works := by
  unfold State.reshardStep; dsimp only; (repeat' split) <;> simp (maxDischargeDepth := 40)
theorem State.ptpIn_works (s : State) (m len : Nat) (dom : BitVec 8) (is : List Nat) (act : State → State)
    (ha : ∀ s, (act s).works = s.works) : (s.ptpIn m len dom is act).works = s.works := by
  unfold State.ptpIn; dsimp only
  split
  · rfl
  · split
    · exact (ha _).trans (State.rxFrame_works _ _ _ _ _)
    · exact State.rxFrame_works _ _ _ _ _
@[simp] theorem State.clockTo_works (s : State) (p : Ptp) :
    (State.clockTo s p).works = s.works := by
  simp (maxDischargeDepth := 40) +contextual [State.clockTo, works_foldl, work_foldl]
@[simp] theorem State.boot_works (s : State) (kind : Nat) (copy : Bool) (cause : Nat) :
    (State.boot s kind copy cause).works = s.works := by
  simp (maxDischargeDepth := 40) [State.boot]
@[simp] theorem State.bootCut_works (s : State) (kind : Nat) (copy : Bool) (cause : Nat) :
    (State.bootCut s kind copy cause).works = s.works := by
  simp (maxDischargeDepth := 40) [State.bootCut]
@[simp] theorem State.restoreEntry_works (s : State) (u : Nat) (l : RList) (j : JobImage) (o : Own) :
    (State.restoreEntry s u l j o).works = s.works := by
  simp (maxDischargeDepth := 40) [State.restoreEntry, works_foldl]
@[simp] theorem State.refuseRestore_works (s : State) (u : Nat) (f : RFail) :
    (State.refuseRestore s u f).works = s.works := by
  simp (maxDischargeDepth := 40) [State.refuseRestore]
@[simp] theorem State.supply_works (s : State) (u T : Nat) (objs : List RestoreObject) (pkg : LayoutPackage) :
    (State.supply s u T objs pkg).works = s.works := by
  unfold State.supply
  extract_lets t rank j0 j l due needs own s1
  have h1 : s1.works = s.works := works_foldl _ _ _ fun s q => by
    dsimp only
    have h : ∀ (l : List Nat) (f : State → Nat → State), (∀ s b, (f s b).works = s.works) → (l.foldl f s).works = s.works := fun l f h => works_foldl _ _ _ h
    split
    · rw [State.putRecords_works]; exact h _ _ fun s b => by split <;> simp
    · exact h _ _ fun s b => by split <;> simp
  clear_value s1
  split
  · rfl
  · split <;> simp [h1]
@[simp] theorem State.setTap_works (s : State) (t : Nat) (x : Tap) :
    (State.setTap s t x).works = s.works := by
  simp (maxDischargeDepth := 40) [State.setTap]
@[simp] theorem State.tapFault_works (s : State) (t why : Nat) :
    (State.tapFault s t why).works = s.works := by
  unfold State.tapFault; dsimp only; (repeat' split) <;> simp (maxDischargeDepth := 40)
@[simp] theorem State.hostIndex_works (s : State) (t : Nat) (e : BitVec 1024) :
    (State.hostIndex s t e).works = s.works := by
  unfold State.hostIndex; (repeat' split) <;> simp (maxDischargeDepth := 40)
@[simp] theorem State.statusEntry_works (s : State) (u : Nat) (e : BitVec 1024) :
    (State.statusEntry s u e).works = s.works := by
  simp (maxDischargeDepth := 40) [State.statusEntry]
@[simp] theorem State.useKind_works (s : State) (u k : Nat) :
    (State.useKind s u k).works = s.works := by
  unfold State.useKind; (repeat' split) <;> simp (maxDischargeDepth := 40)
@[simp] theorem State.tapApply_works (s : State) (t : Nat) (e : BitVec 1024) :
    (State.tapApply s t e).works = s.works := by
  unfold State.tapApply; dsimp only; (repeat' split) <;> simp (maxDischargeDepth := 40)
@[simp] theorem State.tapCheck_works (s : State) (t : Nat) (e : BitVec 1024) :
    (State.tapCheck s t e).works = s.works := by
  simp (maxDischargeDepth := 40) [State.tapCheck]
@[simp] theorem State.tapTorn_works (s : State) (t : Nat) :
    (State.tapTorn s t).works = s.works := by
  simp (maxDischargeDepth := 40) [State.tapTorn]
@[simp] theorem State.ringAdvance_works (s : State) (t a idx : Nat) :
    (State.ringAdvance s t a idx).works = s.works := by
  simp (maxDischargeDepth := 40) [State.ringAdvance]
@[simp] theorem State.kindRefused_works (s : State) (u k : Nat) :
    (State.kindRefused s u k).works = s.works := by
  simp (maxDischargeDepth := 40) [State.kindRefused]
@[simp] theorem State.stagePackage_works (s : State) (u : Nat) (pkg : LayoutPackage) :
    (State.stagePackage s u pkg).works = s.works := by
  simp (maxDischargeDepth := 40) [State.stagePackage]
@[simp] theorem State.ringFails_works (s : State) (u : Nat) :
    (State.ringFails s u).works = s.works := by
  simp (maxDischargeDepth := 40) [State.ringFails]
@[simp] theorem State.postOutput_works (s : State) (u : Nat) :
    (State.postOutput s u).works = s.works := by
  unfold State.postOutput; split <;> simp (maxDischargeDepth := 40)
@[simp] theorem State.closedStatus_works (s : State) (u : Nat) :
    (State.closedStatus s u).works = s.works := by
  unfold State.closedStatus; dsimp only; (repeat' split) <;> simp (maxDischargeDepth := 40)
@[simp] theorem State.windowWrite_works (s : State) (off n : Nat) (w : BitVec 64) :
    (State.windowWrite s off n w).works = s.works := by
  simp (maxDischargeDepth := 40) [State.windowWrite]
@[simp] theorem stageRecord_works (u : Nat) (cmdSeq : BitVec 32) (ok : Bool) (why : Nat) (f : Tun → Tun) (s : State) :
    (stageRecord u cmdSeq ok why f s).works = s.works := by
  simp (maxDischargeDepth := 40) [stageRecord]
@[simp] theorem State.degrade_works (s : State) (pg pos : Nat) :
    (State.degrade s pg pos).works = s.works := by
  simp (maxDischargeDepth := 40) [State.degrade, works_foldl]
@[simp] theorem State.interfaceFails_works (s : State) (i : Nat) :
    (State.interfaceFails s i).works = s.works := by
  simp (maxDischargeDepth := 40) [State.interfaceFails, works_foldl]
@[simp] theorem State.countRebuilt_works (s : State) (pg : Nat) (k : Nat → Nat) :
    (State.countRebuilt s pg k).works = s.works := by
  simp (maxDischargeDepth := 40) [State.countRebuilt, works_foldl]
@[simp] theorem State.retryFreezes_works (s : State) (pg : Nat) :
    (State.retryFreezes s pg).works = s.works := by
  simp (maxDischargeDepth := 40) [State.retryFreezes, works_foldl]
@[simp] theorem State.rebuildGranule_works (s : State) (pg : Nat) :
    (State.rebuildGranule s pg).works = s.works := by
  simp (maxDischargeDepth := 40) [State.rebuildGranule]
@[simp] theorem State.fenceRow_works (s : State) (n pos row : Nat) :
    (State.fenceRow s n pos row).works = s.works := by
  simp (maxDischargeDepth := 40) [State.fenceRow]
@[simp] theorem State.localUe_works (s : State) (n u a : Nat) (r : RowRepair) :
    (State.localUe s n u a r).works = s.works := by
  simp (maxDischargeDepth := 40) [State.localUe]
@[simp] theorem State.noteMem_works (s : State) (n : Nat) (f : MemStat → MemStat) :
    (State.noteMem s n f).works = s.works := by
  simp (maxDischargeDepth := 40) [State.noteMem]
@[simp] theorem State.cellarUe_works (s : State) (n u off : Nat) (second : Bool) :
    (State.cellarUe s n u off second).works = s.works := by
  unfold State.cellarUe; split <;> simp (maxDischargeDepth := 40)
@[simp] theorem State.refetch_works (s : State) (n u : Nat) (r : RowRepair) (fetch : Bool) :
    (State.refetch s n u r fetch).works = s.works := by
  simp (maxDischargeDepth := 40) [State.refetch]
@[simp] theorem State.uncorrectable_works (s : State) (n u : Nat) (site : UeSite) (addr : Nat) (second : Bool) :
    (State.uncorrectable s n u site addr second).works = s.works := by
  unfold State.uncorrectable; (repeat' split) <;> simp (maxDischargeDepth := 40)
@[simp] theorem State.corrected_works (s : State) (n : Nat) (r : RowRepair) :
    (State.corrected s n r).works = s.works := by
  simp (maxDischargeDepth := 40) [State.corrected]
@[simp] theorem Die.scrub_work (d : Die) (lvl : Nat) :
    (Die.scrub d lvl).work = d.work := by
  unfold Die.scrub; split <;> simp (maxDischargeDepth := 40)
@[simp] theorem State.startShape_works (s : State) (l dir : Nat) :
    (State.startShape s l dir).works = s.works := by
  simp (maxDischargeDepth := 40) [State.startShape]
@[simp] theorem State.startInterface_works (s : State) (i : Nat) :
    (State.startInterface s i).works = s.works := by
  simp (maxDischargeDepth := 40) [State.startInterface]
@[simp] theorem State.startRow_works (s : State) (known : List Nat) (r : Nat) :
    (State.startRow s known r).works = s.works := by
  simp (maxDischargeDepth := 40) [State.startRow]
@[simp] theorem State.startRows_works (s : State) (c : FlashCopy) (f : StartFinds) :
    (State.startRows s c f).works = s.works := by
  simp (maxDischargeDepth := 40) [State.startRows, works_foldl]
@[simp] theorem State.startDies_works (s : State) (c : FlashCopy) (f : StartFinds) :
    (State.startDies s c f).works = s.works := by
  unfold State.startDies; dsimp only
  refine (works_foldl _ _ _ fun s n => ?_).trans (by simp (maxDischargeDepth := 40))
  (repeat' split) <;> simp (maxDischargeDepth := 40)
@[simp] theorem State.startLevel_works (s : State) :
    (State.startLevel s).works = s.works := by
  simp (maxDischargeDepth := 40) [State.startLevel]
@[simp] theorem State.extendMr_works (s : State) (i : Nat) (d : Bytes) :
    (State.extendMr s i d).works = s.works := by
  simp (maxDischargeDepth := 40) [State.extendMr]
@[simp] theorem State.measureStart_works (s : State) (c : FlashCopy) :
    (State.measureStart s c).works = s.works := by
  simp (maxDischargeDepth := 40) [State.measureStart, works_foldl]
@[simp] theorem State.startNet_works (s : State) (c : FlashCopy) (f : StartFinds) :
    (State.startNet s c f).works = s.works := by
  unfold State.startNet; dsimp only; (repeat' split) <;> simp (maxDischargeDepth := 40) [works_foldl]
@[simp] theorem State.startLoad_works (s : State) (c : Bool) (x : FlashCopy) :
    (State.startLoad s c x).works = s.works := by
  simp (maxDischargeDepth := 40) [State.startLoad]
@[simp] theorem State.startEnd_works (s : State) (c : Bool) :
    (State.startEnd s c).works = s.works := by
  simp (maxDischargeDepth := 40) [State.startEnd]
@[simp] theorem State.steep_works (s : State) (cause : Nat) :
    (State.steep s cause).works = s.works := by
  simp (maxDischargeDepth := 40) +contextual [State.steep, works_foldl, work_foldl]
@[simp] theorem State.withS_works (s : State) :
    (State.withS s).works = s.works := by
  simp (maxDischargeDepth := 40) [State.withS]
@[simp] theorem State.flashWrite_works (s : State) (c : Bool) (x : FlashCopy) :
    (State.flashWrite s c x).works = s.works := by
  simp (maxDischargeDepth := 40) [State.flashWrite]
@[simp] theorem State.sawInput_works (s : State) (mv : Nat) :
    (State.sawInput s mv).works = s.works := by
  simp (maxDischargeDepth := 40) [State.sawInput]
@[simp] theorem State.answer_works (s : State) (bs : Bytes) :
    (State.answer s bs).works = s.works := by
  simp (maxDischargeDepth := 40) [State.answer]
@[simp] theorem State.spdmError_works (s : State) :
    (State.spdmError s).works = s.works := by
  simp (maxDischargeDepth := 40) [State.spdmError]
@[simp] theorem State.setSession_works (s : State) (i : Nat) (x : Session) :
    (State.setSession s i x).works = s.works := by
  simp (maxDischargeDepth := 40) [State.setSession]
@[simp] theorem State.openSession_works (s : State) (i : Nat) (nonce : Bytes) :
    (State.openSession s i nonce).works = s.works := by
  simp (maxDischargeDepth := 40) [State.openSession]
@[simp] theorem State.takeSecret_works (s : State) (u : Nat) (ts : Bytes) (imports : List Bytes) (sigOk : Bool) :
    (State.takeSecret s u ts imports sigOk).works = s.works := by
  simp (maxDischargeDepth := 40) [State.takeSecret]
@[simp] theorem State.withFetchWord_works (s : State) (nbits w : Nat) :
    (State.withFetchWord s nbits w).works = s.works := by
  unfold State.withFetchWord; (repeat' split) <;> simp (maxDischargeDepth := 40) 
end Sys2Proof.Machine
end

