-- ==== Sys2Proof/Laws/Issue.lean ====
section
/-! SUPPORT. What the issue of a slice does to the program of its tun: control flow, synchronisation, update operations,
tokens and counts, each read off the slice alone. -/

namespace Sys2Proof.Machine

/-- The sequencing part of a context: where it goes on, its loops, its counts and its update operations. -/
structure Flow where
  pc : Nat
  rep : Nat
  loops : Tbl Loop
  loopCounts : Tbl Nat
  stepStart : Nat
  hold : Bool
  halted : Bool
  issue : Nat
  issued : Nat
  sinceSeal : Nat
  arrives : Nat
  passed : Nat
  closed : Bool
  upd : UpdCtx

/-- The sequencing part of a context. -/
def Ctx.flow (c : Ctx) : Flow :=
  { pc := c.pc, rep := c.rep, loops := c.loops, loopCounts := c.loopCounts,
    stepStart := c.stepStart, hold := c.hold, halted := c.halted, issue := c.issue, issued := c.stall.issued,
    sinceSeal := c.sinceSeal, arrives := c.arrives, passed := c.passed, closed := c.closed, upd := c.upd }

theorem Ctx.flow_prog (c : Ctx) : c.prog.flow = c.flow := rfl

theorem flow_foldl {α : Type} (f : Ctx → α → Ctx) (l : List α) (c : Ctx) (h : ∀ c x, (f c x).flow = c.flow) :
    (l.foldl f c).flow = c.flow := by
  induction l generalizing c with
  | nil => rfl
  | cons x l ih => rw [List.foldl_cons, ih, h]

theorem Ctx.setTok_flow (c : Ctx) (n : Nat) (t : Tok) : (c.setTok n t).flow = c.flow := rfl

theorem Ctx.consume_flow (c : Ctx) (held ns : List Nat) : (c.consume held ns).flow = c.flow := by
  refine flow_foldl _ _ _ fun c n => ?_
  dsimp only
  (repeat' split) <;> rfl

theorem issueWork_flow (sh : Share) (u : Nat) (d : Die) (c : Ctx) (x : Slice) : (issueWork sh u d c x).2.flow = c.flow := by
  unfold issueWork
  extract_lets a b r
  have h : r.2.flow = c.flow := by
    unfold r
    split
    · unfold issuePass
      dsimp only
      split <;> rfl
    · rfl
    · rfl
  clear_value r
  split <;> exact h

theorem issueLaunches_flow (u die : Nat) (ringOff : List Nat) (d : Die) (c : Ctx) (x : Slice) (voids : List Nat) :
    (issueLaunches u die ringOff d c x voids).2.flow = c.flow := by
  unfold issueLaunches
  dsimp only
  suffices h : ∀ (l : List Nat) (r : Die × Ctx), (l.foldl _ r).2.flow = r.2.flow from h _ _
  intro l
  induction l with
  | nil => intro r; rfl
  | cons m l ih => intro r; rw [List.foldl_cons, ih]; rfl

/-- The context of an issued slice before its own operations: its windows and tokens, with its program as it was. -/
def issueBefore (sh : Share) (u die : Nat) (ringOff : List Nat) (d : Die) (c : Ctx) (x : Slice) (voids : List Nat) : Ctx :=
  let w := issueWork sh u d c x
  let l := issueLaunches u die ringOff w.1 w.2 x voids
  (sliceDests c x (d.delayedBank (arrBank (arrGroup x)))).foldl (fun c n => c.setTok n .pending)
    (l.2.consume (l.1.heldBy u) (consumes c x))

theorem issueBefore_flow (sh : Share) (u die : Nat) (ringOff : List Nat) (d : Die) (c : Ctx) (x : Slice) (voids : List Nat) :
    (issueBefore sh u die ringOff d c x voids).flow = c.flow := by
  unfold issueBefore
  dsimp only
  rw [flow_foldl _ _ _ fun c n => Ctx.setTok_flow c n .pending, Ctx.consume_flow, issueLaunches_flow, issueWork_flow]

/-- The context after a slice: its update, synchronisation and control operations, and its counts; a seal slice also
writes the seal record and the generator position. -/
theorem issueSlice_ctx (sh : Share) (u die : Nat) (ringOff kept : List Nat) (d : Die) (c : Ctx) (x : Slice) (voids : List Nat) :
    let c3 := (((issueBefore sh u die ringOff d c x voids).update x).sync x).control (loopBufAdd d.loopBuf (bufKey u c.pc)) u x
    let c4 : Ctx := { c3 with issue := c3.issue + 1, stall := { c3.stall with issued := c3.stall.issued + 1 },
                              sinceSeal := if ctlSeal x then 0 else c3.sinceSeal + 1 }
    ((issueSlice sh u die ringOff kept d c x voids).2).flow = c4.flow := by
  dsimp only
  unfold issueSlice
  dsimp only
  split <;> rfl

end Sys2Proof.Machine
end

