-- ==== Sys2Proof/Laws/State.lean ====
section
/-! SUPPORT. Each field of the state after each of the updates every family shares, and the parts read back. -/

namespace Sys2Proof.Machine

/-! ### setDie -/

@[simp] theorem State.setDie_pending (s : State) (n : Nat) (d : Die) : (s.setDie n d).pending = s.pending := rfl
@[simp] theorem State.setDie_nowPs (s : State) (n : Nat) (d : Die) : (s.setDie n d).nowPs = s.nowPs := rfl
@[simp] theorem State.setDie_draws (s : State) (n : Nat) (d : Die) : (s.setDie n d).draws = s.draws := rfl
@[simp] theorem State.setDie_dies (s : State) (n : Nat) (d : Die) : (s.setDie n d).dies = s.dies.put n d := rfl
@[simp] theorem State.setDie_tuns (s : State) (n : Nat) (d : Die) : (s.setDie n d).tuns = s.tuns := rfl
@[simp] theorem State.setDie_cellar (s : State) (n : Nat) (d : Die) : (s.setDie n d).cellar = s.cellar := rfl
@[simp] theorem State.setDie_layout (s : State) (n : Nat) (d : Die) : (s.setDie n d).layout = s.layout := rfl
@[simp] theorem State.setDie_net (s : State) (n : Nat) (d : Die) : (s.setDie n d).net = s.net := rfl
@[simp] theorem State.setDie_links (s : State) (n : Nat) (d : Die) : (s.setDie n d).links = s.links := rfl
@[simp] theorem State.setDie_host (s : State) (n : Nat) (d : Die) : (s.setDie n d).host = s.host := rfl
@[simp] theorem State.setDie_flash (s : State) (n : Nat) (d : Die) : (s.setDie n d).flash = s.flash := rfl
@[simp] theorem State.setDie_sec (s : State) (n : Nat) (d : Die) : (s.setDie n d).sec = s.sec := rfl
@[simp] theorem State.setDie_pwr (s : State) (n : Nat) (d : Die) : (s.setDie n d).pwr = s.pwr := rfl
@[simp] theorem State.setDie_pins (s : State) (n : Nat) (d : Die) : (s.setDie n d).pins = s.pins := rfl
@[simp] theorem State.setDie_hubKeepers (s : State) (n : Nat) (d : Die) : (s.setDie n d).hubKeepers = s.hubKeepers := rfl

/-! ### setTun -/

@[simp] theorem State.setTun_pending (s : State) (u : Nat) (t : Tun) : (s.setTun u t).pending = s.pending := rfl
@[simp] theorem State.setTun_nowPs (s : State) (u : Nat) (t : Tun) : (s.setTun u t).nowPs = s.nowPs := rfl
@[simp] theorem State.setTun_draws (s : State) (u : Nat) (t : Tun) : (s.setTun u t).draws = s.draws := rfl
@[simp] theorem State.setTun_dies (s : State) (u : Nat) (t : Tun) : (s.setTun u t).dies = s.dies := rfl
@[simp] theorem State.setTun_tuns (s : State) (u : Nat) (t : Tun) : (s.setTun u t).tuns = s.tuns.put u t := rfl
@[simp] theorem State.setTun_cellar (s : State) (u : Nat) (t : Tun) : (s.setTun u t).cellar = s.cellar := rfl
@[simp] theorem State.setTun_layout (s : State) (u : Nat) (t : Tun) : (s.setTun u t).layout = s.layout := rfl
@[simp] theorem State.setTun_net (s : State) (u : Nat) (t : Tun) : (s.setTun u t).net = s.net := rfl
@[simp] theorem State.setTun_links (s : State) (u : Nat) (t : Tun) : (s.setTun u t).links = s.links := rfl
@[simp] theorem State.setTun_host (s : State) (u : Nat) (t : Tun) : (s.setTun u t).host = s.host := rfl
@[simp] theorem State.setTun_flash (s : State) (u : Nat) (t : Tun) : (s.setTun u t).flash = s.flash := rfl
@[simp] theorem State.setTun_sec (s : State) (u : Nat) (t : Tun) : (s.setTun u t).sec = s.sec := rfl
@[simp] theorem State.setTun_pwr (s : State) (u : Nat) (t : Tun) : (s.setTun u t).pwr = s.pwr := rfl
@[simp] theorem State.setTun_pins (s : State) (u : Nat) (t : Tun) : (s.setTun u t).pins = s.pins := rfl
@[simp] theorem State.setTun_hubKeepers (s : State) (u : Nat) (t : Tun) : (s.setTun u t).hubKeepers = s.hubKeepers := rfl

/-! ### setCtx -/

@[simp] theorem State.setCtx_pending (s : State) (n u : Nat) (c : Ctx) : (s.setCtx n u c).pending = s.pending := rfl
@[simp] theorem State.setCtx_nowPs (s : State) (n u : Nat) (c : Ctx) : (s.setCtx n u c).nowPs = s.nowPs := rfl
@[simp] theorem State.setCtx_draws (s : State) (n u : Nat) (c : Ctx) : (s.setCtx n u c).draws = s.draws := rfl
@[simp] theorem State.setCtx_dies (s : State) (n u : Nat) (c : Ctx) : (s.setCtx n u c).dies = s.dies.put n ((s.die n).setCtx u c) := rfl
@[simp] theorem State.setCtx_tuns (s : State) (n u : Nat) (c : Ctx) : (s.setCtx n u c).tuns = s.tuns := rfl
@[simp] theorem State.setCtx_cellar (s : State) (n u : Nat) (c : Ctx) : (s.setCtx n u c).cellar = s.cellar := rfl
@[simp] theorem State.setCtx_layout (s : State) (n u : Nat) (c : Ctx) : (s.setCtx n u c).layout = s.layout := rfl
@[simp] theorem State.setCtx_net (s : State) (n u : Nat) (c : Ctx) : (s.setCtx n u c).net = s.net := rfl
@[simp] theorem State.setCtx_links (s : State) (n u : Nat) (c : Ctx) : (s.setCtx n u c).links = s.links := rfl
@[simp] theorem State.setCtx_host (s : State) (n u : Nat) (c : Ctx) : (s.setCtx n u c).host = s.host := rfl
@[simp] theorem State.setCtx_flash (s : State) (n u : Nat) (c : Ctx) : (s.setCtx n u c).flash = s.flash := rfl
@[simp] theorem State.setCtx_sec (s : State) (n u : Nat) (c : Ctx) : (s.setCtx n u c).sec = s.sec := rfl
@[simp] theorem State.setCtx_pwr (s : State) (n u : Nat) (c : Ctx) : (s.setCtx n u c).pwr = s.pwr := rfl
@[simp] theorem State.setCtx_pins (s : State) (n u : Nat) (c : Ctx) : (s.setCtx n u c).pins = s.pins := rfl
@[simp] theorem State.setCtx_hubKeepers (s : State) (n u : Nat) (c : Ctx) : (s.setCtx n u c).hubKeepers = s.hubKeepers := rfl

/-! ### setUpd -/

@[simp] theorem State.setUpd_pending (s : State) (n u : Nat) (x : UpdCtx) : (s.setUpd n u x).pending = s.pending := rfl
@[simp] theorem State.setUpd_nowPs (s : State) (n u : Nat) (x : UpdCtx) : (s.setUpd n u x).nowPs = s.nowPs := rfl
@[simp] theorem State.setUpd_draws (s : State) (n u : Nat) (x : UpdCtx) : (s.setUpd n u x).draws = s.draws := rfl
@[simp] theorem State.setUpd_tuns (s : State) (n u : Nat) (x : UpdCtx) : (s.setUpd n u x).tuns = s.tuns := rfl
@[simp] theorem State.setUpd_cellar (s : State) (n u : Nat) (x : UpdCtx) : (s.setUpd n u x).cellar = s.cellar := rfl
@[simp] theorem State.setUpd_layout (s : State) (n u : Nat) (x : UpdCtx) : (s.setUpd n u x).layout = s.layout := rfl
@[simp] theorem State.setUpd_net (s : State) (n u : Nat) (x : UpdCtx) : (s.setUpd n u x).net = s.net := rfl
@[simp] theorem State.setUpd_links (s : State) (n u : Nat) (x : UpdCtx) : (s.setUpd n u x).links = s.links := rfl
@[simp] theorem State.setUpd_host (s : State) (n u : Nat) (x : UpdCtx) : (s.setUpd n u x).host = s.host := rfl
@[simp] theorem State.setUpd_flash (s : State) (n u : Nat) (x : UpdCtx) : (s.setUpd n u x).flash = s.flash := rfl
@[simp] theorem State.setUpd_sec (s : State) (n u : Nat) (x : UpdCtx) : (s.setUpd n u x).sec = s.sec := rfl
@[simp] theorem State.setUpd_pwr (s : State) (n u : Nat) (x : UpdCtx) : (s.setUpd n u x).pwr = s.pwr := rfl
@[simp] theorem State.setUpd_pins (s : State) (n u : Nat) (x : UpdCtx) : (s.setUpd n u x).pins = s.pins := rfl
@[simp] theorem State.setUpd_hubKeepers (s : State) (n u : Nat) (x : UpdCtx) : (s.setUpd n u x).hubKeepers = s.hubKeepers := rfl

/-! ### setMac -/

@[simp] theorem State.setMac_pending (s : State) (m : Nat) (x : Mac) : (s.setMac m x).pending = s.pending := rfl
@[simp] theorem State.setMac_nowPs (s : State) (m : Nat) (x : Mac) : (s.setMac m x).nowPs = s.nowPs := rfl
@[simp] theorem State.setMac_draws (s : State) (m : Nat) (x : Mac) : (s.setMac m x).draws = s.draws := rfl
@[simp] theorem State.setMac_dies (s : State) (m : Nat) (x : Mac) : (s.setMac m x).dies = s.dies := rfl
@[simp] theorem State.setMac_tuns (s : State) (m : Nat) (x : Mac) : (s.setMac m x).tuns = s.tuns := rfl
@[simp] theorem State.setMac_cellar (s : State) (m : Nat) (x : Mac) : (s.setMac m x).cellar = s.cellar := rfl
@[simp] theorem State.setMac_layout (s : State) (m : Nat) (x : Mac) : (s.setMac m x).layout = s.layout := rfl
@[simp] theorem State.setMac_net (s : State) (m : Nat) (x : Mac) : (s.setMac m x).net = { s.net with macs := s.net.macs.put m x } := rfl
@[simp] theorem State.setMac_links (s : State) (m : Nat) (x : Mac) : (s.setMac m x).links = s.links := rfl
@[simp] theorem State.setMac_host (s : State) (m : Nat) (x : Mac) : (s.setMac m x).host = s.host := rfl
@[simp] theorem State.setMac_flash (s : State) (m : Nat) (x : Mac) : (s.setMac m x).flash = s.flash := rfl
@[simp] theorem State.setMac_sec (s : State) (m : Nat) (x : Mac) : (s.setMac m x).sec = s.sec := rfl
@[simp] theorem State.setMac_pwr (s : State) (m : Nat) (x : Mac) : (s.setMac m x).pwr = s.pwr := rfl
@[simp] theorem State.setMac_pins (s : State) (m : Nat) (x : Mac) : (s.setMac m x).pins = s.pins := rfl
@[simp] theorem State.setMac_hubKeepers (s : State) (m : Nat) (x : Mac) : (s.setMac m x).hubKeepers = s.hubKeepers := rfl

/-! ### setLinkDir -/

@[simp] theorem State.setLinkDir_pending (s : State) (l dir : Nat) (x : LinkDir) : (s.setLinkDir l dir x).pending = s.pending := rfl
@[simp] theorem State.setLinkDir_nowPs (s : State) (l dir : Nat) (x : LinkDir) : (s.setLinkDir l dir x).nowPs = s.nowPs := rfl
@[simp] theorem State.setLinkDir_draws (s : State) (l dir : Nat) (x : LinkDir) : (s.setLinkDir l dir x).draws = s.draws := rfl
@[simp] theorem State.setLinkDir_dies (s : State) (l dir : Nat) (x : LinkDir) : (s.setLinkDir l dir x).dies = s.dies := rfl
@[simp] theorem State.setLinkDir_tuns (s : State) (l dir : Nat) (x : LinkDir) : (s.setLinkDir l dir x).tuns = s.tuns := rfl
@[simp] theorem State.setLinkDir_cellar (s : State) (l dir : Nat) (x : LinkDir) : (s.setLinkDir l dir x).cellar = s.cellar := rfl
@[simp] theorem State.setLinkDir_layout (s : State) (l dir : Nat) (x : LinkDir) : (s.setLinkDir l dir x).layout = s.layout := rfl
@[simp] theorem State.setLinkDir_net (s : State) (l dir : Nat) (x : LinkDir) : (s.setLinkDir l dir x).net = s.net := rfl
@[simp] theorem State.setLinkDir_links (s : State) (l dir : Nat) (x : LinkDir) : (s.setLinkDir l dir x).links = { s.links with dirs := s.links.dirs.put (2 * l + dir) x } := rfl
@[simp] theorem State.setLinkDir_host (s : State) (l dir : Nat) (x : LinkDir) : (s.setLinkDir l dir x).host = s.host := rfl
@[simp] theorem State.setLinkDir_flash (s : State) (l dir : Nat) (x : LinkDir) : (s.setLinkDir l dir x).flash = s.flash := rfl
@[simp] theorem State.setLinkDir_sec (s : State) (l dir : Nat) (x : LinkDir) : (s.setLinkDir l dir x).sec = s.sec := rfl
@[simp] theorem State.setLinkDir_pwr (s : State) (l dir : Nat) (x : LinkDir) : (s.setLinkDir l dir x).pwr = s.pwr := rfl
@[simp] theorem State.setLinkDir_pins (s : State) (l dir : Nat) (x : LinkDir) : (s.setLinkDir l dir x).pins = s.pins := rfl
@[simp] theorem State.setLinkDir_hubKeepers (s : State) (l dir : Nat) (x : LinkDir) : (s.setLinkDir l dir x).hubKeepers = s.hubKeepers := rfl

/-! ### setFound -/

@[simp] theorem State.setFound_pending (s : State) (n : Nat) (x : Found) : (s.setFound n x).pending = s.pending := rfl
@[simp] theorem State.setFound_nowPs (s : State) (n : Nat) (x : Found) : (s.setFound n x).nowPs = s.nowPs := rfl
@[simp] theorem State.setFound_draws (s : State) (n : Nat) (x : Found) : (s.setFound n x).draws = s.draws := rfl
@[simp] theorem State.setFound_dies (s : State) (n : Nat) (x : Found) : (s.setFound n x).dies = s.dies := rfl
@[simp] theorem State.setFound_tuns (s : State) (n : Nat) (x : Found) : (s.setFound n x).tuns = s.tuns := rfl
@[simp] theorem State.setFound_cellar (s : State) (n : Nat) (x : Found) : (s.setFound n x).cellar = s.cellar := rfl
@[simp] theorem State.setFound_layout (s : State) (n : Nat) (x : Found) : (s.setFound n x).layout = s.layout := rfl
@[simp] theorem State.setFound_net (s : State) (n : Nat) (x : Found) : (s.setFound n x).net = s.net := rfl
@[simp] theorem State.setFound_links (s : State) (n : Nat) (x : Found) : (s.setFound n x).links = { s.links with found := s.links.found.put n x } := rfl
@[simp] theorem State.setFound_host (s : State) (n : Nat) (x : Found) : (s.setFound n x).host = s.host := rfl
@[simp] theorem State.setFound_flash (s : State) (n : Nat) (x : Found) : (s.setFound n x).flash = s.flash := rfl
@[simp] theorem State.setFound_sec (s : State) (n : Nat) (x : Found) : (s.setFound n x).sec = s.sec := rfl
@[simp] theorem State.setFound_pwr (s : State) (n : Nat) (x : Found) : (s.setFound n x).pwr = s.pwr := rfl
@[simp] theorem State.setFound_pins (s : State) (n : Nat) (x : Found) : (s.setFound n x).pins = s.pins := rfl
@[simp] theorem State.setFound_hubKeepers (s : State) (n : Nat) (x : Found) : (s.setFound n x).hubKeepers = s.hubKeepers := rfl

/-! ### The parts read back -/

@[simp] theorem State.die_setDie_same (s : State) (n : Nat) (d : Die) : (s.setDie n d).die n = d := Tbl.get_put_same ..
theorem State.die_setDie_other (s : State) {n m : Nat} (d : Die) (h : m ≠ n) : (s.setDie n d).die m = s.die m :=
  Tbl.get_put_other _ _ _ h
@[simp] theorem State.die_setTun (s : State) (u n : Nat) (t : Tun) : (s.setTun u t).die n = s.die n := rfl
@[simp] theorem State.ctx_setTun (s : State) (u n v : Nat) (t : Tun) : (s.setTun u t).ctx n v = s.ctx n v := rfl
@[simp] theorem State.tun_setTun_same (s : State) (u : Nat) (t : Tun) : (s.setTun u t).tun u = t := Tbl.get_put_same ..
theorem State.tun_setTun_other (s : State) {u v : Nat} (t : Tun) (h : v ≠ u) : (s.setTun u t).tun v = s.tun v :=
  Tbl.get_put_other _ _ _ h
@[simp] theorem State.tun_setDie (s : State) (n u : Nat) (d : Die) : (s.setDie n d).tun u = s.tun u := rfl
@[simp] theorem State.tun_setCtx (s : State) (n u v : Nat) (c : Ctx) : (s.setCtx n u c).tun v = s.tun v := rfl
@[simp] theorem Die.ctx_setCtx_same (d : Die) (u : Nat) (c : Ctx) : (d.setCtx u c).ctx u = c := Tbl.get_put_same ..
theorem Die.ctx_setCtx_other (d : Die) {u v : Nat} (c : Ctx) (h : v ≠ u) : (d.setCtx u c).ctx v = d.ctx v :=
  Tbl.get_put_other _ _ _ h
@[simp] theorem State.ctx_setCtx_same (s : State) (n u : Nat) (c : Ctx) : (s.setCtx n u c).ctx n u = c := by
  simp [State.ctx, State.setCtx]
theorem State.ctx_setCtx_other (s : State) {n m u v : Nat} (c : Ctx) (h : m ≠ n ∨ v ≠ u) :
    (s.setCtx n u c).ctx m v = s.ctx m v := by
  by_cases hn : m = n
  · subst hn
    have hv : v ≠ u := h.resolve_left fun k => k rfl
    simp [State.ctx, State.setCtx, Die.ctx_setCtx_other _ _ hv]
  · simp [State.ctx, State.setCtx, State.die_setDie_other _ _ hn]
@[simp] theorem State.mac_setMac_same (s : State) (m : Nat) (x : Mac) : (s.setMac m x).mac m = x := Tbl.get_put_same ..
theorem State.mac_setMac_other (s : State) {m k : Nat} (x : Mac) (h : k ≠ m) : (s.setMac m x).mac k = s.mac k :=
  Tbl.get_put_other _ _ _ h
@[simp] theorem State.found_setFound_same (s : State) (n : Nat) (x : Found) : (s.setFound n x).found n = x := Tbl.get_put_same ..
theorem State.found_setFound_other (s : State) {n m : Nat} (x : Found) (h : m ≠ n) : (s.setFound n x).found m = s.found m :=
  Tbl.get_put_other _ _ _ h
@[simp] theorem State.linkDir_setLinkDir_same (s : State) (l dir : Nat) (x : LinkDir) : (s.setLinkDir l dir x).linkDir l dir = x :=
  Tbl.get_put_same ..

end Sys2Proof.Machine
end

