-- ==== Sys2Proof/Tests/Slice0.lean ====
section
/-! SUPPORT. Tests: commands whose operands lack their form, states that meet the premises of the statements, and single
steps against values that the spec's rules give. Each test is about one command on a small state. -/

namespace Sys2Proof.Tests

open Sys2Proof.Machine Sys2Proof.Claims

-- One test after another: evaluated all at once, the tests need more threads than the memory limit leaves room for.
set_option Elab.async false

/-! ### Operands that lack their form (R162, R176, R219, R284, R287, R314, R315, R337, R372, R374, R422) -/

theorem test_wf_page_length : (Instr.granaryPageReadReturn 0 0 0 0 [0] 0 false).wf = false := by decide +kernel
theorem test_wf_data_flit_kind : (Instr.dataFlit 0 0 0 0x20000 (List.replicate 128 0)).wf = false := by decide +kernel
theorem test_wf_data_flit_length : (Instr.dataFlit 0 0 0 0x10000 (List.replicate 127 0)).wf = false := by decide +kernel
theorem test_wf_data_flit_good : (Instr.dataFlit 0 0 0 0x10000 (List.replicate 128 0)).wf = true := by decide +kernel
theorem test_wf_last_flit_kind : (Instr.dataLastFlit 0 0 0 0x10000 (List.replicate 128 0)).wf = false := by decide +kernel
theorem test_wf_last_flit_length : (Instr.dataLastFlit 0 0 0 0x20000 []).wf = false := by decide +kernel
theorem test_wf_idle_flit : (Instr.idleFlit 0 0 0 0x10000).wf = false := by decide +kernel
theorem test_wf_token_flit : (Instr.tokenSetFlit 0 0 0 0).wf = false := by decide +kernel
theorem test_wf_window_credit_kind : (Instr.windowCreditReturn 0 0 0 0 []).wf = false := by decide +kernel
theorem test_wf_window_credit_count : (Instr.windowCreditReturn 0 0 0 0x40000 [5]).wf = false := by decide +kernel
theorem test_wf_link_credit_none : (Instr.linkCreditReturn 0 0 0 0x50000).wf = false := by decide +kernel
theorem test_wf_link_credit_many : (Instr.linkCreditReturn 0 0 0 (0x50000 + 65 * 2 ^ 50)).wf = false := by decide +kernel
theorem test_wf_link_credit_good : (Instr.linkCreditReturn 0 0 0 (0x50000 + 64 * 2 ^ 50)).wf = true := by decide +kernel
theorem test_wf_read_request_kind : (Instr.memoryReadRequest 0 0 0 0 0 1).wf = false := by decide +kernel
theorem test_wf_read_request_length : (Instr.memoryReadRequest 0 0 0 0x60000 0 0).wf = false := by decide +kernel
theorem test_wf_read_data : (Instr.memoryReadData 0 0 0 0x70000 (List.replicate 129 0)).wf = false := by decide +kernel
theorem test_wf_memory_write : (Instr.memoryWrite 0 0 0 0x80000 0 (List.replicate 129 0)).wf = false := by decide +kernel
theorem test_wf_replay_request : (Instr.replayRequest 0 0 0 0xA0000).wf = false := by decide +kernel
theorem test_wf_link_credit_kind : (Instr.linkCreditReturn 0 0 0 (2 ^ 50)).wf = false := by decide +kernel
theorem test_wf_read_request_address : (Instr.memoryReadRequest 0 0 0 0x60000 (2 ^ 64) 1).wf = false := by decide +kernel
theorem test_wf_read_data_kind : (Instr.memoryReadData 0 0 0 0 []).wf = false := by decide +kernel
theorem test_wf_memory_write_kind : (Instr.memoryWrite 0 0 0 0 0 []).wf = false := by decide +kernel
theorem test_wf_step_outcome : (Instr.stepOutcome 0 0 0 0x80000).wf = false := by decide +kernel
theorem test_wf_issue_count : (Instr.issueCount 0 0 0 0x90000 64).wf = false := by decide +kernel
theorem test_wf_issue_count_range : (Instr.issueCount 0 0 0 0xA0000 (2 ^ 64)).wf = false := by decide +kernel
theorem test_wf_control_flit : (Instr.controlFlit 0 0 (List.replicate 64 0) []).wf = false := by decide +kernel
theorem test_wf_data_payload : (Instr.data 0 0 (List.replicate 8193 0)).wf = false := by decide +kernel
theorem test_wf_wake_frame : (Instr.wakePatternMatch 0 (List.replicate 9217 0)).wf = false := by decide +kernel
theorem test_wf_digest_step : (Instr.digestExchange 0 0 1 (2 ^ 48) (List.replicate 64 0)).wf = false := by decide +kernel
theorem test_wf_digest : (Instr.digestExchange 0 0 1 0 (List.replicate 63 0)).wf = false := by decide +kernel
theorem test_wf_priority : (Instr.pfc 0 [(8, 1)]).wf = false := by decide +kernel
theorem test_wf_tap_number : (Instr.cxlLinkUp [(1024, 0)] .x8 false false).wf = false := by decide +kernel
theorem test_wf_status_bytes : (Instr.statusWindowWrite 0 0 0).wf = false := by decide +kernel
theorem test_wf_challenge : (Instr.challenge 0 []).wf = false := by decide +kernel
theorem test_wf_measurements : (Instr.getMeasurements 1 true []).wf = false := by decide +kernel
theorem test_wf_key_exchange : (Instr.keyExchange (List.replicate 31 0)).wf = false := by decide +kernel
theorem test_wf_secret : (Instr.setTunSecret 0 0 (List.replicate 33 0) [] true).wf = false := by decide +kernel
theorem test_wf_imports : (Instr.setTunSecret 0 0 (List.replicate 32 0) [[], [], [], [], []] true).wf = false := by decide +kernel
theorem test_wf_import_length : (Instr.setTunSecret 0 0 (List.replicate 32 0) [[]] true).wf = false := by decide +kernel
theorem test_wf_ue_scratchpad : (Instr.uncorrectableError 0 0 .scratchpad (2 ^ 28) false).wf = false := by decide +kernel
theorem test_wf_ue_loft : (Instr.uncorrectableError 0 0 .loft (2 ^ 32 + 0x60000000) false).wf = false := by decide +kernel
theorem test_wf_ce_scratchpad : (Instr.correctableError 0 0 0 512).wf = false := by decide +kernel
theorem test_wf_ce_loft : (Instr.correctableError 0 1 32 0).wf = false := by decide +kernel
theorem test_wf_ce_cellar : (Instr.correctableError 0 3 6 0).wf = false := by decide +kernel
theorem test_wf_pulse_lanes : (Instr.extestPulse []).wf = false := by decide +kernel
theorem test_wf_train_lanes : (Instr.extestTrain [true]).wf = false := by decide +kernel
theorem test_wf_announce : (Instr.ptpAnnounce 0 0 256 0 0 0 0 0 0).wf = false := by decide +kernel

/-! ### Slices at the gate -/

/-- Tun 0 on die 0, loaded, running one slice of a stream; the context may be changed. -/
def atSlice (x : Slice) (f : Ctx → Ctx := id) (g : Die → Die := id) : State :=
  { State.reset with
    pwr := { State.reset.pwr with state := .run }
    layout := { tuns := [(0, BitVec.ofNat 1024 (5 + 4096 * 2 ^ 48))] }
    tuns := [(0, { loaded := true })]
    dies := [(0, g { slice := { cur := some 0, idle := false },
                     ctxs := [(0, f { resident := true, stream := [(0, x)], streamLen := 1 })] })] }

/-- A slice command meets its slice at the gate and the gate lets it go. -/
def Goes (c : Instr) (x : Slice) (f : Ctx → Ctx := id) (g : Die → Die := id) : Prop :=
  AtGate c (atSlice x f g) 0 0 x ∧ gateAnswer (atSlice x f g) 0 0 x = .go

/-- What meets the premises of a slice statement, shown by evaluation. -/
def tables (c : Ctx) : Ctx :=
  let row (lvl rows : Nat) : BitVec 128 := BitVec.ofNat 128 (lvl + 32 * 2 ^ 8 + rows * 2 ^ 35 + 2 * 2 ^ 57)
  { c with
    windows := [(1, row 2 1024), (2, row 3 1024), (3, BitVec.ofNat 128 (1 + 20 * 2 ^ 8 + 20 * 2 ^ 15 + 2 ^ 51 + 2 ^ 56 + 63 * 2 ^ 73)), (4, row 2 1)]
    descs := [(5, BitVec.ofNat 512 (2 ^ 14 + 1 + 8 + 1030 * 2 ^ 36 + 64 * 2 ^ 144 + 2 ^ 168))]
    tokens := [(1, .present), (3, .present), (4, .present)], arrives := 1 }

theorem witness_next : Goes (.nextSlice 0) (0) tables :=
  ⟨⟨⟨_, rfl, by decide +kernel⟩, by decide +kernel, by decide +kernel, by decide +kernel, by decide +kernel⟩, by decide +kernel⟩
theorem witness_loop_start : Goes (.loopStart 0) (1 + 7 * 2 ^ 5 + 3 * 2 ^ 8) tables :=
  ⟨⟨⟨_, rfl, by decide +kernel⟩, by decide +kernel, by decide +kernel, by decide +kernel, by decide +kernel⟩, by decide +kernel⟩
theorem witness_loop_end_last : Goes (.loopEnd 0) (2) (fun c => { c with loops := [(0, { isOpen := true, count := 1 })] }) :=
  ⟨⟨⟨_, rfl, by decide +kernel⟩, by decide +kernel, by decide +kernel, by decide +kernel, by decide +kernel⟩, by decide +kernel⟩
theorem witness_loop_end_again : Goes (.loopEnd 0) (2 + 2 ^ 28) (fun c => { c with loops := [(0, { isOpen := true, count := 2 })] }) :=
  ⟨⟨⟨_, rfl, by decide +kernel⟩, by decide +kernel, by decide +kernel, by decide +kernel, by decide +kernel⟩, by decide +kernel⟩
theorem witness_repeat_last : Goes (.repeatSlice 0) (3 + 2 ^ 8) tables :=
  ⟨⟨⟨_, rfl, by decide +kernel⟩, by decide +kernel, by decide +kernel, by decide +kernel, by decide +kernel⟩, by decide +kernel⟩
theorem witness_repeat_again : Goes (.repeatSlice 0) (3) tables :=
  ⟨⟨⟨_, rfl, by decide +kernel⟩, by decide +kernel, by decide +kernel, by decide +kernel, by decide +kernel⟩, by decide +kernel⟩
theorem witness_jump : Goes (.jump 0) (4 + (2 ^ 22 - 1) * 2 ^ 28) tables :=
  ⟨⟨⟨_, rfl, by decide +kernel⟩, by decide +kernel, by decide +kernel, by decide +kernel, by decide +kernel⟩, by decide +kernel⟩
theorem witness_step_end : Goes (.stepEnd 0) (5) tables :=
  ⟨⟨⟨_, rfl, by decide +kernel⟩, by decide +kernel, by decide +kernel, by decide +kernel, by decide +kernel⟩, by decide +kernel⟩
theorem witness_halt : Goes (.halt 0) (6) tables :=
  ⟨⟨⟨_, rfl, by decide +kernel⟩, by decide +kernel, by decide +kernel, by decide +kernel, by decide +kernel⟩, by decide +kernel⟩
theorem witness_seal : Goes (.sealPoint 0) (16) (fun c => { c with sinceSeal := 2499 }) :=
  ⟨⟨⟨_, rfl, by decide +kernel⟩, by decide +kernel, by decide +kernel, by decide +kernel, by decide +kernel⟩, by decide +kernel⟩
theorem witness_barrier_arrive : Goes (.dieBarrierArrive 0) (2 ^ 120) tables :=
  ⟨⟨⟨_, rfl, by decide +kernel⟩, by decide +kernel, by decide +kernel, by decide +kernel, by decide +kernel⟩, by decide +kernel⟩
theorem witness_barrier_wait : Goes (.dieBarrierWait 0) (2 * 2 ^ 120) tables :=
  ⟨⟨⟨_, rfl, by decide +kernel⟩, by decide +kernel, by decide +kernel, by decide +kernel, by decide +kernel⟩, by decide +kernel⟩
theorem witness_generator : Goes (.generatorAdvance 0) (3 * 2 ^ 120) tables :=
  ⟨⟨⟨_, rfl, by decide +kernel⟩, by decide +kernel, by decide +kernel, by decide +kernel, by decide +kernel⟩, by decide +kernel⟩
theorem witness_step_close : Goes (.stepClose 0) (0x10 * 2 ^ 120) tables :=
  ⟨⟨⟨_, rfl, by decide +kernel⟩, by decide +kernel, by decide +kernel, by decide +kernel, by decide +kernel⟩, by decide +kernel⟩
theorem witness_bucket_arm : Goes (.armBucket 0) (2 ^ 448 + 0xFFFF * 2 ^ 452) tables :=
  ⟨⟨⟨_, rfl, by decide +kernel⟩, by decide +kernel, by decide +kernel, by decide +kernel, by decide +kernel⟩, by decide +kernel⟩
theorem witness_bucket_close : Goes (.closeBucket 0) (2 * 2 ^ 448) tables :=
  ⟨⟨⟨_, rfl, by decide +kernel⟩, by decide +kernel, by decide +kernel, by decide +kernel, by decide +kernel⟩, by decide +kernel⟩
theorem witness_sketch_flush : Goes (.flushSketchSums 0) (3 * 2 ^ 448) tables :=
  ⟨⟨⟨_, rfl, by decide +kernel⟩, by decide +kernel, by decide +kernel, by decide +kernel, by decide +kernel⟩, by decide +kernel⟩
theorem witness_pass : Goes (.pass 0) ((1 + 3 * 2 ^ 5 + 3 * 2 ^ 15 + 2 ^ 25 + 2 ^ 30 + 2 ^ 47 + 4 * 2 ^ 59) * 2 ^ 128) tables :=
  ⟨⟨⟨_, rfl, by decide +kernel⟩, by decide +kernel, by decide +kernel, by decide +kernel, by decide +kernel⟩, by decide +kernel⟩
theorem witness_preload : Goes (.preload 0) ((2 + 2 ^ 4 + 4 * 2 ^ 37) * 2 ^ 128) tables :=
  ⟨⟨⟨_, rfl, by decide +kernel⟩, by decide +kernel, by decide +kernel, by decide +kernel, by decide +kernel⟩, by decide +kernel⟩
theorem witness_drain : Goes (.drain 0) (3 * 2 ^ 128 + (0x50 + 2 ^ 8 + 2 * 2 ^ 28 + 2 ^ 52 + 256 * 2 ^ 53) * 2 ^ 224) tables (fun d => { d with bank0 := { state := .holding, passEnd := some 0 }, cycle := 1 }) :=
  ⟨⟨⟨_, rfl, by decide +kernel⟩, by decide +kernel, by decide +kernel, by decide +kernel, by decide +kernel⟩, by decide +kernel⟩
theorem witness_add : Goes (.add 0 0) ((1 + 2 ^ 8 + 2 ^ 18 + 2 * 2 ^ 28 + 2 ^ 53) * 2 ^ 224) tables :=
  ⟨⟨⟨_, rfl, by decide +kernel⟩, by decide +kernel, by decide +kernel, by decide +kernel, by decide +kernel⟩, by decide +kernel⟩
theorem witness_relu : Goes (.relu 0 1) ((0x18 + 2 ^ 8 + 2 * 2 ^ 28 + 2 ^ 53) * 2 ^ 288) tables :=
  ⟨⟨⟨_, rfl, by decide +kernel⟩, by decide +kernel, by decide +kernel, by decide +kernel, by decide +kernel⟩, by decide +kernel⟩
theorem witness_softmax : Goes (.smInit 0 0) ((0x60 + 2 * 2 ^ 28 + 2 ^ 53) * 2 ^ 224) tables :=
  ⟨⟨⟨_, rfl, by decide +kernel⟩, by decide +kernel, by decide +kernel, by decide +kernel, by decide +kernel⟩, by decide +kernel⟩
theorem witness_launch : Goes (.launch 0 3) ((1 + 5 * 2 ^ 2) * 2 ^ 424) tables :=
  ⟨⟨⟨_, rfl, by decide +kernel⟩, by decide +kernel, by decide +kernel, by decide +kernel, by decide +kernel⟩, by decide +kernel⟩
theorem witness_launch_after : Goes (.launchAfter 0 0) ((2 + 5 * 2 ^ 2) * 2 ^ 352) tables :=
  ⟨⟨⟨_, rfl, by decide +kernel⟩, by decide +kernel, by decide +kernel, by decide +kernel, by decide +kernel⟩, by decide +kernel⟩
theorem witness_hint_release : Goes (.hintRelease 0 1) ((37 + 3 * 2 ^ 6) * 2 ^ 496) tables :=
  ⟨⟨⟨_, rfl, by decide +kernel⟩, by decide +kernel, by decide +kernel, by decide +kernel, by decide +kernel⟩, by decide +kernel⟩
theorem witness_hint_wake_clock : Goes (.hintWakeClock 0 0) ((21 + 2 ^ 6) * 2 ^ 480) tables (fun d => { d with keepers := [(21, { power := .clockGated })] }) :=
  ⟨⟨⟨_, rfl, by decide +kernel⟩, by decide +kernel, by decide +kernel, by decide +kernel, by decide +kernel⟩, by decide +kernel⟩
theorem witness_hint_wake_power : Goes (.hintWakePower 0 0) ((39 + 2 * 2 ^ 6) * 2 ^ 480) tables :=
  ⟨⟨⟨_, rfl, by decide +kernel⟩, by decide +kernel, by decide +kernel, by decide +kernel, by decide +kernel⟩, by decide +kernel⟩

/-- A slice that the gate holds: a missing source, a busy unit, a sleeping domain, a drain in flight at a seal. -/
theorem witness_waits :
    let s1 := atSlice (2 ^ 77 + 1030 * 2 ^ 64)
    let s2 := atSlice ((0x18 + 2 ^ 8 + 2 * 2 ^ 28 + 2 ^ 53) * 2 ^ 224) tables fun d =>
      { d with vec0 := [{ tun := 0, op := 1, lastBegin := 100, rowCycles := 1, doneAt := 110 }] }
    let s3 := atSlice (3 * 2 ^ 448) tables fun d => { d with keepers := [(29, { power := .powerGated })] }
    let s4 := atSlice 16 tables fun d => { d with bank0 := { state := .draining } }
    gateAnswer s1 0 0 (2 ^ 77 + 1030 * 2 ^ 64) = .wait .src
    ∧ gateAnswer s2 0 0 ((0x18 + 2 ^ 8 + 2 * 2 ^ 28 + 2 ^ 53) * 2 ^ 224) = .wait .busy
    ∧ gateAnswer s3 0 0 (3 * 2 ^ 448) = .wait .wake ∧ 29 ∈ wakeDemand (s3.gateIn 0 0 (3 * 2 ^ 448)) (s3.die 0) (s3.ctx 0 0) (3 * 2 ^ 448)
    ∧ gateAnswer s4 0 0 16 = .wait .sealed := by decide +kernel

/-- Slices that make a program fault: a reserved bit, a 2,500th slice without a seal point, a seal over live data. -/
theorem witness_faults :
    let s1 := atSlice (2 ^ 54)
    let s2 := atSlice 0 fun c => { c with sinceSeal := 2499 }
    let s3 := atSlice 16 id fun d => { d with bank1 := { state := .preloaded } }
    gateAnswer s1 0 0 (2 ^ 54) = .fault .illegalSlice ∧ gateAnswer s2 0 0 0 = .fault .sealSpacing
    ∧ gateAnswer s3 0 0 16 = .fault .sealViolation ∧ (s1.tun 0).loaded = true ∧ (s1.diesOf 0).contains 0 = true := by decide +kernel

/-! ### Dies -/

/-- The running device with one die. -/
def die (d : Die) : State := { State.reset with pwr := { State.reset.pwr with state := .run }, dies := [(0, d)] }
/-- The running device with one tun on die 0, resident, with a context. -/
def tun (t : Tun) (c : Ctx := {}) (d : Die := {}) : State :=
  { die { d with ctxs := [(0, { c with resident := true })] } with
    tuns := [(0, { t with loaded := true })], layout := { tuns := [(0, BitVec.ofNat 1024 (5 + 16 * 2 ^ 10 + 12 * 2 ^ 20 + 4096 * 2 ^ 48 + 4 * 2 ^ 104 + 2 ^ 208))] } }

/-- A MAC_PORT record of one direct MAC whose lanes are in order, with more bits. -/
def portWord (more : Nat) : BitVec 128 := BitVec.ofNat 128 (1 + 2 ^ 5 + 0xFAC688 * 2 ^ 9 + more)
/-- MAC 0 up on such a port. -/
def up (s : State) : State := { s with net := { s.net with ports := [(0, portWord 0)], macs := [(0, { link := .up, lanes := 8 })] } }

/-- A tun with a run of one granule in parity group 0. -/
def stored (cls : Nat) (t : Tun := {}) : State :=
  { tun t with layout := { tuns := [(0, (tun t).lay 0 + BitVec.ofNat 1024 (2 ^ 176))], runs := [(0, BitVec.ofNat 64 (2 ^ 17 + cls * 2 ^ 32))] } }

/-- Dies 0 and 1 joined by a memory-forwarding group each way, for the traffic of their parity group. -/
def linked (s : State) : State := { s with links := { s.links with dirs := [(16, { roles := [(0, 1)] }), (17, { roles := [(0, 1)] })] } }
/-- Parity group 0 rebuilds what its second interface held. -/
def rebuilding (s : State) : State := { s with cellar := { s.cellar with groups := [(0, { state := .rebuilding, failed := some 1 })] } }

theorem witness_die_work :
    let job : VecJob := { tun := 0, op := 1, lastBegin := 1, rowCycles := 1, doneAt := 9, dst := [7] }
    let tile : Tile := { tun := 0, bank := 0, drained := true }
    let late (e : Int) (again : Bool) : Tile :=
      { tile with delayed := true, lastRead := true, fmt := 3, amax := 0x3F800000, expD := e, recomputed := again, slot := some 3,
                  log := [{ array := 0, vec0 := 0, vec1 := 0, genPos := 0 }] }
    let s := die { bank0 := { state := .accumulating }, vec1 := [job] }
    let t := die { bank0 := { state := .draining }, tiles := [tile] }
    (s.die 0).bank 0 = { state := .accumulating } ∧ s.pwr.state ≠ .stopped ∧ (s.die 0).vec 1 = [job] ∧ job.drain = none
    ∧ ((t.die 0).bank 0).state = .draining
    ∧ (t.die 0).tiles.find? (fun y => y.bank == 0 && y.drained && !y.lastRead) = some tile ∧ tile.delayed = false
    ∧ (s.die 0).dueTile 0 = none
    ∧ ((die { tiles := [late 0 false] }).die 0).dueTile 0 = some (late 0 false) ∧ overflowed 0x3F800000 0 .e4m3 = false
    ∧ (Val.of32 0x3F800000).nonfinite = false ∧ overflowed 0x3F800000 (-9) .e4m3 = true
    ∧ ((die { tiles := [late (-9) true] }).die 0).dueTile 0 = some (late (-9) true) := by decide +kernel

theorem witness_column_test :
    let f : ColFault := { col := 131, tun := 0, stoppedAt := 0 }
    let s := die { colFaults := [f] }
    let t := die { colFaults := [f], badMap := [1, 2, 3, 4], transients := [(131, 2)] }
    (s.die 0).colFaults = [f] ∧ f.spare = none ∧ (s.die 0).badMap.length < 4 ∧ 4 ≤ (t.die 0).badMap.length
    ∧ 2 ≤ Tbl.get 0 (t.die 0).transients 131 ∧ Tbl.get 0 (s.die 0).transients 131 = 0 ∧ (s.die 0).lost = false
    ∧ (s.die 0).arr.fenced = false ∧ 131 ∉ (s.die 0).badMap := by decide +kernel

theorem witness_idle_gate :
    let s := die { waiting := 2048, keepers := [(29, { waking := true }), (18, { fenced := true })] }
    (s.die 0).waiting = 2048 ∧ s.sealedDie 0 = false ∧ (s.die 0).busy 0 = false ∧ ((s.die 0).keeper 0).power = .on
    ∧ ((die { waiting := 80000 }).die 0).waiting = 80000 := by decide +kernel

theorem witness_tokens :
    let s := tun {} { tokens := [(1, .pending), (2, .present)] }
    (s.ctx 0 0).resident = true ∧ (s.ctx 0 0).tok 1 = .pending ∧ (s.ctx 0 0).tok 2 = .present ∧ (s.ctx 0 0).tok 4095 = .empty
    ∧ (s.tun 0).loaded = true ∧ (s.diesOf 0).contains 0 = true := by decide +kernel

theorem witness_launches :
    let copy : MovJob := { tun := 0, slot := 5, mover := 0, desc := 1 }
    let out : MovJob := { tun := 0, slot := 6, mover := 0, desc := 16 }
    let page : MovJob := { tun := 0, slot := 7, mover := 1, desc := BitVec.ofNat 512 (2 + 2 ^ 144 + 2 ^ 168), sent := [0] }
    let s := tun {} {} { movs := [copy, out, page, { copy with slot := 8, pagesOut := true }, { copy with slot := 9, void := true }] }
    let f := tun {} { upd := { forwards := [{ keys := [3], bytes := 4, posted := [] }] } } { movs := [copy] }
    (s.die 0).mov 0 5 = some copy ∧ s.movReady 0 copy = true ∧ s.heldLines copy = [] ∧ mdDstLvl copy.desc = 0 ∧ mdXform copy.desc = 0
    ∧ (s.die 0).mov 0 6 = some out ∧ mdDstLvl out.desc = 2 ∧ s.movReady 0 out = true
    ∧ (s.die 0).mov 0 7 = some page ∧ s.movReady 0 page = false ∧ 0 ∈ page.sent ∧ page.pages.find 0 = none
    ∧ (f.die 0).mov 0 5 = some copy ∧ copy.pagesOut = false ∧ (f.upd 0 0).forwards = [{ keys := [3], bytes := 4, posted := [] }]
    ∧ ((s.die 0).mov 0 8).isSome = true ∧ ((s.die 0).mov 0 9).map MovJob.void = some true := by decide +kernel

theorem witness_domains :
    let s := die { keepers := [(1, { waking := true }), (2, { fenced := true }), (3, { stopHeld := true })], vec0 := [{ tun := 0, op := 1, lastBegin := 1, rowCycles := 1, doneAt := 9 }] }
    (s.keeperAt 1).waking = true ∧ (s.keeperAt 1).fenced = false ∧ (s.keeperAt 2).fenced = true ∧ (s.keeperAt 3).stopHeld = true
    ∧ s.domainBusy 19 = true ∧ s.domainBusy 0 = false ∧ s.gateTo 0 true = true ∧ s.domainBusy 351 = false := by decide +kernel

theorem witness_slice_times :
    let on (x : SliceState) : State := tun { ts := some [] } {} { slice := { x with cur := some 0, idle := false } }
    let s := on { switching := true }
    let t := on {}
    let sealed : State := { t with layout := { tuns := [(0, BitVec.ofNat 1024 7)] } }
    (s.die 0).slice.cur = some 0 ∧ (s.die 0).slice.switching = true ∧ s.net.ptp.bushel < 1 ∧ (s.die 0).lost = false
    ∧ t.canRun 0 0 = true ∧ (t.die 0).slice.suspended = false ∧ (t.die 0).slice.switching = false
    ∧ sealed.sealedDie 0 = true ∧ sealed.canRun 0 0 = true ∧ sealed.pwr.throttle = 0 ∧ (sealed.diesOf 0).contains 0 = true := by decide +kernel

/-! ### Links -/

/-- A framing word of a kind with a tag, from a die to another, without its CRC. -/
def fl (kind tag src dst seq : Nat) : BitVec 64 := BitVec.ofNat 64 (kind * 2 ^ 16 + dst * 2 ^ 20 + src * 2 ^ 24 + seq * 2 ^ 33 + tag * 2 ^ 50)
/-- A framing word with a CRC. -/
def withCrc (f : BitVec 64) (c : BitVec 16) : BitVec 64 := f ||| c.setWidth 64
/-- The CRC of a framing word and its payload (R314). -/
def crcOf (f : BitVec 64) (p : Bytes) : BitVec 16 := crc16 (pad128 p ++ bytesOfNat 6 (field f 16 48))
/-- A framing word with its right CRC. -/
def good (f : BitVec 64) (p : Bytes := []) : BitVec 64 := withCrc f (crcOf f p)

theorem toNat_withCrc (f : BitVec 64) (c : BitVec 16) : (withCrc f c).toNat = f.toNat ||| c.toNat := by
  rw [withCrc, BitVec.toNat_or, BitVec.toNat_setWidth, Nat.mod_eq_of_lt (Nat.lt_of_lt_of_le c.isLt (by decide))]

theorem field_withCrc (f : BitVec 64) (c : BitVec 16) (lo w : Nat) (h : 16 ≤ lo) : field (withCrc f c) lo w = field f lo w := by
  have hc : c.toNat >>> lo = 0 := by
    rw [Nat.shiftRight_eq_div_pow]
    exact Nat.div_eq_of_lt (Nat.lt_of_lt_of_le c.isLt (Nat.pow_le_pow_right (by decide) h))
  simp only [field, bitsOf, toNat_withCrc, ← Nat.shiftRight_eq_div_pow, Nat.shiftRight_or_distrib, hc, Nat.or_zero]

theorem flitCrcOk_withCrc (f : BitVec 64) (c : BitVec 16) (p : Bytes) (h : field f 0 16 = 0) :
    flitCrcOk (withCrc f c) (pad128 p) = (crcOf f p == c) := by
  have hl : field (withCrc f c) 0 16 = c.toNat := by
    have h0 : f.toNat % 2 ^ 16 = 0 := by simpa [field, bitsOf] using h
    simp only [field, bitsOf, toNat_withCrc, Nat.pow_zero, Nat.div_one, Nat.or_mod_two_pow, h0, Nat.zero_or]
    exact Nat.mod_eq_of_lt c.isLt
  rw [flitCrcOk, hl, field_withCrc f c 16 48 (Nat.le_refl _), ← crcOf, Bool.eq_iff_iff]
  simp [BitVec.toNat_eq]

/-- What a framing word is read for apart from its CRC. -/
theorem reads_withCrc (f : BitVec 64) (c : BitVec 16) : flKind (withCrc f c) = flKind f ∧ flTag (withCrc f c) = flTag f
    ∧ flSrc (withCrc f c) = flSrc f ∧ flDst (withCrc f c) = flDst f ∧ flSeq (withCrc f c) = flSeq f ∧ flTun (withCrc f c) = flTun f := by
  refine ⟨?_, ?_, ?_, ?_, ?_, ?_⟩ <;> exact field_withCrc _ _ _ _ (by decide)

theorem groupFor_withCrc (s : State) (x : LinkDir) (l g k : Nat) (f : BitVec 64) (c : BitVec 16) :
    s.groupFor x l g k (withCrc f c) = s.groupFor x l g k f := by
  have h := reads_withCrc f c
  unfold State.groupFor State.flitRole State.rerouted
  rw [h.1, h.2.2.1, h.2.2.2.1, h.2.2.2.2.2]

theorem lastDue_withCrc (x : LinkDir) (f : BitVec 64) (c : BitVec 16) (p : Bytes) : x.lastDue (withCrc f c) p = x.lastDue f p := by
  have h := reads_withCrc f c
  simp only [LinkDir.lastDue, h]

/-- A working group, its parts in one decision. -/
theorem works (s : State) (l : LinkId) (dir : Fin 2) (g : Fin 16)
    (h : g.val < linkGroups l ∧ (s.linkDir l dir).off = false ∧ s.linkAwake l = true ∧ ((s.linkDir l dir).group g).retired = false
      ∧ ((s.linkDir l dir).group g).stopped = false ∧ ((s.linkDir l dir).group g).waits = false) : GroupWorks s l dir g := h

/-- A flit offered, from what its framing word says without the CRC, its parts in one decision. -/
theorem offered {s : State} {l : LinkId} {dir : Fin 2} {g : Fin 16} {kind : Nat} {f : BitVec 64} {p : Bytes}
    (h : (g.val < linkGroups l ∧ (s.linkDir l dir).off = false ∧ s.linkAwake l = true ∧ ((s.linkDir l dir).group g).retired = false
      ∧ ((s.linkDir l dir).group g).stopped = false ∧ ((s.linkDir l dir).group g).waits = false)
      ∧ field f 0 16 = 0 ∧ flKind f = kind ∧ (s.groupFor (s.linkDir l dir) l g kind f = true ∧ (s.linkDir l dir).giving l g = false
      ∧ ((s.linkDir l dir).group g).retry.length < 64) ∧ flSeq f = ((s.linkDir l dir).group g).nextSeq)
    (hl : kind = 2 → (s.linkDir l dir).lastDue f p = true) : Offered s l dir g kind (good f p) p := by
  obtain ⟨hw, h0, hk, hm, hs⟩ := h
  have r := reads_withCrc f (crcOf f p)
  exact ⟨hw, (flitCrcOk_withCrc f _ p h0).trans (beq_self_eq_true _), r.1.trans hk, fun _ => ⟨(groupFor_withCrc ..).trans hm.1, hm.2⟩,
    r.2.2.2.2.1.trans hs, fun e => (lastDue_withCrc ..).trans (hl e)⟩

theorem accepted {s : State} {l : LinkId} {dir : Fin 2} {g : Fin 16} {kind : Nat} {f : BitVec 64} {p : Bytes}
    (h : Offered s l dir g kind (good f p) p) (hb : 0 < ((s.linkDir l dir).group g).credits
      ∧ s.bufferFor ((s.linkDir l dir).group g) ((s.linkDir l dir).role g) (flTun f) = true) : Accepted s l dir g kind (good f p) p :=
  ⟨h, fun _ => ⟨hb.1, (reads_withCrc f (crcOf f p)).2.2.2.2.2 ▸ hb.2⟩⟩

/-- The ring link from die 0 to die 1 with a group of the compute role and one of the memory-forwarding role, and die 0's hub link. -/
def ring : State := { State.reset with links := { State.reset.links with dirs := [(16, { roles := [(0, 0), (1, 1)] }), (1, { roles := [(0, 0)] })] } }
/-- The kinds of flit, each with a group of its role and a payload. -/
def flitKinds : List (Nat × Fin 16 × Bytes) :=
  [(0, 0, []), (1, 0, [7]), (2, 0, List.replicate 128 0), (3, 0, [1, 0, 0]), (4, 0, [5, 0]), (5, 0, []), (6, 1, List.replicate 16 1), (7, 1, [7]),
   (8, 1, List.replicate 9 1), (10, 0, [0, 0, 0, 0, 0, 0, 0, 0, 0]), (11, 0, [])]

theorem ring_offers : ∀ p ∈ flitKinds, (p.2.1.val < linkGroups 8 ∧ (ring.linkDir 8 0).off = false ∧ ring.linkAwake 8 = true
      ∧ ((ring.linkDir 8 0).group p.2.1).retired = false ∧ ((ring.linkDir 8 0).group p.2.1).stopped = false ∧ ((ring.linkDir 8 0).group p.2.1).waits = false)
    ∧ field (fl p.1 0 0 1 0) 0 16 = 0 ∧ flKind (fl p.1 0 0 1 0) = p.1 ∧ (ring.groupFor (ring.linkDir 8 0) 8 p.2.1 p.1 (fl p.1 0 0 1 0) = true
      ∧ (ring.linkDir 8 0).giving 8 p.2.1 = false ∧ ((ring.linkDir 8 0).group p.2.1).retry.length < 64)
    ∧ flSeq (fl p.1 0 0 1 0) = ((ring.linkDir 8 0).group p.2.1).nextSeq := by decide +kernel

theorem ring_buffers : ∀ p ∈ flitKinds, (p.1 = 2 → (ring.linkDir 8 0).lastDue (fl p.1 0 0 1 0) p.2.2 = true)
    ∧ 0 < ((ring.linkDir 8 0).group p.2.1).credits
    ∧ ring.bufferFor ((ring.linkDir 8 0).group p.2.1) ((ring.linkDir 8 0).role p.2.1) (flTun (fl p.1 0 0 1 0)) = true := by decide +kernel

/-- A flit of each kind that a group of its role accepts. -/
theorem witness_flit_kinds : ∀ p ∈ flitKinds, Accepted ring 8 0 p.2.1 p.1 (good (fl p.1 0 0 1 0) p.2.2) p.2.2 := fun p hp =>
  accepted (offered (ring_offers p hp) (ring_buffers p hp).1) (ring_buffers p hp).2

/-- A step outcome from the hub on die 0's own link. -/
theorem witness_outcome_flit : let p := outcomePayload (ring.tun 0)
    Accepted ring 0 1 0 9 (good (fl 9 0 8 0 0) p) p ∧ flDst (good (fl 9 0 8 0 0) p) = 0 ∧ flTun (good (fl 9 0 8 0 0) p) = 0 :=
  have r := reads_withCrc (fl 9 0 8 0 0) (crcOf (fl 9 0 8 0 0) (outcomePayload (ring.tun 0)))
  ⟨accepted (offered (by decide +kernel) (by decide)) (by decide +kernel), r.2.2.2.1.trans (by decide +kernel), r.2.2.2.2.2.trans (by decide +kernel)⟩

/-- A flit from die 0 comes to die 1 over the ring link, whatever its CRC. -/
theorem witness_arrives (kind tag : Nat) (c : BitVec 16) (h : ring.arrived 8 0 (fl kind tag 0 1 0) = true) :
    ring.arrived 8 0 (withCrc (fl kind tag 0 1 0) c) = true := by
  have r := reads_withCrc (fl kind tag 0 1 0) c
  simpa only [State.arrived, r] using h

theorem witness_flit_targets :
    let s := tun {} { returning := [3], tokens := [(5, .pending)] }
    let t : State := { s with links := { s.links with dirs := [(1, { transfers := [(16384, 64)] })] } }
    let c := stored 1
    let held := rebuilding c
    (∀ k ∈ [3, 6, 8], ring.arrived 8 0 (fl k 0 0 1 0) = true) ∧ ring.arrived 8 0 (fl 8 0 0 7 0) = false
    ∧ (s.ctx 0 0).resident = true ∧ (s.ctx 0 0).tok 5 ≠ .present ∧ 3 ∈ (s.ctx 0 0).returning ∧ (0 : Nat) + 0 ≤ s.cellarSize 0 0
    ∧ (t.linkDir 0 1).transfers.find (16384 + flTag (fl 7 0 0 1 0)) = some 64 ∧ (0 : DieId) ≠ 1 ∧ flAckValid (fl 5 64 0 1 0) = false
    ∧ c.heldWrite 0 0 0 64 = [] ∧ held.heldWrite 0 0 0 64 ≠ [] := by decide +kernel

/-- Flits that are not accepted: with another CRC, of a reserved kind, with a gap before them, without a credit; and groups that replay,
have had 15 errors, are stopped, or retired. -/
theorem witness_flits_refused :
    let s := tun {}
    let d (y : Group) : State := { s with links := { s.links with dirs := [(16, { groups := [(0, y)], roles := [(0, 0)] })] } }
    (∀ p, flitCrcOk (withCrc (fl 1 0 0 1 0) (crcOf (fl 1 0 0 1 0) p ^^^ 1)) (pad128 p) = false)
    ∧ GroupWorks (d {}) 8 0 0 ∧ flitCrcOk (good (fl 13 0 0 1 0)) (pad128 []) = true ∧ 12 ≤ flKind (fl 13 0 0 1 0)
    ∧ flSeq (fl 0 0 0 1 5) ≠ ((d {}).linkDir 8 0 |>.group 0).nextSeq
    ∧ Offered (d { credits := 0 }) 8 0 0 1 (good (fl 1 0 0 1 0) [7]) [7] ∧ ((d { credits := 0 }).linkDir 8 0 |>.group 0).credits = 0
    ∧ (s.ctx 0 0).resident = true ∧ ((d { replaying := true }).linkDir 8 0 |>.group 0).replaying = true
    ∧ ((d { stopped := true }).linkDir 8 0 |>.group 0).stopped = true ∧ ((d { retired := true }).linkDir 8 0 |>.group 0).retired = true
    ∧ 15 ≤ (((d { crcTimes := List.replicate 15 0 }).linkDir 8 0 |>.group 0).crcTimes.filter fun a => decide (0 < a + 10 ^ 9)).length := by
  refine ⟨fun p => ?_, works _ _ _ _ (by decide +kernel), (flitCrcOk_withCrc _ _ _ (by decide +kernel)).trans (beq_self_eq_true _), by decide +kernel, by decide +kernel,
    offered (by decide +kernel) (by decide), ?_⟩
  · rw [flitCrcOk_withCrc _ _ _ (by decide +kernel)]
    simp only [beq_eq_false_iff_ne, ne_eq]
    intro h
    simpa using congrArg (fun c : BitVec 16 => c.getLsbD 0) h
  · decide +kernel

/-- A copy of a control message with its CRC (R317). -/
theorem good_copy (x : Bytes) (h : x.length = 62) : ctlGood (x ++ bytesOfNat 2 (crc16 x).toNat) = true := by
  have ht : (x ++ bytesOfNat 2 (crc16 x).toNat).take 62 = x := by rw [← h, List.take_left]
  have hd : (x ++ bytesOfNat 2 (crc16 x).toNat).drop 62 = bytesOfNat 2 (crc16 x).toNat := by rw [← h, List.drop_left]
  have hn : ∀ c : BitVec 16, Bytes.toNat (bytesOfNat 2 c.toNat) = c.toNat := fun c => by
    simp only [bytesOfNat, Bytes.toNat, BitVec.toNat_ofNat]; omega
  rw [ctlGood, ht, hd, hn]
  simp [h, bytesOfNat]

theorem witness_lane_repair :
    let d (y : Group) : State := { State.reset with links := { State.reset.links with dirs := [(0, { groups := [(0, y)] })] } }
    (let x : Bytes := List.replicate 62 0; x.length = 62 ∧ ctlGood (x ++ [0]) = false) ∧ ((d { stopped := true }).linkDir 0 0).off = false
    ∧ (((d { stopped := true }).linkDir 0 0).group 0).stopped = true ∧ (((d { stopped := true }).linkDir 0 0).group 0).retired = false
    ∧ State.reset.pwr.state = .starting ∧ (State.reset.found 1).index = none ∧ 1 ∉ State.reset.links.seedsSent ∧ (0 : DieId).val = 0
    ∧ (tun {}).pwr.state ≠ .starting := by decide +kernel

/-! ### The update engine and the commit -/

/-- An update table entry: kind, frozen or not, of tensor 0, with count records and 64 columns. -/
def ut (kind : Nat) (frozen : Bool) (count : Nat) : BitVec 512 :=
  BitVec.ofNat 512 (kind * 2 ^ 32 + (if frozen then 2 ^ 35 else 0) + count * 2 ^ 104 + 64 * 2 ^ 240)
/-- A segment of tensor 0 with n elements. -/
def seg (n : Nat) (nf : Bool := false) : GradSegment := { tensor := 0, first := 0, elems := List.replicate n 0, nonfinite := nf }
/-- A tun whose die has one entry, its bucket armed. -/
def upd (e : BitVec 512) (f : UpdCtx → UpdCtx := id) : State :=
  tun {} { upd := f { table := [(3, e)], buckets := [(0, { armed := true })] } }

theorem witness_segments :
    let why (s : State) (g : GradSegment) := ((s.upd 0 0).touched g).findSome? fun p => s.segWaits 0 0 g p
    Arrives (upd (ut 1 false 64)) 0 0 (seg 64)
    ∧ ((upd (ut 1 false 64)).upd 0 0).touched (seg 64) = [(3, ut 1 false 64)] ∧ segBlocks (ut 1 false 64) (seg 64) = [0]
    ∧ why (upd (ut 1 false 64)) (seg 64) = none ∧ why (upd (ut 0 false 64)) (seg 64 true) = none
    ∧ why (upd (ut 1 true 64)) (seg 64) = none ∧ why (upd (ut 4 false 64)) (seg 64) = none ∧ utKind (ut 4 false 64) = 4
    ∧ why (upd (ut 1 false 64) fun x => { x with buckets := [] }) (seg 64) = some 0
    ∧ why (upd (ut 1 false 128)) { seg 64 with first := 64 } = some 1
    ∧ utFrozen (ut 1 true 64) = true ∧ utKind (ut 2 false 64) = 2 := by
  refine ⟨⟨?_, ?_, ?_, ?_, ?_⟩, ?_⟩ <;> decide +kernel

theorem witness_doubles : Doubles (upd (ut 1 false 64) fun x => { x with done := [blockKey 3 0] }) 0 0 (seg 64) :=
  ⟨(3, ut 1 false 64), by decide +kernel, 0, by decide +kernel, Or.inl (by decide +kernel)⟩

theorem witness_blocks :
    let s := upd (ut 1 false 64) fun x => { x with staged := [seg 64], inFlight := [(blockKey 3 0, List.replicate 640 0)] }
    s.pwr.state = .run ∧ (s.upd 0 0).staged.find? (fun g => ((s.upd 0 0).touched g).all fun p => (s.segWaits 0 0 g p).isNone) = some (seg 64)
    ∧ (s.upd 0 0).inFlight.find (blockKey 3 0) = some (List.replicate 640 0)
    ∧ s.heldWrite 0 0 (utKegAddr (ut 1 false 64) 1) 640 = [] ∧ s.groupLinked (0 / 2) = false ∧ (linked s).groupLinked (0 / 2) = true
    ∧ (rebuilding { s with layout := (stored 1).layout }).heldWrite 0 0 (utKegAddr (ut 1 false 64) 1) 640 ≠ [] := by decide +kernel

theorem witness_sketch :
    let s := upd (ut 0 false 64) fun x => { x with factors := [(3, { flushed := true })] }
    let k := upd (ut 0 false 64) fun x => { x with factors := [(3, { flushed := true })], coder := { isOpen := true, payload := List.replicate 65472 0 } }
    (s.upd 0 0).table.find 3 = some (ut 0 false 64) ∧ utKind (ut 0 false 64) = 0 ∧ s.coderFree 0 0 65472 = true ∧ (s.returnedSums 0 0 (ut 0 false 64) []).isSome = true
    ∧ s.heldWrite 0 0 (s.slotAddr 0 (ut 0 false 64)) (slotLen (ut 0 false 64)) = [] ∧ (s.tun 0).sketchSums 0 (utTensor (ut 0 false 64)) (utBucket (ut 0 false 64)) = none
    ∧ (k.returnedSums 0 0 (ut 0 false 64) []).isSome = true ∧ s.pwr.state = .run
    ∧ s.sketchPieces 0 (utTensor (ut 0 false 64)) = [(0, 3, ut 0 false 64)] := by decide +kernel

/-- A tun alone in its cluster, with a step. -/
def stepOf (x : StepHub) (f : Tun → Tun := id) : State := tun (f { step := x, job := { cluster := [(0, [])] } }) { hold := true }

theorem witness_votes :
    let s := stepOf { closed := [0] }
    let two (t : Tun) : Tun := { t with job := { t.job with cluster := [(0, []), (0, [1])] } }
    let m := up (stepOf { given := some {}, votes := [(0, {})] } two)
    let leaves (v : Tbl VoteData) : State := stepOf { given := some {}, votes := v } fun t =>
      { two t with reshard := .moved, package := some { job := { cluster := [(0, [])] }, rankMap := [(0, 0)] } }
    s.voteReady 0 = true ∧ (s.tun 0).step.given = none ∧ (s.tun 0).job.cluster.length = 1
    ∧ Heard m 0 0 1 ∧ (m.tun 0).rank = 0 ∧ (m.tun 0).step.result = none ∧ (m.tun 0).stepNow = 1
    ∧ (∀ r < 2, (((m.tun 0).step.votes.put 1 { step := 1 }).find r).isSome = true) ∧ (m.tun 0).alone = false ∧ (s.tun 0).alone = true
    ∧ (m.tun 0).votesLeft = false ∧ (m.tun 0).voteWaits = false ∧ ((leaves [(0, {})]).tun 0).votesLeft = true
    ∧ ((leaves []).tun 0).votesLeft = false ∧ ((leaves []).tun 0).voteWaits = true ∧ m.macUp 1 = false := by
  dsimp only [Heard]
  decide +kernel

theorem witness_results :
    let own := stepOf { given := some {}, result := some { step := 1 } }
    let far := up (stepOf { given := some {}, spoils := 3 } fun t => { t with rank := 1, job := { t.job with cluster := [(0, []), (0, [1])] } })
    let r : VoteData := { spoiled := true, nf := true, step := 1 }
    ResultIs own none 0 {} { step := 1 } ∧ ResultIs far (some 0) 0 r r ∧ (far.tun 0).spoilLimit ≤ 100000
    ∧ (own.tun 0).stands ((own.tun 0).stepNow - 1) = true := by
  refine ⟨?_, ?_, ?_, ?_⟩
  · exact ⟨by decide +kernel, by decide +kernel, by decide +kernel, by decide +kernel, Or.inl (by decide +kernel)⟩
  · exact ⟨by decide +kernel, by decide +kernel, by decide +kernel, by decide +kernel,
      Or.inr ⟨⟨0, rfl, by decide +kernel, by decide +kernel, by decide +kernel, by decide +kernel⟩, rfl, by decide +kernel⟩⟩
  · decide +kernel
  · decide +kernel

theorem witness_bung :
    let s := stepOf { given := some {}, outcome := some .clean }
    let lag := stepOf { given := some {}, outcome := some .clean } fun t => { t with bung := { step := 1 } }
    let told (o : Outcome) : State := stepOf { outcome := some o, toTell := [0] }
    (s.tun 0).step.given.isSome = true ∧ (s.tun 0).stands (s.tun 0).bung.step = true ∧ (lag.tun 0).stands (lag.tun 0).bung.step = false
    ∧ (lag.tun 0).step.lagSince = none ∧ (0 : Nat) ∈ ((told .clean).tun 0).step.toTell ∧ ((told .clean).ctx 0 0).hold = true
    ∧ (told (.spoiled true)).outstanding 0 0 = false ∧ ((told (.spoiled true)).tun 0).step.toTell.filter (· != 0) = [] := by decide +kernel

theorem witness_host_words :
    let s := stepOf { forwarded := some 5 }
    let d (v : Bool) : State := up (stepOf {} fun t => { t with digests := [(0, [])], bung := { step := 4, valid := v }, job := { cluster := [(0, []), (0, [1])] } })
    (s.tun 0).step.forwarded = some 5 ∧ (s.tun 0).step.hostWord = none ∧ field (1 : BitVec 256) 0 48 = (s.tun 0).stepNow
    ∧ Heard (d true) 0 0 1 ∧ ((d true).tun 0).bung.valid = true ∧ ((d true).tun 0).bung.step < 5 ∧ 3 < ((d true).tun 0).bung.step
    ∧ 4 = ((d true).tun 0).bung.step ∧ ((d true).tun 0).digests ≠ [] ∧ ((d false).tun 0).bung.valid = false := by
  dsimp only [Heard]
  decide +kernel

theorem witness_pieces :
    let j : MovJob := { tun := 0, slot := 5, mover := 0, desc := BitVec.ofNat 512 (4 * 8) }
    let s := tun {} {} { movs := [j] }
    let full := tun { segs := (List.range 4).map fun i => { role := .out 1, slot := i, coll := 0, round := 0, step := 0, attempt := 0, first := i, codes := [] } } {} { movs := [j] }
    (s.die 0).mov 0 5 = some j ∧ mdDstLvl j.desc = 4 ∧ j.void = false ∧ (s.tun 0).slotsUsed < tlSlots (s.lay 0)
    ∧ tlSlots (full.lay 0) ≤ (full.tun 0).slotsUsed ∧ movPages j.desc = [] := by decide +kernel

theorem witness_reshard :
    let pkg : LayoutPackage := { job := { tensors := [(0, 0)] } }
    let s := tun { package := some pkg, reshard := .held }
    let n := tun { package := some pkg }
    (s.tun 0).package = some pkg ∧ (s.tun 0).reshard = .held ∧ s.pwr.state = .run ∧ (s.tun 0).step.toTell = [] ∧ (s.tun 0).step.given = none
    ∧ (s.tun 0).stopped = false ∧ ((relaidJob {} pkg).shards.filter fun h => shRank h == 64) = [] ∧ (s.tun 0).digestBad = []
    ∧ s.reshardHeld 0 64 (relaidJob {} pkg) [] = [] ∧ (n.tun 0).reshard = .no ∧ n.packageMeets 0 0 pkg = false := by decide +kernel

/-- A tun with one vector block of tensor 0 and a package that leaves it where it is. -/
theorem witness_reshard_block :
    let h := BitVec.ofNat 256 (64 * 2 ^ 88 + 3 * 2 ^ 128)
    let pkg : LayoutPackage := { job := { cluster := [(0, [])], shards := [h] }, rankMap := [(0, 0)] }
    let on (r : Reshard) : State := tun { job := { cluster := [(0, [])], tensors := [(0, 2 ^ 32)], shards := [h] }, package := some pkg, reshard := r }
      { upd := { table := [(3, ut 1 false 64)] } }
    let s := on .held
    let j := relaidJob (s.tun 0).job pkg
    (pkg.rankMap.find (s.tun 0).rank).getD 64 = 0 ∧ (j.shards.filter fun h => shRank h == 0) = [h] ∧ shDie h = 0 ∧ kindOf j (shTensor h) = 1
    ∧ utFrozen (shardEntry j h) = false ∧ shardBlocks j h = 1 ∧ ((s.oldBlock 0 0 (shTensor h) (shFirst h)).map List.length) = some 640
    ∧ s.reshardHeld 0 0 j [0] = [] ∧ (on .no).packageMeets 0 0 pkg = true := by decide +kernel

/-! ### The network -/

/-- A tun of a cluster of two, and MAC 0 up on a port of one MAC of 8 lanes. -/
def net (x : Mac := {}) (f : Tun → Tun := id) (port : BitVec 128 := portWord 0) : State :=
  { tun (f { job := { cluster := [(0, []), (0, [1])] } }) with
    net := { State.reset.net with ports := [(0, port)], macs := [(0, { x with link := .up, lanes := 8 })] } }

/-- A data frame's header: from a rank, of a kind, to rank 0 of tun 0, with its payload's length; of the tun's step. -/
def hd (src kind len step : Nat) : BitVec 256 :=
  BitVec.ofNat 256 (len * 2 ^ 32 + step * 2 ^ 176 + kind * 2 ^ 224 + src * 2 ^ 234 + 2 ^ 242 + 2 ^ 248 + 2 ^ 252)

theorem witness_frames :
    let s := net
    let takes := net {} fun t => { t with digestBad := [0] }
    s.macUp 0 = true ∧ s.macUp 1 = false ∧ BadHeader s (hd 1 1 0 1) [] ∧ BadHeader s (hd 1 0 5 1) [] ∧ BadHeader s 0 []
    ∧ ¬ BadHeader s (hd 1 0 0 1) [] ∧ ¬ BadHeader s (hd 1 3 1 1) [7] ∧ ¬ BadHeader s (hd 0 2 0 1) []
    ∧ (s.tun 0).liveHeader (hd 1 0 0 1) = true ∧ (s.tun 0).staleHeader (hd 1 0 0 0) = true
    ∧ field (hd 1 3 1 1) 112 32 ∉ Tbl.get [] (s.tun 0).received 19 ∧ field (hd 1 3 1 1) 102 5 = 0
    ∧ s.permHeld 0 0 ((s.tun 0).repairWrites 0 0 [7]) = [] ∧ (s.tun 0).partials = []
    ∧ (takes.tun 0).takesPerms = true ∧ (s.tun 0).takesPerms = false ∧ s.frameLen 0 0 0 ≤ 9216 ∧ 9216 < s.frameLen 0 0 9200 := by
  dsimp only [BadHeader]
  refine ⟨?_, ?_, ?_, ?_, ?_, ?_, ?_, ?_, ?_, ?_, ?_, ?_, ?_, ?_, ?_, ?_, ?_, ?_⟩ <;> decide +kernel

theorem witness_deliveries :
    let x : Seg := { role := .deliver 0, coll := 0, round := 0, step := 1, attempt := 0, first := 0, codes := [7] }
    let job : JobImage := { dlvs := [(0, 2 ^ 64)] }
    let s := tun { segs := [x], job := job }
    let t := tun { segs := [x], dlvSpent := [0] }
    let later := tun { segs := [{ x with round := 1 }], job := job }
    s.pwr.state ≠ .stopped ∧ (s.tun 0).segs.filter ((s.tun 0).turnAt 0) = [x] ∧ x.scales = [] ∧ (later.tun 0).segs.filter ((later.tun 0).turnAt 0) = []
    ∧ (Tbl.get (0, 0) (s.tun 0).dlvCount 0).2 = 0 ∧ 0 ∉ (s.tun 0).dlvSpent ∧ 0 ∈ (t.tun 0).dlvSpent ∧ (s.ctx 0 0).tok 0 ≠ .present := by decide +kernel

/-- A racking tap of tun 0 in force, with an endpoint, and an evaluation tap. -/
def rackTapOf (endpoint : Nat) : BitVec 1024 := BitVec.ofNat 1024 (4 + 2 ^ 9 + 2 ^ 10 + endpoint * 2 ^ 11)

theorem witness_messages :
    let s := net
    let rs : RackSeg := { header := BitVec.ofNat 512 6, payload := [], sentAt := some 0, mac := some 0, numbered := true }
    let r := net {} fun t => { t with rackTap := some (rackTapOf 5), rack := { segs := [rs] }, restoring := true }
    ctlOf (.acknowledgement 0 0 (.receiver 5) (BitVec.ofNat 64 (2 ^ 60))) = some (0, 0, none) ∧ ctlOf (.acknowledgement 0 0 (.rank 1) 0) = some (0, 0, some 1)
    ∧ ctlOf (.hello 0 0 1 0) = some (0, 0, some 1) ∧ FromMember (s.tun 0) (some 1) ∧ ¬ FromMember (s.tun 0) (some 0) ∧ FromMember (s.tun 0) none
    ∧ s.macUp 0 = true ∧ s.macUp 1 = false ∧ (s.tun 0).loaded = true
    ∧ field (BitVec.ofNat 64 (2 ^ 60 + 2 ^ 56)) 60 4 = 1 ∧ field (BitVec.ofNat 64 (2 ^ 60 + 2 ^ 56)) 56 4 = 1
    ∧ Named 0 0 rs = true ∧ (r.tun 0).endpoint rs = some 5 ∧ r.evalPeer 0 rs = none ∧ (r.tun 0).restoring = true
    ∧ ∀ q, q < (r.tun 0).job.cluster.length → q = (r.tun 0).rank ∨ q ∈ [1] := by
  refine ⟨?_, ?_, ?_, ?_, ?_, ?_, ?_, ?_, ?_, ?_, ?_, ?_, ?_, ?_, ?_, ?_⟩
  case refine_4 => rintro r h; cases h; decide +kernel
  case refine_5 => exact fun h => absurd (h 0 rfl) (by decide +kernel)
  case refine_6 => rintro r h; cases h
  all_goals decide +kernel

theorem witness_failover :
    let x : Seg := { role := .out 1, coll := 0, round := 0, step := 1, attempt := 0, first := 0, codes := [], mac := some 0, sentAt := some 0, seq := 9 }
    let y : RackSeg := { header := BitVec.ofNat 512 1, payload := [], sentAt := some 0, mac := some 0, numbered := true, seq := 9 }
    let z : Perm := { rank := 1, die := 0, at' := 0, data := [7], mac := some 0, sentAt := some 0, seq := 9 }
    let p : Partial := { src := 1, kind := 0, seq := 4, header := 0, since := 0 }
    let s := net { timeouts := 7 } fun t => { t with segs := [x], rack := { segs := [y] }, perms := [z], partials := [p], rackTap := some (rackTapOf 5) }
    let d : State := { s with net := { s.net with deltasDue := [(64 + 3, 100)], gauge := some { header := 0, endpoints := [], deltas := [{ rank := 0, mac := 0, pecks := [] }] } } }
    (s.mac 0).link ≠ .fenced ∧ s.macExists 0 = true ∧ s.macExists 1 = false ∧ 7 ≤ (s.mac 0).timeouts ∧ (s.mac 0).peck = none
    ∧ (s.tun 0).segs.find? (fun y => y.role == .out 1 && (y.mac == some 0 && y.sentAt.isSome && y.seq == 9)) = some x
    ∧ (s.tun 0).rack.segs.find? (fun y => (s.tun 0).endpoint y == some (69 - 64) && (y.mac == some 0 && y.sentAt.isSome && y.seq == 9)) = some y
    ∧ (s.tun 0).perms.find? (fun y => y.rank == 1 && (y.mac == some 0 && y.sentAt.isSome && y.seq == 9)) = some z
    ∧ (s.tun 0).partials.find? (fun p => p.src == 1 && p.kind == 0 && p.seq == 4) = some p
    ∧ d.net.deltasDue.find? (fun p => p.1 == 67) = some (67, 100) ∧ s.ownRank = 0
    ∧ (d.net.gauge.any fun g => (planDelta g s.ownRank 0).isSome) = true ∧ 0 ∉ d.net.failed := by decide +kernel

theorem witness_widths :
    let s := net { helloOk := true } id (portWord (2 ^ 6))
    let down : State := { s with net := { s.net with macs := [(0, { link := .training })] } }
    let gauged : State := { s with net := { s.net with gauge := some { header := 0, endpoints := [], pecks := [(0, (3 : BitVec 32))] } } }
    (MayShed s 0 8 ∧ ¬ MayShed s 0 0) ∧ portShed (s.port 0) = true ∧ portLanes (s.port 0) = 8 ∧ s.macExists 0 = true ∧ down.pwr.state ≠ .off
    ∧ (down.mac 0).link = .training ∧ s.openPort 0 = true ∧ s.net.ptp.state ≠ .locked ∧ (StretchAt s 0 9 ∧ StretchAt gauged 0 4 ∧ ¬ StretchAt gauged 0 5)
    ∧ shedLanes (s.port 0) (s.stretchUs 0 9) = 2 ∧ MayShed s 0 2 ∧ tlSealed (s.lay 0) = false ∧ (s.mac 0).ctl = []
    ∧ s.txHeld 0 s.ctlPriority = false ∧ s.shaped 0 (s.frameLen 0 0 16) = true := by
  dsimp only [MayShed, StretchAt]
  decide +kernel

theorem witness_racking :
    let s := tun {} { upd := { coder := { isOpen := true, payload := [0, 0], count := 1 } } }
    let x : RackSeg := { header := 0, payload := [], place := .buffer 0 }
    let b := tun { rack := { segs := [x] } }
    let e := tun { rack := { pending := [(0, 0)] } }
    let q : CaskPiece := { die := 0, piece := 2, entry := 0, firstBlock := 0, blocks := 0, base := 0, snapshot := some [1, 2] }
    let c := tun { rack := { pieces := [q] } }
    let d := tun { rack := { pieces := [{ q with done := true }] } }
    let v := tun { rack := { evals := [{ die := 0, base := 3 }] } }
    (d.tun 0).rack.pieces.find? (fun p => p.done && p.unacked == 0) = some { q with done := true } ∧ (v.tun 0).evalDurable { die := 0, base := 3 } = true
    ∧ c.evalTarget 0 = none ∧ (v.tun 0).slotsHeld < tlRackSlots (v.lay 0) ∧ s.pwr.state ≠ .stopped ∧ (s.coder 0 0).isOpen = true ∧ s.coderFree 0 0 65472 = true ∧ (s.coder 0 1).isOpen = false
    ∧ (b.tun 0).buffered 0 = [x] ∧ ((b.tun 0).buffered 0).length ≤ tlRackSlots (b.lay 0) - (b.tun 0).slotsHeld
    ∧ (((b.tun 0).buffered 0).map fun x => readTraffic x.payload.length).sum ≤ b.spillRoom 0 0
    ∧ (e.tun 0).rack.pending = [(0, 0)] ∧ (e.tun 0).stepDurable 0 = true ∧ (e.tun 0).slotsHeld < tlRackSlots (e.lay 0) ∧ (c.tun 0).slotsHeld < tlRackSlots (c.lay 0)
    ∧ ((c.tun 0).rack.pieces.filter fun p => p.die == 0).find? (fun p => !p.done) = some q
    ∧ [{ q with done := true }].find? (fun p => p.done && p.unacked == 0) = some { q with done := true } := by decide +kernel

theorem witness_pauses :
    let s := net {} (fun t => { t with job := { t.job with macsec := true } })
    let p := net { paused := [(7, 100)] }
    s.macUp 0 = true ∧ s.pwr.state = .run ∧ discardedIn s 0 [1] true = some 13 ∧ discardedIn s 0 (List.replicate 64 0) false = some 16
    ∧ discardedIn s 0 (List.replicate 64 0xFF) true = some 3 ∧ discardedIn s 0 (List.replicate 9217 0) true = some 14
    ∧ discardedIn s 0 (List.replicate 9217 0) false = some 15 ∧ (s.tun 0).job.macsec = true ∧ s.saKnown 0 0 0 0 = false
    ∧ s.saKnown 0 0 0x100 0 = true ∧ (p.mac 0).paused = [(7, 100)] ∧ (s.mac 0).paused = [] ∧ s.txHeld 0 0 = false
    ∧ (net { pausedAt := some 0, paused := [(0, 100)] }).txHeld 0 0 = true := by decide +kernel

theorem witness_clock :
    let s := net {} id (portWord (2 ^ 8))
    let set (p : Ptp) : State := s.setPtp p
    s.macUp 0 = true ∧ (0 : MacId).val ∈ s.ptpPorts ∧ (0 : BitVec 8).toNat = s.net.ptpDomain ∧ (1 : BitVec 8).toNat ≠ s.net.ptpDomain
    ∧ s.powered = true ∧ s.serviced = true ∧ s.net.ptp.best = none ∧ (net).ptpPorts = []
    ∧ (set { best := some [2], port := 0, awaitFollow := true, state := .locked }).net.ptp.best.isSome = true
    ∧ dataSetLt [1, 0, 0, 0, 0, 0, 0] [2] = true ∧ dataSetLt [3, 0, 0, 0, 0, 0, 0] [2] = false
    ∧ dataSetLt s.net.ptpOwn [1, 0, 0, 0, 0, 0, 0] = false ∧ dataSetLt s.net.ptpOwn [256, 0, 0, 0, 0, 0, 0] = true
    ∧ (set { state := .holdover }).net.ptp.state = .holdover ∧ (10000#16).toNat ≤ 10000 := by decide +kernel

theorem witness_pecks :
    let g : GaugePlan := { header := 0, endpoints := [], pecks := [(0, (0 : BitVec 32))] }
    let ok : GaugePlan := { header := BitVec.ofNat 160 (2 ^ 65), endpoints := [0], bytes := 2 ^ 21 }
    let s : State := { net with net := { (net).net with gauge := some g } }
    let box : State := { s with layout := { tuns := [(0, BitVec.ofNat 1024 7)] } }
    let wakes : State := { (net {} id (portWord (2 ^ 7))) with pwr := { State.reset.pwr with state := .deepIdle } }
    let wake : State := { wakes with net := { wakes.net with wakes := [(0, BitVec.ofNat 192 (2 ^ 176 + 2 ^ 160))] } }
    (s.pecksOf 0).find? (fun p => p.1 == 0) = some (0, (0 : BitVec 32)) ∧ pkKind ((0 : BitVec 32)) < 2
    ∧ s.pwr.state = .run ∧ (s.mac 0).peck = none ∧ tlSealed (s.lay (pkTun ((0 : BitVec 32)))) = false ∧ (s.mac 0).link = .up
    ∧ tlSealed (box.lay 0) = true ∧ box.usesMac 0 0 = true ∧ box.timeLost 0 = false ∧ box.canSend 0 = true ∧ (box.tun 0).loaded = true ∧ (s.pecksOf 1) = []
    ∧ box.txHeld 0 box.ctlPriority = false ∧ ({ box with net := { box.net with macs := [(0, { link := .up, lanes := 8, paused := [(0, 100), (6, 100), (7, 100)], pausedAt := some 0 })] } }.txHeld 0 box.ctlPriority) = true
    ∧ (packControls (640 - box.frameOver 0 0) ([] : List CtlMsg)).1 = []
    ∧ (0 : Nat) ∈ wakes.wakeGroups ∧ wakes.pwr.state = .deepIdle ∧ wakes.macExists 0 = true
    ∧ wakeMatches (BitVec.ofNat 192 (2 ^ 176 + 2 ^ 160)) 0 (List.replicate 64 0) = true ∧ wake.net.wakes ≠ []
    ∧ planRefusal g (some 0) 0 false = some (2, 0) ∧ planRefusal ok none 0 false = none := by decide +kernel

/-! ### The host interface -/

/-- A tap entry of a kind for tun 0, enabled, of generation 1, with 4 KiB rings, and a CRC. -/
def tapWord (kind more : Nat) (crc : BitVec 32 := 0) : BitVec 1024 :=
  BitVec.ofNat 1024 (kind + 2 ^ 9 + 12 * 2 ^ 128 + 12 * 2 ^ 384 + 2 ^ 960 + more + crc.toNat * 2 ^ 992)
/-- A tun with a tap in force at its second tap, the link up and taps on. -/
def host (e : BitVec 1024) (x : Tap := {}) (f : Tun → Tun := id) : State :=
  { tun (f {}) with host := { State.reset.host with tapOn := true, linkUp := true, winState := .running, taps := [(17, { x with entry := e })] } }

theorem witness_hub :
    let s := tun {}
    (∃ p ∈ s.tuns, p.2.loaded = true) ∧ (s.tun 0).loaded = true ∧ (¬ ∃ p ∈ State.reset.tuns, p.2.loaded = true)
    ∧ ∀ p ∈ [(17, tapWord 2 0)], tapGen p.2 = (Tbl.get {} [(17, ({ seen := 1 } : Tap))] p.1).seen := by decide +kernel

/-- The CRC-32 of a byte string, a part at a time. -/
theorem crc32_parts (a b c d : Bytes) (x y z w : BitVec 32) (ha : a.foldl crc32Byte 0xFFFFFFFF = x) (hb : b.foldl crc32Byte x = y)
    (hc : c.foldl crc32Byte y = z) (hd : d.foldl crc32Byte z ^^^ 0xFFFFFFFF = w) : crc32 (a ++ b ++ c ++ d) = w := by
  rw [crc32, List.foldl_append, List.foldl_append, List.foldl_append, ha, hb, hc, hd]

theorem witness_sound_tap :
    let e := tapWord 3 0 0x76852C91
    (host 0).tapLegal 17 e = true ∧ tapGen e ≠ 0 ∧ crc32 (bytesOfNat 120 e.toNat) = BitVec.ofNat 32 (field e 992 32) := by
  refine ⟨by decide +kernel, by decide +kernel, ?_⟩
  let b := bytesOfNat 120 (tapWord 3 0 0x76852C91).toNat
  have h : b = b.take 30 ++ (b.drop 30).take 30 ++ (b.drop 60).take 30 ++ (b.drop 90).take 30 := by decide +kernel
  have r : BitVec.ofNat 32 (field (tapWord 3 0 0x76852C91) 992 32) = 0x76852C91 := by decide +kernel
  exact (congrArg crc32 h).trans ((crc32_parts _ _ _ _ 0x57A0C737 0x8AEA819D 0x34C9CDE2 0x76852C91 (by decide +kernel) (by decide +kernel)
    (by decide +kernel) (by decide +kernel)).trans r.symm)

theorem witness_taps :
    let s := host (tapWord 3 0) { torn := true, seen := 5 }
    (s.tapLegal 17 (tapWord 14 0) = false ∧ tapEn (Tbl.get ({} : Tap) s.host.taps 17).entry = true)
    ∧ areaHostIdx (Tbl.get ({} : Tap) s.host.taps 17).entry 0 < 64 ∧ (Tbl.get ({} : Tap) s.host.taps 17).torn = true
    ∧ tapGen (tapWord 14 0) ≠ 5 ∧ s.pwr.state ≠ .deepIdle := by decide +kernel

theorem witness_records :
    let s := host (tapWord 3 0) {} fun t => { t with bung := { step := 1 }, inputTap := true }
    let late : State := { s with dies := [(0, { s.die 0 with movs := [{ tun := 0, slot := 0, mover := 0, desc := 2 * 8, step := 1 }] })] }
    let one : JobImage := { shards := [0], entries := [(0, 0)] }
    let pkg : LayoutPackage := { job := {} }
    let meets := host (tapWord 3 0) {} fun t => { t with package := none }
    (∃ k w, s.tunTap 0 3 = some (k, w) ∧ (s.tun 0).outRing.devIdx + 64 ≤ (s.tun 0).outRing.hostIdx + areaSize w 0)
    ∧ (s.tun 0).loaded = true ∧ (s.tun 0).outputPosted + 1 ≤ (s.tun 0).bung.step ∧ s.granaryWrites 0 1 = false ∧ s.host.linkUp = true
    ∧ (tun {}).host.linkUp = false ∧ (s.tun 0).inputTap = true ∧ late.pwr.state = .run
    ∧ (∀ k ∈ [4, 5, 6], kindEntry k (tapWord k (2 ^ 576)) = true ∧ tapTun (tapWord k 0) = 0) ∧ kindEntry 4 (tapWord 5 0) = false
    ∧ (s.tun 0).evReq < tapParam (tapWord 6 (2 ^ 576)) 72 32 ∧ tapEn (tapWord 6 0) = true
    ∧ tapKind (tapWord 8 0) = 8 ∧ kindOk (tapWord 12 (2 ^ 576)) = true ∧ kindOk (tapWord 8 (2 ^ 768)) = true ∧ mapOverlaps [0] = false
    ∧ mapOverlaps [BitVec.ofNat 256 (2 ^ 128), BitVec.ofNat 256 (2 ^ 128)] = true
    ∧ coefsOk (s.tun 0).job 0 [] = true ∧ sketchesOk (s.tun 0).job 0 [] = true ∧ coefsOk one 0 [(0, 15)] = false
    ∧ pkg.sigOk = true ∧ shardsOk { pkg.job with tensors := (s.tun 0).job.tensors } = true ∧ (s.tun 0).reshard = .no
    ∧ s.packageMeets 0 ((s.tun 0).bung.step + 1) pkg = false ∧ (meets.tun 0).loaded = true := by
  refine ⟨⟨17, tapWord 3 0, by decide +kernel, by decide +kernel⟩, ?_⟩
  decide +kernel

/-- The closed status is due, with a ring of 8 KiB and room in it. -/
theorem witness_closed_status :
    let w := BitVec.ofNat 1024 (12 + 2 ^ 9 + 13 * 2 ^ 128 + 12 * 2 ^ 384 + 2 ^ 576)
    let c := host w {} fun t => { t with statusTap := some w, ts := some [], job := { closedStatus := true } }
    tapOn (c.tun 0).statusTap = some w ∧ (c.tun 0).loaded = true ∧ (c.tun 0).job.closedStatus = true ∧ (c.tun 0).ts.isSome = true
    ∧ (c.tun 0).statusDue ≤ c.net.ptp.bushel ∧ (c.tun 0).statusRing.devIdx + 8192 ≤ (c.tun 0).statusRing.hostIdx + areaSize w 0
    ∧ c.host.linkUp = true ∧ tapOn (tun {} |>.tun 0).statusTap = none := by decide +kernel

/-- The job of a tun alone in its cluster, of one die with no slices. -/
def job : JobImage := { cluster := [(0, [])], groups := [(0, BitVec.ofNat 128 (1 + 2 ^ 64))] }
/-- A running device whose tun 0 is laid out and holds no job. -/
def free : State := { tun {} with tuns := [], host := { State.reset.host with winState := .running } }

theorem witness_load : Loads free 0 job 0 ∧ Loads { free with nowPs := 5, host := { free.host with stopAllAt := some 4 } } 0 job 0 :=
  ⟨⟨by decide +kernel, by decide +kernel, by decide +kernel, by decide +kernel, by decide +kernel, by decide +kernel, by decide +kernel, by decide +kernel⟩,
   ⟨by decide +kernel, by decide +kernel, by decide +kernel, by decide +kernel, by decide +kernel, by decide +kernel, by decide +kernel, by decide +kernel⟩⟩

/-- A job with a vector piece of 64 elements of tensor 0 on die 0. -/
def vecJob : JobImage :=
  { job with tensors := [(0, BitVec.ofNat 256 (2 ^ 32 + 64 * 2 ^ 64))], shards := [BitVec.ofNat 256 (64 * 2 ^ 88 + 3 * 2 ^ 128)] }

theorem witness_restore :
    let e := tapWord 7 (2 ^ 640 + 5 * 2 ^ 576)
    let s := tun { ts := some [], job := job }
    let a := s.tun 0
    let r := s.setTun 0 { a with rsGo := tapParam e 80 32 }
    kindEntry 7 e = true ∧ tapTun e = 0 ∧ kindEntry 7 (tapWord 6 0) = false ∧ tapEn e = true ∧ a.rsGo < tapParam e 80 32 ∧ (r.tun 0).loaded = true
    ∧ (r.tun 0).ts.isSome = true ∧ a.reshard = .no ∧ (tun {} |>.tun 0).ts.isSome = false ∧ r.rankIn 0 job = some 0 ∧ r.rankIn 0 {} = none
    ∧ r.jobRefusal 0 ((r.tun 0).reloaded job 0 (tapParam e 72 48) []) = none
    ∧ (r.jobRefusal 0 ((r.tun 0).reloaded { job with sigOk := false } 0 (tapParam e 72 48) [])).isSome = true
    ∧ restoreFailure a.rackKey job (r.owned 0 0 job) [] (readList a.rackKey 5 []) = none
    ∧ (restoreFailure a.rackKey job [(0, 3, ut 1 false 64)] [] (readList a.rackKey 5 [])).isSome = true
    ∧ (r.owned 0 0 vecJob).map (fun o => (utKind o.2.2, entryBlocks o.2.2)) = [(1, 1)] := by decide +kernel

/-- The commands of a control tap: a code that no command has, and records in and out of their ranges. -/
theorem witness_commands :
    let s := tun {}
    (s.tun 0).loaded = true ∧ (free.tun 0).loaded = false ∧ 8 < (9 : BitVec 8).toNat ∧ 1 ≤ (5 : BitVec 8).toNat ∧ (5 : BitVec 8).toNat ≤ 8
    ∧ limitsOk 0 = false ∧ gravityOk 0 = false
    ∧ limitsOk (BitVec.ofNat 512 (1 + 2 ^ 32 + 2 ^ 64 + 2 ^ 96)) = true ∧ gravityOk (BitVec.ofNat 512 (2 ^ 7 + 2 ^ 11 + 2 ^ 27 + 2 ^ 43)) = true := by decide +kernel

/-! ### Start, board management, SPDM -/

/-- A copy of the image with its five least records, their bodies empty. -/
def image : FlashCopy :=
  let records := [0x50, 0x51, 0x40, 0x01, 0x02].flatMap fun t => bytesOfNat 16 t
  { readable := true, endorseOk := true, signatureOk := true, hubFwOk := true, cdsFwOk := true, pufOk := true, records := records,
    header := bytesOfNat 32 (0x4B494E4E + 2 ^ 32 + 2 ^ 64 + 80 * 2 ^ 128 + 5 * 2 ^ 160) ++ sha3_512 records ++ List.replicate 160 0 }
/-- A device that starts from it. -/
def flashed : State := { State.reset with flash := { copyA := image } }

theorem image_sound : image.magicOk = true ∧ image.version = 1 ∧ image.recordsOk = true ∧ image.secKeys = true ∧ image.serial = 0 ∧ image.digestOk = true := by
  decide +kernel

theorem image_valid (s : State) (h : (if s.sec.seed.isNone then 0 else (s.flash.checked.filter fun b => b.kind == 2).foldl (fun x b => max x b.version) 0) ≤ 1) :
    s.copyValid image 0 = true := by
  obtain ⟨h1, h2, h3, h4, h5, h6⟩ := image_sound
  simp only [State.copyValid, h1, h2, h3, h4, h5, h6, decide_eq_true h, show image.readable = true from rfl, show image.whole = true from rfl,
    show image.signatureOk = true from rfl, beq_self_eq_true, Bool.true_or, Bool.and_self]

theorem known_flashed : (known flashed {}).tries 0 = [false] := by
  have h : (known flashed {}).copyValid image 0 = true := image_valid _ (by decide +kernel)
  have h2 : (known flashed {}).copyValid (known flashed {}).flash.copyB 0 = false := by decide +kernel
  have c : ∀ y, (known flashed {}).flash.copy y = if y then (known flashed {}).flash.copyB else image := fun y => by cases y <;> rfl
  simp only [State.tries, List.filter, c, h, h2, Bool.false_eq_true, ↓reduceIte]
  decide +kernel

theorem witness_starts :
    let f : StartFinds := {}
    MayStart flashed f ∧ flashed.pwr.state = .starting ∧ flashed.pins.testMode = false ∧ f.selfTestOk = true ∧ f.fwFault = false ∧ f.lost = none
    ∧ [false].find? (fun y => copyCheck (flashed.flash.copy y) f.serial == 0) = some false
    ∧ [false].any (fun y => copyCheck (flashed.flash.copy y) f.serial == 0) = true
    ∧ (List.range 8).any (fun n => !(((begun flashed f false).startFind image f).die n).lost) = true ∧ flashed.flash.boots.length ≤ 4000 := by
  dsimp only [MayStart]
  decide +kernel

/-- Starts that find no copy, or none that can be read; three failed starts; no helper data. -/
theorem witness_failed_starts :
    let none' : State := { State.reset with flash := { copyA := { image with header := [] } } }
    let unread : State := { State.reset with flash := { copyA := { image with whole := false } } }
    let failed : BootRecord := { seq := 0, kind := 1, copy := false, fails := 0, cause := 0, version := 1, timeMs := 0, dieState := 0, measure := [] }
    let thrice : State := { flashed with flash := { flashed.flash with boots := List.replicate 3 failed } }
    MayStart none' {} ∧ (known none' {}).tries 0 = [] ∧ none'.flash.unread = false ∧ none'.flash.boots.length ≤ 4000 ∧ MayStart unread {}
    ∧ (known unread {}).tries 0 = [] ∧ unread.flash.unread = true ∧ thrice.sec.tamper = false ∧ thrice.flash.yieldsS = true ∧ 3 ≤ thrice.flash.failCount
    ∧ State.reset.flash.yieldsS = false ∧ State.reset.flash.helper = false := by
  dsimp only [MayStart]
  decide +kernel

theorem witness_board :
    let s : State := { tun {} with host := { State.reset.host with winState := .running } }
    let idle : State := { free with pwr := { free.pwr with state := .deepIdle, config := BitVec.ofNat 128 (2 ^ 51) } }
    s.pwr.state ≠ .off ∧ s.host.winState = .running ∧ s.host.copy = false ∧ free.anyStep = false ∧ free.pwr.state = .run
    ∧ idle.pwr.state = .deepIdle ∧ idle.pwr.autoIdle = true ∧ s.pins.i3cAddr = none ∧ s.pins.testMode = false := by decide +kernel

theorem witness_spdm :
    let on : State := { tun {} with sec := { State.reset.sec with version := true, capabilities := true, algorithms := true, seed := some 0, sessions := [(0, { isOpen := true, finished := true }), (1, { isOpen := true })] } }
    spdmAnswers on (.getDigests) = some true ∧ spdmAnswers on (.challenge 0 []) = some true ∧ spdmAnswers on (.challenge 1 []) = some false
    ∧ spdmAnswers on (.setTunSecret 0 0 [] [] true) = some true ∧ spdmAnswers on (.keyExchange []) = some true
    ∧ spdmAnswers State.reset .getDigests = some false ∧ on.connected = true ∧ on.pwr.state ≠ .off
    ∧ (Tbl.get ({} : Session) on.sec.sessions 1).finished = false ∧ (on.measurement 255).isSome = false := by decide +kernel

/-! ### Power and faults -/

theorem witness_stops :
    let s := tun {}
    StopCause s (.inputOverCurrent 45001) 1 { s with pwr := { s.pwr with sensors := { s.pwr.sensors with inI := 4500 } } }
    ∧ StopCause s (.supplyCollapse 37999) 2 { s with pwr := { s.pwr with sensors := { s.pwr.sensors with inV := 3799 } } }
    ∧ StopCause s .psAlert 3 s ∧ StopCause s .bmcOrderEstop 6 s
    ∧ StopCause s (.thermalSample { tCd := 111 } false) 4 { s with pwr := { s.pwr with sensors := { tCd := 111 } } }
    ∧ s.pwr.state = .run ∧ (s.ctx 0 0).resident = true ∧ (0 : Nat) ∈ s.diesOf 0 ∧ (s.dies.find 0).isSome = true :=
  ⟨⟨rfl, by decide +kernel, rfl⟩, ⟨rfl, by decide +kernel, rfl⟩, ⟨rfl, rfl⟩, ⟨rfl, rfl⟩, ⟨rfl, rfl, Or.inr (Or.inl (by decide +kernel))⟩,
   by decide +kernel, by decide +kernel, by decide +kernel, by decide +kernel⟩

theorem witness_release :
    let s (x : Pwr) : State := { State.reset with pwr := { x with state := .stopped } }
    ((s { estopCause := 1 }).pwr.estopCause ≠ 5 ∧ (s { estopCause := 1 }).pwr.held = false ∧ (s { estopCause := 1 }).pwr.reports = [] ∧ 5 ∉ (s { causes := [1] }).pwr.causes ∧ 6 ∉ (s { causes := [1] }).pwr.causes)
    ∧ (s { estopCause := 4 }).pwr.cool = true ∧ 4000 ≤ (s { estopCause := 2, sensors := {} }).pwr.sensors.inV
    ∧ (s { config := 0 }).pwr.estopLimit ≤ ((s { config := 0, stopTimes := [5] }).pwr.stopsNow 6).length := by decide +kernel

theorem witness_power :
    let s (p : Pwr) : State := { tun {} with pwr := p }
    (s { sensors := { w10ms := 1651 } }).pwr.isOver = true ∧ (s { sensors := { w10ms := 1650 } }).pwr.isOver = false
    ∧ (s { sensors := { w10ms := 1567 } }).pwr.under = true ∧ (s { sensors := { w10ms := 1568 } }).pwr.under = false
    ∧ (s { redFailed := [3] }).pwr.redFailed.contains 3 = true ∧ (s {}).pwr.redFailed.contains 3 = false
    ∧ ((s {}).die 0).lost = false ∧ ((s {}).diesOf 0).contains 0 = true ∧ ((s {}).tun 0).loaded = true := by decide +kernel

theorem witness_held :
    let s : State := { tun {} with pwr := { State.reset.pwr with state := .stopped } }
    s.pwr.state = .stopped ∧ Held s .hubManagerWatchdog { cls := 12, die := 8, unit := 16, time := s.timeNs }
    ∧ Held s (.reductionEngineFault 0) { cls := 12, die := 8, unit := 16, time := s.timeNs }
    ∧ Held s (.clockLoss .coreHd) { cls := 12, die := 8, unit := 16, time := s.timeNs }
    ∧ Held s (.dieLoss 0 8 false) { cls := 11, die := 0, unit := 24, time := s.timeNs } :=
  ⟨by decide +kernel, rfl, ⟨rfl, rfl⟩, rfl, ⟨by decide +kernel, rfl⟩⟩

theorem witness_words :
    let s := stored 1 { ueSeen := [(3, 0)], step := { attempt := 1 } }
    (s.found 0).state ≠ .dark ∧ localLvl 0 = some 0 ∧ localLvl (2 ^ 32) = some 1 ∧ localLvl (2 ^ 32 + 2 ^ 31) = some 2
    ∧ failedBefore s 0 3 ∧ (s.ctx 0 0).resident = true ∧ (s.cellarAt 0 0 0).map (fun l => (l.cls, s.unprotected l)) = some (1, false) := by
  refine ⟨by decide +kernel, by decide +kernel, by decide +kernel, by decide +kernel, ⟨(3, 0), ?_, ?_, ?_⟩, by decide +kernel, ?_⟩ <;> decide +kernel

theorem witness_repairs :
    let r : RowRepair := { lvl := 0, unit := 63, row := 511 }
    let s := die { ceSeen := [(r, 0)] }
    let g := { (die {}) with cellar := { State.reset.cellar with groups := [(0, { state := .rebuilding, failed := some 3 })] } }
    r.inBounds = true ∧ ({ r with row := 512 } : RowRepair).inBounds = false ∧ (s.found 0).state ≠ .dark
    ∧ (s.die 0).ceSeen.any (fun (p : RowRepair × Nat) => p.1 == r) = true ∧ (die {}).pwr.state = .run
    ∧ (g.group 0).state = .rebuilding ∧ (linked g).groupLinked 0 = true ∧ g.groupLinked 0 = false ∧ (g.group 0).failed ≠ some 4 ∧ (g.group 1).state = .whole := by decide +kernel

/-! ### Single steps against values of the rules -/

/-- The state that a command leaves, where it leaves one. -/
def after (c : Instr) (s : State) : Option State := match exec c s with
  | .next t => some t
  | _ => none

/-- R105: 1.0, 0.75, a zero, an infinity and a NaN to E8M0. -/
theorem test_e8m0 : [Fmt.conv .e8m0 .nearest false (.fin false 1 1), Fmt.conv .e8m0 .nearest false (.fin true 3 4),
    Fmt.conv .e8m0 .nearest false (.fin true 0 1), Fmt.conv .e8m0 .nearest false (.inf true), Fmt.conv .e8m0 .nearest false .nan].map Conv.code
    = [0x7F, 0x7E, 0x00, 0xFE, 0xFF] := by decide +kernel
/-- R92: in E2M1 0.99 rounds to 1.0 and is kept, and 0.8 becomes zero. -/
theorem test_e2m1_flush : (Fmt.conv .e2m1 .nearest false (.fin false 99 100)).code = 2 ∧ (Fmt.conv .e2m1 .nearest false (.fin true 4 5)).code = 8 := by
  decide +kernel
/-- R347: a load at the moment of HUB_STOP_ALL is refused, and one a moment later is taken. -/
theorem test_stop_all_tie :
    ((after (.hubStopAll true) free).bind fun s => (after (.loadJob 0 0 job) s).map fun t => (t.tun 0).loaded) = some false
    ∧ ((after (.hubStopAll true) free).bind fun s => (after (.loadJob 0 0 job) { s with nowPs := s.nowPs + 1 }).map fun t => (t.tun 0).loaded) = some true := by
  decide +kernel
/-- R42: a completion of a PRESENT token stops the tun. -/
theorem test_double_set :
    ((after (.tokenCompletion 0 0 2 false) (tun {} { tokens := [(2, .present)] })).map fun t => (t.tun 0).stopped) = some true := by decide +kernel
/-- R294: on a 400 GbE MAC a pause at 44.000 µs finds 93 frames of the peck of 40.000 µs sent. -/
theorem test_pause_in_peck :
    let x : Sent := { queue := .coll, tun := 0, dest := 1, seq := 0, resent := false, before := 0, header := 0, data := [],
                      frames := 352, at' := 40000000, per := 43080, stop := 55164160 }
    let k : Peck := { idx := 0, tun := 0, start := 40000000, target := 55900000, stop := 55900000, run := [x] }
    let s : State := { net { peck := some k } id (portWord 2) with nowPs := 44000000 }
    ((after (.pause 0 3125) s).map fun t => ((t.mac 0).peck.map fun k => (k.run.map fun x => (x.frames, x.stop), k.held), t.dataResumes 0))
      = some (some ([(93, 44006440)], true), 48000000) := by
  decide +kernel
/-- R294: a last frame that ends 26.72 ns past the target leaves that debt. -/
theorem test_peck_debt :
    let x : Sent := { queue := .coll, tun := 0, dest := 1, seq := 0, resent := false, before := 0, header := 0, data := [],
                      frames := 1, at' := 55883640, per := 43080, stop := 55926720 }
    let k : Peck := { idx := 0, tun := 0, start := 40000000, target := 55900000, stop := 55900000, run := [x] }
    let s : State := { net { peck := some k } with nowPs := 55900000 }
    ((after (.peckLastFrameEnd 0) s).map fun t => (Tbl.get 0 (t.mac 0).debts 0, t.nowPs)) = some (26720, 55926720) := by decide +kernel
/-- R335: a write past the end of the status window is no address of the device. -/
theorem test_outside_window : after (.statusWindowWrite 0x400000 0 1) State.reset = none := by decide +kernel
/-- R169, R174: the second corrected word of a row within 24 hours queues it, and the first does not. -/
theorem test_row_queue :
    let r : RowRepair := { lvl := 0, unit := 63, row := 511 }
    ((after (.correctableError 0 0 63 511) (die {})).map fun t => (t.die 0).rowsQueued) = some []
    ∧ ((after (.correctableError 0 0 63 511) (die { ceSeen := [(r, 0)] })).map fun t => (t.die 0).rowsQueued) = some [r] := by decide +kernel
/-- R289: the 16th estimate in a row within 20 ns locks the clock, and one of 21 ns does not. -/
theorem test_ptp_lock :
    let s := (net {} id (portWord (2 ^ 8))).setPtp { state := .acquiring, best := some [1], port := 0, good := 15 }
    ((after (.ptpSync 0 0 false (-20)) s).map fun t => t.net.ptp.state) = some .locked
    ∧ ((after (.ptpSync 0 0 false 21) s).map fun t => t.net.ptp.state) = some .acquiring := by decide +kernel
/-- R41, R51: a slice with an undefined field is a program fault, and does not issue. -/
theorem test_illegal_slice :
    ((after (.nextSlice 0) (atSlice (2 ^ 54))).map fun t => ((t.tun 0).stopped, (t.ctx 0 0).issue)) = some (true, 0) := by decide +kernel
/-- R33: the last pass of a loop goes on behind it, and one before the last goes to TARGET. -/
theorem test_loop_end :
    let at' (n : Nat) : State := atSlice (2 + 9 * 2 ^ 28) fun c => { c with loops := [(0, { isOpen := true, count := n })] }
    ((after (.loopEnd 0) (at' 1)).map fun t => (t.ctx 0 0).pc) = some 1
    ∧ ((after (.loopEnd 0) (at' 2)).map fun t => ((t.ctx 0 0).pc, (t.ctx 0 0).fetchWait)) = some (9, 8) := by decide +kernel

/-! ### The whole device -/

theorem witness_whole :
    (∃ t, exec (.hubStopAll true) State.reset = .next t) ∧ mayStore (.hubStopAll true) = false ∧ mayLayOut (.hubStopAll true) = false
    ∧ State.reset.memWf = true ∧ State.reset.pending = [] ∧ ∃ t, step { State.reset with pending := [.hubStopAll true] } = .next t :=
  ⟨⟨_, rfl⟩, rfl, rfl, by decide +kernel, rfl, _, rfl⟩

theorem witness_report :
    let s := tun {}
    (s.ctx 0 0).resident = true ∧ s.pwr.state ≠ .stopped ∧ (s.tun 0).loaded = true ∧ (s.diesOf 0).contains 0 = true := by decide +kernel

end Sys2Proof.Tests
end

section
/-! SUPPORT. What the issue gate answers a seal slice (R46, R67), what a slice command does with the gate's answer, and
what a held or a faulting slice leaves of its tun's context. -/

open Sys2Proof Sys2Proof.Machine Sys2Proof.Claims

namespace Sys2Proof.Machine

/-! ### The test of a seal slice -/

/-- Whether a bank takes a pass (R63). -/
def Bank.Running (b : Bank) : Prop := b.state = .accumulating

/-- Whether a bank holds what no drain has taken up (R46). -/
def Bank.Undrained (b : Bank) : Prop := b.state = .preloaded ∨ b.state = .holding

/-- Whether a drain of a die is in flight, or a delayed drain of tun u there (R46, R143). -/
def Die.InFlight (d : Die) (u : Nat) : Prop :=
  d.bank0.state = .draining ∨ d.bank1.state = .draining ∨ d.tiles.any (fun y => y.tun == u && y.delayed && y.drained) = true

/-- A running pass on a bank of a die. -/
def Die.PassRuns (d : Die) : Prop := d.bank0.Running ∨ d.bank1.Running

/-- Undrained values in a bank of a die. -/
def Die.HoldsUndrained (d : Die) : Prop := d.bank0.Undrained ∨ d.bank1.Undrained

theorem Bank.zero_of_idle {b : Bank} (hr : ¬ b.Running) (hu : ¬ b.Undrained) (hd : b.state ≠ .draining) : b.state = .zero := by
  unfold Bank.Running at hr
  unfold Bank.Undrained at hu
  cases h : b.state <;> simp_all

/-- The seal test as one chain of conditions (R46): a running pass, then a drain in flight, then undrained values. -/
theorem Die.sealTest_spec (d : Die) (u : Nat) :
    (d.PassRuns → d.sealTest u = .fault .sealViolation)
    ∧ (¬ d.PassRuns → d.InFlight u → d.sealTest u = .wait .sealed)
    ∧ (¬ d.PassRuns → ¬ d.InFlight u → d.HoldsUndrained → d.sealTest u = .fault .sealViolation)
    ∧ (¬ d.PassRuns → ¬ d.InFlight u → ¬ d.HoldsUndrained → d.sealTest u = .go) := by
  simp only [Die.sealTest, Die.PassRuns, Die.InFlight, Die.HoldsUndrained, Bank.Running, Bank.Undrained, Bool.or_eq_true,
    beq_iff_eq, or_assoc]
  refine ⟨fun hr => if_pos hr, fun hr hf => ?_, fun hr hf hu => ?_, fun hr hf hu => ?_⟩ <;> rw [if_neg hr]
  · rw [if_pos hf]
  · rw [if_neg hf, if_pos hu]
  · rw [if_neg hf, if_neg hu]

theorem Die.sealTest_eq_go_iff (d : Die) (u : Nat) :
    d.sealTest u = .go ↔ d.bank0.state = .zero ∧ d.bank1.state = .zero ∧ ¬ d.InFlight u := by
  obtain ⟨running, inFlight, undrained, idle⟩ := d.sealTest_spec u
  constructor
  · intro h
    have hr : ¬ d.PassRuns := fun hr => by simp [running hr] at h
    have hf : ¬ d.InFlight u := fun hf => by simp [inFlight hr hf] at h
    have hu : ¬ d.HoldsUndrained := fun hu => by simp [undrained hr hf hu] at h
    exact ⟨Bank.zero_of_idle (hr ∘ .inl) (hu ∘ .inl) (hf ∘ .inl),
      Bank.zero_of_idle (hr ∘ .inr) (hu ∘ .inr) (hf ∘ .inr ∘ .inl), hf⟩
  · rintro ⟨h0, h1, hf⟩
    exact idle (by simp [Die.PassRuns, Bank.Running, h0, h1]) hf (by simp [Die.HoldsUndrained, Bank.Undrained, h0, h1])

/-! ### The gate -/

/-- What comes before the seal test at the gate: an illegal slice (R31) and a domain that is not awake (R48). -/
def GateOut.Early (a : GateOut) : Prop := a = .fault .illegalSlice ∨ a = .wait .wake

/-- The gate answers a seal slice by what comes before the seal test, or by the seal test; where that lets the slice go,
no later condition is a fault. -/
theorem gateSlice_seal (g : GateIn) (d : Die) (c : Ctx) (x : Slice) (hx : ctlSeal x = true) :
    (gateSlice g d c x).Early
    ∨ d.sealTest g.tun ≠ .go ∧ gateSlice g d c x = d.sealTest g.tun
    ∨ d.sealTest g.tun = .go ∧ ∀ f, gateSlice g d c x ≠ .fault f := by
  unfold gateSlice GateOut.Early
  simp only [hx, Bool.not_true, Bool.false_and, Bool.false_eq_true, if_false, if_true]
  split
  · exact .inl (.inl rfl)
  split
  · exact .inl (.inr rfl)
  cases ht : d.sealTest g.tun with
  | fault f => exact .inr (.inl ⟨nofun, rfl⟩)
  | wait w => exact .inr (.inl ⟨nofun, rfl⟩)
  | go =>
    refine .inr (.inr ⟨rfl, fun f => ?_⟩)
    dsimp only
    repeat' split
    all_goals exact nofun

theorem gateSlice_seal_of_sealTest {g : GateIn} {d : Die} {c : Ctx} {x : Slice} {a : GateOut} (hx : ctlSeal x = true)
    (ht : d.sealTest g.tun = a) (ha : a ≠ .go) : (gateSlice g d c x).Early ∨ gateSlice g d c x = a := by
  obtain h | ⟨-, h⟩ | ⟨hgo, -⟩ := gateSlice_seal g d c x hx
  · exact .inl h
  · exact .inr (h.trans ht)
  · exact absurd (ht.symm.trans hgo) ha

theorem sealTest_go_of_gateSlice_go {g : GateIn} {d : Die} {c : Ctx} {x : Slice} (hx : ctlSeal x = true)
    (h : gateSlice g d c x = .go) : d.sealTest g.tun = .go := by
  obtain he | ⟨-, ht⟩ | ⟨ht, -⟩ := gateSlice_seal g d c x hx
  · simp [GateOut.Early, h] at he
  · exact ht.symm.trans h
  · exact ht

theorem gateSlice_ne_sealViolation {g : GateIn} {d : Die} {c : Ctx} {x : Slice} (hx : ctlSeal x = true)
    (ht : d.sealTest g.tun = .go) : gateSlice g d c x ≠ .fault .sealViolation := by
  obtain he | ⟨hne, -⟩ | ⟨-, hf⟩ := gateSlice_seal g d c x hx
  · rintro h
    simp [GateOut.Early, h] at he
  · exact absurd ht hne
  · exact hf _

/-- A 2,500th slice without SEAL since the last seal point is a fault (R45). -/
theorem gateSlice_sealSpacing {g : GateIn} {d : Die} {c : Ctx} {x : Slice} (hx : ctlSeal x = false) (h : 2500 ≤ c.sinceSeal + 1) :
    gateSlice g d c x = .fault .illegalSlice ∨ gateSlice g d c x = .fault .sealSpacing := by
  unfold gateSlice
  dsimp only
  split
  · exact .inl rfl
  · rw [if_pos (by simp [hx, h])]
    exact .inr rfl

/-! ### What a slice command does with the gate's answer -/

/-- The domains a slice at the gate lacks asked to wake (R48, R247). -/
def State.askAwake (s : State) (n u : Nat) (x : Slice) : State :=
  let d := s.die n
  let ks := wakeDemand (s.gateIn n u x) d (s.ctx n u) x
  if ks.isEmpty then s
  else s.setDie n { d.wakeAll ks with idleGated := d.idleGated.filter fun k => !(ks.contains k) }

/-- A cycle of waiting counted as throttled, where it is (R393). -/
def State.countThrottled (s : State) (throttled : Bool) : State :=
  if throttled then { s with pwr := { s.pwr with throttleCycles := s.pwr.throttleCycles + 1 } } else s

/-- What the gate's answer makes of a slice: it issues, its tun stops at a fault, or it waits a cycle with the domains it
lacks asked to wake (R41, R48, R50, R51). -/
def State.answered (s : State) (n u : Nat) (x : Slice) : GateOut → State
  | .go => s.issueNow n u x
  | .fault f => s.programFault n u f
  | .wait w => (((s.askAwake n u x).waitCycle n u w).noteStall n u x w).countThrottled ((s.gateIn n u x).throttled && w == .wake)

theorem exec_of_sliceKey {c : Instr} {d : DieId} {names : Slice → Bool} (h : sliceKey c = some (d, names)) (s : State) :
    exec c s = .next (s.sliceCommand d names) := by
  cases c <;> cases h <;> rfl

/-- A slice command whose slice stands at the gate has the effect of the gate's answer. -/
theorem exec_atGate {c : Instr} {s : State} {d : DieId} {u : Nat} {x : Slice} (h : AtGate c s d u x) :
    exec c s = .next (s.answered d u x (gateAnswer s d u x)) := by
  obtain ⟨⟨names, hkey, hnames⟩, hissuer, hslice, hheld, hfetch⟩ := h
  rw [exec_of_sliceKey hkey, State.sliceCommand]
  simp only [hissuer, hslice, hnames, hheld, hfetch]
  unfold gateAnswer
  cases gateSlice (s.gateIn d u x) (s.die d) (s.ctx d u) x <;> rfl

/-! ### A slice that waits -/

@[simp] theorem State.ctx_askAwake (s : State) (n u : Nat) (x : Slice) : (s.askAwake n u x).ctx n u = s.ctx n u := by
  unfold State.askAwake
  dsimp only
  split
  · rfl
  · simp only [State.ctx, State.die_setDie_same]
    rfl

@[simp] theorem State.ctx_countThrottled (s : State) (throttled : Bool) (n u : Nat) :
    (s.countThrottled throttled).ctx n u = s.ctx n u := by
  unfold State.countThrottled
  split <;> rfl

@[simp] theorem State.ctx_waitCycle_same (s : State) (n u : Nat) (w : Wait) :
    (s.waitCycle n u w).ctx n u = (s.ctx n u).waited w := by
  simp only [State.ctx, State.waitCycle, State.die_setDie_same]
  exact Die.ctx_setCtx_same ..

@[simp] theorem State.ctx_noteStall (s : State) (n u m v : Nat) (x : Slice) (w : Wait) :
    (s.noteStall n u x w).ctx m v = s.ctx m v := by
  unfold State.noteStall
  dsimp only
  split <;> rfl

/-- A waiting slice costs its tun's context one cycle of waiting (R50). -/
theorem State.ctx_answered_wait (s : State) (n u : Nat) (x : Slice) (w : Wait) :
    (s.answered n u x (.wait w)).ctx n u = (s.ctx n u).waited w := by
  simp [State.answered]

/-! ### A slice that makes a program fault -/

@[simp] theorem State.ctx_event (s : State) (u code : Nat) (args : List Nat) (n v : Nat) :
    (s.event u code args).ctx n v = s.ctx n v := rfl

@[simp] theorem State.tun_spoil (s : State) (n u v : Nat) : (s.spoil n u).tun v = s.tun v := by
  unfold State.spoil
  split <;> rfl

@[simp] theorem State.diesOf_spoil (s : State) (n u v : Nat) : (s.spoil n u).diesOf v = s.diesOf v := by
  unfold State.spoil
  split <;> rfl

@[simp] theorem Tun.endLag_layNow (t : Tun) (now : Nat) : (t.endLag now).layNow = t.layNow := by
  unfold Tun.endLag
  split <;> rfl

/-- Stopping a tun on each die of a list stops it there, and leaves it stopped where it was. -/
theorem State.stopped_foldl_stop (u n : Nat) (l : List Nat) (s : State) (h : n ∈ l ∨ (s.ctx n u).stopped = true) :
    ((l.foldl (fun s m => s.setCtx m u { s.ctx m u with stopped := true }) s).ctx n u).stopped = true := by
  induction l generalizing s with
  | nil => exact h.resolve_left List.not_mem_nil
  | cons m l ih =>
    rw [List.foldl_cons]
    refine ih _ ?_
    by_cases hm : n = m
    · subst hm
      simp
    · rw [State.ctx_setCtx_other _ _ (.inl hm)]
      exact h.imp_left fun hn => (List.mem_cons.mp hn).resolve_left hm

/-- The hub stops a loaded tun on each of its dies (R51). -/
theorem State.stopped_stopTun {s : State} {n u : Nat} (hl : (s.tun u).loaded = true) (hn : n ∈ s.diesOf u) :
    ((s.stopTun u).ctx n u).stopped = true := by
  unfold State.stopTun
  dsimp only
  rw [if_pos hl]
  refine State.stopped_foldl_stop _ _ _ _ (.inl ?_)
  simpa [State.diesOf, State.lay] using hn

theorem State.stopped_programFault {s : State} {n u : Nat} (f : ProgFault) (hl : (s.tun u).loaded = true) (hn : n ∈ s.diesOf u) :
    ((s.programFault n u f).ctx n u).stopped = true := by
  unfold State.programFault
  rw [State.ctx_event]
  exact State.stopped_stopTun (by simpa using hl) (by simpa using hn)

theorem Ctx.prog_issue (c : Ctx) : c.prog.issue = c.issue := rfl

/-- A program fault leaves the issue count: it is part of the tun's program. -/
theorem State.issue_programFault (s : State) (n u m v : Nat) (f : ProgFault) :
    ((s.programFault n u f).ctx m v).issue = (s.ctx m v).issue := by
  rw [← Ctx.prog_issue, State.progs_ctx, State.programFault_progs]
  rfl

end Sys2Proof.Machine

namespace Sys2Proof.Claims

/-- Settles O14: the gate answers a seal slice, after what comes before, by the seal test; a waiting slice counts one
cycle of CDS_STALL_SEAL and a faulting one stops its tun. -/
theorem sealSlices : Obligations.SealSlices := by
  unfold Obligations.SealSlices
  intro c s d u x hgate
  have hexec := exec_atGate hgate
  obtain ⟨running, inFlight, undrained, -⟩ := (s.die d).sealTest_spec u
  dsimp only
  refine ⟨fun hx ha => ?_, fun hx hlive => ?_, fun hx hr0 hr1 hu0 hu1 hf => ?_, fun hx h0 h1 hf => ?_, fun ha => ?_,
    fun hx hn => gateSlice_sealSpacing hx hn, fun f ha hl hd => ?_⟩
  · obtain ⟨h0, h1, -⟩ := ((s.die d).sealTest_eq_go_iff u).mp (sealTest_go_of_gateSlice_go hx ha)
    exact ⟨h0, h1⟩
  · refine gateSlice_seal_of_sealTest hx (?_ : (s.die d).sealTest u = .fault .sealViolation) nofun
    by_cases hr : (s.die d).PassRuns
    · exact running hr
    · obtain h0 | h1 | ⟨hu, hf⟩ := hlive
      · exact absurd (.inl h0) hr
      · exact absurd (.inr h1) hr
      · exact undrained hr hf hu
  · exact gateSlice_seal_of_sealTest hx (inFlight (not_or.mpr ⟨hr0, hr1⟩) hf) nofun
  · exact gateSlice_ne_sealViolation hx (((s.die d).sealTest_eq_go_iff u).mpr ⟨h0, h1, hf⟩)
  · rw [ha] at hexec
    refine ⟨_, hexec, ?_, ?_⟩ <;> rw [State.ctx_answered_wait] <;> rfl
  · rw [ha] at hexec
    exact ⟨_, hexec, State.stopped_programFault f hl (List.contains_iff_mem.mp hd), State.issue_programFault ..⟩

end Sys2Proof.Claims
end

section
/-! SUPPORT. The exponent of a positive fraction, told by comparisons of naturals alone, and what a conversion to E8M0
writes and allows (R105). -/

open Sys2Proof Sys2Proof.Machine Sys2Proof.Claims

namespace Sys2Proof

/-! ### The exponent of a positive fraction -/

/-- An exponent written as a difference: the comparison with n / d, both sides multiplied out. -/
theorem pow2Le_sub_iff (a b n d : Nat) : pow2Le ((a : Int) - b) n d ↔ d * 2 ^ a ≤ n * 2 ^ b := by
  unfold pow2Le
  split
  case isTrue hab =>
    obtain ⟨k, rfl⟩ : ∃ k, a = k + b := ⟨a - b, by omega⟩
    have hk : (((k + b : Nat) : Int) - b).toNat = k := by omega
    rw [hk, Nat.pow_add, ← Nat.mul_assoc]
    exact (Nat.mul_le_mul_right_iff (Nat.two_pow_pos b)).symm
  case isFalse hab =>
    obtain ⟨k, rfl⟩ : ∃ k, b = k + a := ⟨b - a, by omega⟩
    have hk : (-((a : Int) - (k + a : Nat))).toNat = k := by omega
    rw [hk, Nat.pow_add, ← Nat.mul_assoc]
    exact (Nat.mul_le_mul_right_iff (Nat.two_pow_pos a)).symm

theorem pow2Le_of_le {j k : Int} {n d : Nat} (hjk : j ≤ k) (h : pow2Le k n d) : pow2Le j n d := by
  obtain ⟨a, b, rfl⟩ : ∃ a b : Nat, j = (a : Int) - b := ⟨j.toNat, (-j).toNat, by omega⟩
  obtain ⟨c, rfl⟩ : ∃ c : Nat, k = ((a + c : Nat) : Int) - b := ⟨(k + b - a).toNat, by omega⟩
  rw [pow2Le_sub_iff] at h ⊢
  have hpow : 2 ^ a ≤ 2 ^ (a + c) := Nat.pow_le_pow_right Nat.two_pos (Nat.le_add_right a c)
  exact Nat.le_trans (Nat.mul_le_mul_left d hpow) h

theorem le_of_pow2Le_of_not_pow2Le {j k : Int} {n d : Nat} (hj : pow2Le j n d) (hk : ¬ pow2Le (k + 1) n d) : j ≤ k := by
  have hjk : ¬ k + 1 ≤ j := fun h => hk (pow2Le_of_le h hj)
  omega

theorem pow2Le_log2_sub {n d : Nat} (hn : 0 < n) : pow2Le ((n.log2 : Int) - (d.log2 + 1 : Nat)) n d := by
  have hnum : 2 ^ n.log2 ≤ n := Nat.log2_self_le (Nat.ne_of_gt hn)
  have hden : d ≤ 2 ^ (d.log2 + 1) := Nat.le_of_lt Nat.lt_log2_self
  rw [pow2Le_sub_iff, Nat.mul_comm n]
  exact Nat.mul_le_mul hden hnum

theorem not_pow2Le_log2_sub {n d : Nat} (hd : 0 < d) : ¬ pow2Le ((n.log2 + 1 : Nat) - (d.log2 : Int)) n d := by
  have hnum : n < 2 ^ (n.log2 + 1) := Nat.lt_log2_self
  have hden : 2 ^ d.log2 ≤ d := Nat.log2_self_le (Nat.ne_of_gt hd)
  rw [pow2Le_sub_iff, Nat.not_le, Nat.mul_comm d]
  exact Nat.mul_lt_mul_of_lt_of_le hnum hden hd

theorem floorLog2_of_pow2Le {n d : Nat} (h : pow2Le ((n.log2 : Int) - d.log2) n d) :
    floorLog2 n d = (n.log2 : Int) - d.log2 := by
  unfold pow2Le at h
  unfold floorLog2
  dsimp only
  split at h
  case isTrue hg => rw [if_pos hg, if_pos h]
  case isFalse hg => rw [if_neg hg, if_pos h]

theorem floorLog2_of_not_pow2Le {n d : Nat} (h : ¬ pow2Le ((n.log2 : Int) - d.log2) n d) :
    floorLog2 n d = (n.log2 : Int) - d.log2 - 1 := by
  unfold pow2Le at h
  unfold floorLog2
  dsimp only
  split at h
  case isTrue hg => rw [if_pos hg, if_neg h]
  case isFalse hg => rw [if_neg hg, if_neg h]

/-- floorLog2 starts from the difference of the logarithms of numerator and denominator, which is the exponent of the
fraction or one more than it, and lets one comparison decide. -/
theorem floorLog2_spec {n d : Nat} (hn : 0 < n) (hd : 0 < d) :
    pow2Le (floorLog2 n d) n d ∧ ¬ pow2Le (floorLog2 n d + 1) n d := by
  by_cases h : pow2Le ((n.log2 : Int) - d.log2) n d
  · rw [floorLog2_of_pow2Le h]
    have hnext : (n.log2 : Int) - d.log2 + 1 = (n.log2 + 1 : Nat) - (d.log2 : Int) := by omega
    exact ⟨h, hnext ▸ not_pow2Le_log2_sub hd⟩
  · rw [floorLog2_of_not_pow2Le h, Int.sub_add_cancel]
    have hself : (n.log2 : Int) - d.log2 - 1 = (n.log2 : Int) - (d.log2 + 1 : Nat) := by omega
    exact ⟨hself ▸ pow2Le_log2_sub hn, h⟩

/-- The exponent of a positive fraction is the only one that R105's floor allows. -/
theorem floorLog2_eq_of_pow2Le {n d : Nat} {k : Int} (hn : 0 < n) (hd : 0 < d) (hle : pow2Le k n d)
    (hlt : ¬ pow2Le (k + 1) n d) : floorLog2 n d = k := by
  obtain ⟨hfloor, hnext⟩ := floorLog2_spec hn hd
  exact Int.le_antisymm (le_of_pow2Le_of_not_pow2Le hfloor hlt) (le_of_pow2Le_of_not_pow2Le hle hnext)

/-! ### What a conversion to E8M0 writes -/

theorem clampInt_eq_max_min {lo hi : Int} (h : lo ≤ hi) (x : Int) : clampInt lo hi x = max lo (min hi x) := by
  unfold clampInt
  split
  · omega
  · split <;> omega

theorem convE8M0_code_of_pos {n : Nat} (hn : 0 < n) (d : Nat) :
    ((convE8M0 n d).code : Int) = max 0 (min 254 (floorLog2 n d + 127)) := by
  rw [convE8M0, if_neg (Nat.ne_of_gt hn), clampInt_eq_max_min (by decide)]
  exact Int.toNat_of_nonneg (Int.le_max_left ..)

end Sys2Proof

namespace Sys2Proof.Machine

/-! ### The modes of a conversion to E8M0 in a legal slice -/

theorem modes_of_vecModesOk_e8m0 {c : Ctx} {v : BitVec 64} (hop : opConvClass (vecOp v) = true) (hf : vecFmt v = 0x0E)
    (h : vecModesOk c v = true) : vecRnd v = 0 ∧ vecOvf v = false := by
  unfold vecModesOk at h
  dsimp only at h
  have modes := (Bool.and_eq_true_iff.mp h).2
  rw [hop, hf] at modes
  simpa only [beq_self_eq_true, Bool.and_self, Bool.not_true, Bool.false_or, Bool.and_eq_true, beq_iff_eq, Bool.not_eq_true']
    using modes

theorem vecModesOk_of_vecLegal {c : Ctx} {v : BitVec 64} {drain bankInt : Bool} (h : vecLegal c v drain bankInt = true) :
    vecModesOk c v = true := by
  simp only [vecLegal, Bool.and_eq_true] at h
  obtain ⟨⟨⟨⟨-, modes⟩, -⟩, -⟩, -⟩ := h
  exact modes

theorem vecLegal_of_sliceLegal {c : Ctx} {die : Nat} {x : Slice} {b : Bank} {delayed : Bool} {v : BitVec 64}
    (hv : v ∈ vecGroups x) (h : sliceLegal c die x b delayed = true) :
    vecLegal c v (arrOp (arrGroup x) == 3) (b.held == some .int) = true := by
  unfold sliceLegal at h
  dsimp only at h
  simp only [Bool.and_eq_true] at h
  obtain ⟨⟨⟨⟨-, vectors⟩, -⟩, -⟩, -⟩ := h
  exact List.all_eq_true.mp vectors v hv

end Sys2Proof.Machine

namespace Sys2Proof.Claims

/-- Settles O13: a positive magnitude has the one exponent that floorLog2 finds, and a legal slice holds only vector
groups whose modes are legal. -/
theorem conversionToE8M0 : Obligations.ConversionToE8M0 := by
  unfold Obligations.ConversionToE8M0
  refine ⟨fun m ieee neg n d k hn hd hle hlt => ?_, fun _ _ _ _ => rfl, fun _ _ _ => ⟨rfl, rfl⟩,
    fun c die x b delayed v hv hop hf hmodes => ?_⟩
  · rw [← floorLog2_eq_of_pow2Le hn hd hle hlt]
    exact convE8M0_code_of_pos hn d
  · refine Bool.eq_false_iff.mpr fun hlegal => ?_
    have legal := vecLegal_of_sliceLegal hv hlegal
    obtain ⟨hrnd, hovf⟩ := modes_of_vecModesOk_e8m0 hop hf (vecModesOk_of_vecLegal legal)
    obtain hne | htrue := hmodes
    · exact hne hrnd
    · exact Bool.false_ne_true (hovf.symm.trans htrue)

end Sys2Proof.Claims
end
